-- ==== Sys2Proof/Word.lean ====
section
/-!
DEFINITION. The words of the machine (R2, R3): the 64-bit lane value and scalar, the 32-bit
instruction word, the byte, the mask of a gang's 32 lanes, and the value a vector register names,
one word per lane.
-/

namespace Sys2Proof

/-- A lane value or a scalar: 64 bits (R30, R54). -/
abbrev Word := BitVec 64

/-- An instruction or prefix word: 32 bits (R51). -/
abbrev IWord := BitVec 32

/-- A byte of memory (R3). -/
abbrev Byte := BitVec 8

/-- One bit per lane of a gang, bit i for lane i (R30). -/
abbrev Mask := BitVec 32

/-- A 7-bit register field of an instruction word (R54). -/
abbrev Reg := BitVec 7

/-- One 64-bit value per lane of a gang: a vector register, or a 256-byte register line (R136). -/
abbrev Lanes := Vector Word 32

/-- The four bits N, Z, C, V of c0 to c3 of one lane: cN in bits [4N+3:4N], N in bit 4N+3 (R137). -/
abbrev CcWord := BitVec 16

end Sys2Proof
end

