-- ==== Sys2Proof/Syntax.lean ====
section
/-!
DEFINITION. The syntax of one indivisible step of the Scaontus B96: one constructor for each row of
spec/opcode_table.json. The rows with a 32-bit pattern are the words of Aelros, prefixes included
(R51, R69); their operands are the fields of the word at their own widths, in the order from the
most significant field down. The rows without a pattern are the steps the part takes on its own or
at the hand of the outside world (spec/95_what_each_step_holds.md); their operands name the unit
that takes the step and carry what only the outside world decides (a sensor reading, whether a
signature verified, whether a read met an error).
-/

namespace Sys2Proof

/-- One berth as the signed configuration block lays it out (R28, R387, R389). -/
structure BerthConf where
  /-- berth index -/
  b : BitVec 4
  /-- BCLUST, BQUAD, BSEG and VFS -/
  clusters : BitVec 64
  quads : BitVec 64
  segs : BitVec 16
  vfs : BitVec 16
  /-- BKEY 0 to 7, key slot 0 at bit 0 -/
  keys : BitVec 512
  /-- WAYS of each slice the berth's quads hold -/
  ways : BitVec 16
  /-- first value of SENDALW (R21) -/
  send : BitVec 15
  /-- first value of ALLOW, counter 0 at bit 0 (R435) -/
  allow : List Word
  deriving DecidableEq, Repr

/-- The signed configuration block (R28): the power cap in watts and the default berths. -/
structure ConfigBlock where
  powerCap : Nat
  berths : List BerthConf
  deriving DecidableEq, Repr

/-- What the lock-keeper samples every 100 µs (R25): junction temperature of each cluster and
temperature of each stack in degrees Celsius, supply voltages in mV and module power in watts. -/
structure Sensors where
  clusterTemp : List Nat
  stackTemp : List Nat
  coreVolt : Nat
  hbmVolt : Nat
  power : Nat
  deriving DecidableEq, Repr

/-- What a UALink peer asks of this device's memory (R106, R123, R131): n bytes, bytes to write with the
marks of its units in address order, or an atomic of 32 or (wide) 64 bits. -/
inductive PeerReq where
  | read (n : Nat)
  | write (data : List Byte) (marks : List Bool)
  | atomic (op : BitVec 4) (wide : Bool) (operand comparand : Word)
  deriving DecidableEq, Repr

/-- What a refresh of a ULS bank finds wrong with line n of gang g (R144): the lane words of lanes cannot be
corrected; for a clean line, whether the error persists when it is fetched again. A corrected word is only
logged. -/
structure UlsErr where
  g : Nat
  n : Nat
  lanes : Mask
  corrected : Bool
  persists : Bool
  deriving DecidableEq, Repr

/-- What the destination of a migration sends the source pilot (R428): whether its certificate chains lead to the root, the
public key they certify, the message hash and both signatures of it, its measurements 1 to 3, the digests of the
tenant's policy with both signatures, the session's transcript hash, its X25519 share, and its ML-KEM-768 ciphertext. -/
structure MigCheck where
  chains : Bool
  key : List Byte
  hash : List Byte
  ed : List Byte
  ml : List Byte
  measured : List (List Byte)
  policy : List (List Byte)
  polEd : List Byte
  polMl : List Byte
  transcript : List Byte
  share : List Byte
  cipher : List Byte
  deriving DecidableEq, Repr

/-- Whose queues a notify page belongs to: VF v (R366) or queue interface i of PF0 (R382). -/
inductive QOwner where
  | vf (v : BitVec 4)
  | qi (i : BitVec 3)
  deriving DecidableEq, Repr

/-- Who a write to a notify page comes from: a PCIe requester (R130), or a peer device (R131). -/
inductive Requester where
  | pcie (req : BitVec 16)
  | peer (dev : BitVec 6)
  deriving DecidableEq, Repr

/-- The form of a domain lath instance as other devices know it (R288): every item but the span, which is the
domain, and the result address, which each device has its own of. -/
structure DomainForm where
  red : Bool
  op : BitVec 4
  k : Nat
  p : BitVec 24
  w : Bool
  deriving DecidableEq, Repr

/-- A message of a domain lath instance from another device (R289): arrivals of a form with their combined value
positions, taken counts, the opening of the successor, or an abort by the device with this DID. -/
inductive DomainMsg where
  | arrive (n : Nat) (form : DomainForm) (vals : List Word)
  | taken (n : Nat)
  | openNext
  | abort (did : BitVec 6)
  deriving DecidableEq, Repr

/-- One step of the part: a word of Aelros, or a step of the table without a word. -/
inductive Instr where
  /-- Assertion of power-good starts bring-up with the lock-keeper powered first (R28). -/
  | powerGood
  /-- Step 2: the lock-keeper derives the device identity key from the PUF, or enters recovery mode (R28). -/
  | deriveIdentityKey (ok : Bool)
  /-- Step 3: both signatures of the active firmware slot are verified, falling back to the other slot (R28). -/
  | verifyFirmwareSlot (edA mlA edB mlB : Bool)
  /-- Step 4: the signed configuration block is verified, or the device comes up with no berths (R28). -/
  | verifyConfigBlock (ok : Bool) (blk : ConfigBlock)
  /-- Step 5: HBM4E, UCIe and UALink are trained and spare repairs applied; failing parts are disabled and logged (R28). -/
  | trainAndRepair (hbms ports : BitVec 8) (ucie : BitVec 2) (clusters : BitVec 64) (columns : List (Nat × BitVec 8))
  /-- Step 6: the harbourmaster, the standby and the pilot cores are started (R28). -/
  | startFirmwareCores (ok : Bool)
  /-- Step 7: the harbourmaster builds the configured berths, sets STATE and ADMIT to 1, and sets READY (R28). -/
  | buildBerths (built : BitVec 16)
  /-- Every 100 µs the lock-keeper samples temperatures, voltages and module power (R25). -/
  | sensorSample (r : Sensors)
  /-- A firmware image delivered to slot A or B becomes active only if both of its signatures verify (R25). -/
  | firmwareUpdate (slotB edOk mlOk : Bool)
  /-- At the end of each 1 µs window the berth's send allowance is renewed, and waiting requests may inject (R21). -/
  | sendWindow (b : BitVec 4)
  /-- A write to a doorbell ends a HALT of firmware core n and sets its event bit (R24). -/
  | fwdoorWrite (n : BitVec 5)
  /-- A write to a register that has no behaviour of its own updates its RW fields and ignores reserved and RO fields (R6). -/
  | registerWrite (addr v : Word)
  /-- The home takes one store registration: it revokes any other owner, records the new owner, and acknowledges (R118). -/
  | storeRegistration (k : Nat) (err : Bool)
  /-- A registration acknowledgement reaches the storing core, and the store becomes registered and visible (R118). -/
  | registrationAck (k : Nat)
  /-- A read reaches a home, which returns its value or forwards the owner's value (R119). -/
  | homeRead (g k : Nat) (err soft : Mask)
  /-- The data of a long-latency unit arrives, fills the L1, and is written or held under the lookahead rule (R67). -/
  | dataArrival (g k : Nat)
  /-- An atomic is performed at its home: it revokes any owner, applies the operation, writes, and returns the old value (R123). -/
  | atomicAtHome (g : Nat) (err soft : Mask)
  /-- A host posted write is registered at its home in requester order unless Relaxed Ordering is set (R130). -/
  | hostPostedWrite (req : BitVec 16) (relaxed : Bool) (pa : BitVec 48) (data : List Byte)
  /-- A host read is performed at the home after the requester's earlier posted writes are registered (R130), or
  reads a BAR0 (R29, R73). -/
  | hostRead (req : BitVec 16) (addr : Word) (n : Nat)
  /-- A peer's access is performed at this device's home and acknowledged (R131). -/
  | peerAccess (dev : BitVec 6) (pa : BitVec 48) (r : PeerReq)
  /-- A peer home acknowledges a posted store, which is then registered (R131). -/
  | peerAck (k : Nat) (ok : Bool)
  /-- A UALink port goes down: unregistered peer stores fail and domain lath instances abort (R298). -/
  | linkDown (port : BitVec 3)
  /-- An idle activation slot pops the first eligible ready record in pop order (R346). -/
  | slotPop (core place : BitVec 8)
  /-- A team's barrier wait passes SWAP_TH, and swap-out is started if R364 allows it (R39). -/
  | swapThresholdExpiry (t : Nat)
  /-- Once the scratchpad engine operations have completed, the gangs are parked, their lines written back, the scratchpad saved, and the team record enqueued (R39). -/
  | swapOut (t : Nat)
  /-- Every 20 µs a swap-out blocked by a waiting gang is tested again (R364). -/
  | swapRetest (t : Nat)
  /-- When its prior stores are registered, a gang whose XM is full drops its lines and returns its context (R43). -/
  | gangRetire (g : Nat)
  /-- The last gang having retired and the scratchpad engine operations having completed, the team frees its scratchpad (R43). -/
  | teamRetire (t : Nat)
  /-- At grid end every write of the grid is performed at its home (R44). -/
  | gridEndFlush (q : Nat)
  /-- The command processor writes DETAIL then STATUS as a release, and sends the interrupt if IRQ is set (R377). -/
  | completionSignal (q : Nat)
  /-- A gang's 50 µs quantum ends; it yields to a waiting record of its level or starts a new quantum (R349). -/
  | quantumExpiry (g : Nat)
  /-- At a unit boundary the chosen gang leaves its slot, and its record re-enters at its base level (R349). -/
  | preempt (g : Nat)
  /-- A record ready for 200 µs at its level is raised one level, up to its ceiling (R352). -/
  | aging (r : Nat)
  /-- A record waiting 200 µs at its ceiling becomes due and may pre-empt unprotected gangs (R353). -/
  | recordDue (r : Nat)
  /-- A register-line fill arrives; the line becomes resident-clean and the waiting accesses proceed (R142). -/
  | lineFillArrival (g n : Nat) (err : Mask)
  /-- A register-line write-back registers, and an unchanged line becomes clean (R142). -/
  | writeBackRegistered (g n : Nat)
  /-- The core writes back a dirty line of a parked gang when the fabric has spare capacity (R144). -/
  | lazyWriteBack (g n : Nat)
  /-- A line of a gang parked for 2 µs becomes drowsy (R142). -/
  | lineDrowsy (g n : Nat)
  /-- A drowsy line becomes resident again 4 aclk after it is accessed (R142). -/
  | drowsyWake (g n : Nat)
  /-- Every 40 µs a ULS bank starts its refresh (R144). -/
  | bankRefresh (core : BitVec 8) (bank : BitVec 5) (errs : List UlsErr)
  /-- A refresh ends after at most 8 aclk, and held lines return to their states (R144). -/
  | bankRefreshEnd (core : BitVec 8) (bank : BitVec 5)
  /-- A clean, unpinned bank idle for 20 µs is gated, and its lines become absent (R144). -/
  | bankGate (core : BitVec 8) (bank : BitVec 5)
  /-- GO starts a flush of a context's lines, writing back dirty lines and, with DROP, making them absent (R161). -/
  | ctxflushWrite (core : BitVec 8) (v : Word)
  /-- The flush has finished and BUSY clears (R161). -/
  | ctxflushDone (core : BitVec 8)
  /-- An instruction-cache line arrives from its home; a persistent error raises 0x17 (R163). -/
  | icacheFill (g errs : Nat)
  /-- In verified mode the two pipes' results are compared before write-back (R191). -/
  | verifyCompare (g : Nat) (first second : Bool)
  /-- A BARTO wait times out, and the arrival is withdrawn with sd := 1 (R184). -/
  | bartoTimeout (g : Nat)
  /-- WFE completes after 10 µs with no event (R178). -/
  | wfeTimeout (g : Nat)
  /-- A gang held at issue for 2 µs parks with its wait as the wake condition (R186). -/
  | waitParkTimeout (g : Nat)
  /-- After 1 ms without a harbourmaster heartbeat the lock-keeper starts the standby (R385). -/
  | heartbeatTimeout
  /-- The cluster SFU port accepts a unit in round-robin order and begins evaluation (R242). -/
  | sfuAccept (c : BitVec 6) (soft romErr : Bool)
  /-- A waiting walk takes a walker from its quota, from the free pool, or as a loan (R257). -/
  | walkerGrant (k : Nat)
  /-- A page walk ends, fills the TLB levels or faults, and lent walkers return (R256). -/
  | walkComplete (k : Nat) (err : List Nat)
  /-- A lath instance takes its P-th arrival and completes, releasing barrier waiters or holding a result (R287). -/
  | lathInstanceComplete (ch : BitVec 6)
  /-- A CPY is accepted once locks, a buffer entry and the command bus are free; the locks are registered (R305). -/
  | copyAccept (g : Nat)
  /-- After the issue release, the copy engine starts reading and writing the operation (R317). -/
  | copyStart (c : BitVec 6) (k : Nat)
  /-- An engine operation's reads have returned and its writes are registered; its locks are released (R132). -/
  | copyComplete (c : BitVec 6) (k n : Nat) (err pads : List Nat) (ok : Bool)
  /-- A tile fetch is accepted when an entry and its locks are free, and it starts reading and pinning lines (R328). -/
  | tfetchAccept (c : BitVec 6)
  /-- Every line of a tile has been read once, and the entry becomes full (R328). -/
  | tileFull (c : BitVec 6) (h : BitVec 6)
  /-- An MMA takes an engine queue place and its implied fetch resources (R330). -/
  | mmaAccept (c : BitVec 6)
  /-- An MMA starts its array once earlier accumulator operations are done and its entries are full (R330). -/
  | mmaStart (c : BitVec 6) (k : Nat)
  /-- The converter reconstructs, checks and adds a segment's sums into the accumulator (R333). -/
  | segmentEnd (c : BitVec 6) (k : Nat) (pass1 pass2 pass3 : List (BitVec 8)) (err ecc : List Nat) (soft : Bool)
  /-- The last segment is converted; the entries become full or are freed (R330). -/
  | mmaComplete (c : BitVec 6) (k : Nat)
  /-- MXZERO clears every cell and poison flag of its accumulator (R338). -/
  | mxzeroDone (c : BitVec 6) (k : Nat)
  /-- A drain pushes its next 256-byte entry when the queue has room, or stops at a closed queue (R340). -/
  | drainEntryPush (c : BitVec 6) (k : Nat) (ecc : List Nat) (soft : Bool)
  /-- A drain completes; a memory drain's entry becomes full and its lock is released (R340). -/
  | drainComplete (c : BitVec 6) (k : Nat)
  /-- After EXIT's operations complete, the sequencer frees its entries and closes its push queues (R321). -/
  | sequencerExitDone (c : BitVec 6)
  /-- A PARK.addr watch ends after 100 µs, or 2 µs without a watch, and the gang becomes ready (R359). -/
  | watchTimeout (g : Nat)
  /-- A WPTR write to a notify page rings the mapped slot's doorbell or records a pending wake (R366). -/
  | notifyWrite (r : Requester) (o : QOwner) (nidx : BitVec 10) (v : Word)
  /-- A SEQ written at notify offset 0x008 cancels that packet or grid (R380). -/
  | cancelWrite (r : Requester) (o : QOwner) (nidx : BitVec 10) (seq : BitVec 32)
  /-- At TIME = DEADLINE, a packet with KILL set is cancelled (R380). -/
  | deadlineCancel (p : Nat)
  /-- The command processor takes the next packet of a mapped queue and checks it (R368). -/
  | packetTake (b : BitVec 4)
  /-- The first heap entry whose launch engine, lath channels and pool room are free is started (R374). -/
  | heapStart (b : BitVec 4)
  /-- At a slice end the harbourmaster switches VFs: it swaps out, scrubs the ULS and L1, and invalidates TLBs (R384). -/
  | sliceEnd (b : BitVec 4)
  /-- BOPCMD QUIESCE stops admission, pre-empts gangs and suspends sequencers in a berth (R394). -/
  | quiesce (cmd : Word)
  /-- Once the copies and walks are done, lines and L1 are written back and STATE becomes 3 (R394). -/
  | quiesceComplete (b : BitVec 4)
  /-- The TMO limit passes; QUIESCE ends with reason 6 and the berth resumes (R394). -/
  | quiesceTimeout (b : BitVec 4)
  /-- BOPCMD EXPORT writes a quiesced berth's descriptor and state to the export area (R395). -/
  | exportBerth (cmd : Word)
  /-- BOPCMD IMPORT moves resources or VFs, grids and records from SRC into berth B (R396). -/
  | importBerth (cmd : Word)
  /-- BOPCMD RESUME sets STATE and ADMIT to 1, and pops resume (R397). -/
  | resume (cmd : Word)
  /-- BOPCMD ABANDON returns a quiescing or quiesced berth to active and voids its export (R400). -/
  | abandon (cmd : Word)
  /-- A way-mask write adds ways at once or starts removing ways with BUSY set (R391). -/
  | waymaskWrite (s : BitVec 8) (b : BitVec 4) (v : Word)
  /-- One line of a removed way is written back if dirty and made invalid; BUSY clears after the last (R391). -/
  | waymaskLineTake (s : BitVec 8) (line : Nat)
  /-- A write to BCLUST, BQUAD, BSEG or BKEY takes effect only in STATE 0 or 3 for unowned resources, or is logged (R389). -/
  | berthResourceWrite (num : BitVec 16) (v : Word)
  /-- A BERTHCTL write sets VERIFY, CONF and ADMIT, or clears VF bits (R388). -/
  | berthctlWrite (b : BitVec 4) (v : Word)
  /-- A berth-level error resets the berth's clusters, drops its lines and ends its grids (R403). -/
  | partitionReset (b : BitVec 4)
  /-- Skim reads and checks one channel line, correcting it in one step (R404). -/
  | skimLine (line : Nat) (corrected persist : Bool)
  /-- A tensor-entry write sets V, KSLOT or SEALED; setting SEALED completes after earlier writes register (R416). -/
  | ttw1Write (n : BitVec 5) (v : Word)
  /-- TVBUMP.keep rewrites one mapped line under the new version in one step at its home (R418). -/
  | rewrapLine (seg : BitVec 4) (entry : BitVec 12) (line : Nat)
  /-- A write to MSCTL starts or stops a VF's migration stream and sets its direction and stream field (R429). -/
  | msctlWrite (v : BitVec 4) (w : Word)
  /-- MSKEY reads a 32-byte key from SRAM as the current or pending key, and zeroes it (R429). -/
  | mskeyWrite (v : BitVec 4) (w : Word)
  /-- The stream unit forms and sends one encrypted record (R429). -/
  | streamRecordSend (v : BitVec 4) (kind : BitVec 32) (pa : BitVec 48) (n : Nat)
  /-- A received record is checked and its contents written, or the stream stops (R429). -/
  | streamRecordReceive (v : BitVec 4) (pa : BitVec 48) (r : List Byte)
  /-- A CVAL read returns the selected counter, or withholds it if the allow-list does not allow it (R435). -/
  | counterRead (v : BitVec 4)
  /-- SPDM GET_VERSION request answered by the pilot (R426). -/
  | getVersion (v : BitVec 4)
  /-- SPDM GET_CAPABILITIES request answered (R426). -/
  | getCapabilities (v : BitVec 4)
  /-- SPDM algorithm negotiation, with SHA-384, Ed25519, secp384r1 and AES-256-GCM (R426). -/
  | negotiateAlgorithms (v : BitVec 4)
  /-- SPDM GET_DIGESTS request answered (R426). -/
  | getDigests (v : BitVec 4)
  /-- SPDM GET_CERTIFICATE returns the Ed25519 or ML-DSA-65 chain (R426). -/
  | getCertificate (v : BitVec 4) (slot : Bool)
  /-- SPDM CHALLENGE is answered with dual signatures (R426). -/
  | challenge (v : BitVec 4) (hash : List Byte)
  /-- SPDM GET_MEASUREMENTS returns measurement blocks 1 to 5 (R427). -/
  | getMeasurements (v : BitVec 4) (signed : Bool) (hash : List Byte)
  /-- SPDM KEY_EXCHANGE opens a session, with a signed response (R426). -/
  | keyExchange (v : BitVec 4) (share hash : List Byte)
  /-- SPDM FINISH completes session establishment (R426). -/
  | finish (v : BitVec 4) (ok : Bool) (mig : Option MigCheck)
  /-- SPDM END_SESSION closes the session (R426). -/
  | endSession (v : BitVec 4)
  /-- TDISP version request (R390). -/
  | getTdispVersion (v : BitVec 4)
  /-- TDISP capabilities request (R390). -/
  | getTdispCapabilities (v : BitVec 4)
  /-- TDISP lock of the VF's interface to its assignment (R390). -/
  | lockInterfaceRequest (v : BitVec 4) (tenant : List Byte)
  /-- Returns the interface report with the berth layout and GEN (R390). -/
  | getDeviceInterfaceReport (v : BitVec 4)
  /-- Returns the TDI state (R390). -/
  | getDeviceInterfaceState (v : BitVec 4)
  /-- Moves the TDI to RUN (R390). -/
  | startInterfaceRequest (v : BitVec 4)
  /-- Stops the TDI (R390). -/
  | stopInterfaceRequest (v : BitVec 4)
  /-- A message of a domain lath instance reaches this device over the domain tree: another device's arrivals or taken counts, the completion, the opening of the successor, or an abort caused by another device's reset (R289). -/
  | domainTreeMessage (ch : BitVec 6) (m : DomainMsg)
  /-- While a stack is at or above 100 °C, its channels begin or end the 1 µs of every 4 µs in which they refuse new requests (R27). -/
  | stackRequestRefusal (stack : BitVec 3)
  /-- A unit whose word has a reserved major, an unlisted function code or a prefix type of 5 to 7 raises its encoding fault before any part takes effect (R72). -/
  | encodingFault (w : IWord)
  /-- A unit with an extension major whose EXT bit is clear raises 0x03 and enters the emulation entry or TRAPVEC (R74). -/
  | extEmulate (w : IWord)
  /-- Prefix that opens a guard span of count units (R60). -/
  | guard (c : BitVec 2) (k : BitVec 4) (n : BitVec 3)
  /-- Prefix that widens an I- or M-format immediate (R61). -/
  | immx (p : BitVec 22)
  /-- Prefix that repeats an instruction with stepped register fields (R62). -/
  | rep (n : BitVec 6) (d : BitVec 4) (a : BitVec 4) (b : BitVec 4)
  /-- Prefix that writes NZCV to a target cc, optionally with carry-in (R63). -/
  | flags (c : BitVec 2) (x : BitVec 1)
  /-- Prefix that names the scale registers and bytes of DOT and QNTV (R64). -/
  | scl (a : Reg) (b : Reg) (x : BitVec 3) (y : BitVec 3)
  /-- Does nothing (R177). -/
  | nop
  /-- Ends the gang's activation and requeues its record (R179). -/
  | yield
  /-- The active lanes exit; the gang retires when XM is full (R177). -/
  | exit
  /-- Traps with 0x10 and TVAL := n (R177). -/
  | trap (n : BitVec 14)
  /-- Traps with 0x11 and TVAL := n (R177). -/
  | brk (n : BitVec 14)
  /-- Returns from a trap continuation to EPC (R181). -/
  | eret
  /-- Consumes the event bit, or parks until an event (R178). -/
  | wfe
  /-- A firmware core stops issuing until its doorbell is written (R177). -/
  | halt
  /-- Sets the event bit of every gang of the team (R178). -/
  | sev
  /-- Conditional or unconditional branch by mode (R169). -/
  | bra (m : BitVec 2) (c : BitVec 2) (k : BitVec 4) (p : BitVec 17)
  /-- Branch that writes the link to s23 when taken (R170). -/
  | call (m : BitVec 2) (c : BitVec 2) (k : BitVec 4) (p : BitVec 17)
  /-- Jumps to a register target (R171). -/
  | jmpr (a : Reg)
  /-- Register call with the link in sd (R171). -/
  | callr (d : Reg) (a : Reg)
  /-- Returns to a register target (R171). -/
  | ret (a : Reg)
  /-- Saves EM and restricts it to the lanes whose condition holds (R172). -/
  | maskc (d : Reg) (n : BitVec 2) (k : BitVec 4)
  /-- Saves EM and sets EM := sa ∧ ¬EM (R172). -/
  | maskn (d : Reg) (a : Reg)
  /-- Sets EM from sa (R172). -/
  | masks (a : Reg)
  /-- Saves EM and keeps the lanes where va is non-zero (R172). -/
  | maskg (d : Reg) (a : Reg)
  /-- Saves EM and removes the lanes whose condition holds (R172). -/
  | maskx (d : Reg) (n : BitVec 2) (k : BitVec 4)
  /-- Reads a special register (R174). -/
  | mfs (d : Reg) (a : Reg)
  /-- Writes a special register (R174). -/
  | mts (d : Reg) (a : Reg)
  /-- Moves the window base by an immediate (R155). -/
  | wbase (i : BitVec 11)
  /-- Sets the window base to sN + imm (R155). -/
  | wbaseS (a : Reg) (i : BitVec 11)
  /-- Pins a region of window slots and starts their fills (R156). -/
  | region (d : Reg) (i : BitVec 11)
  /-- Writes back the dirty lines of the covered slots, or all of them (R158). -/
  | cwb (x : BitVec 1) (a : Reg) (b : Reg)
  /-- Drops the covered slots, which then read zero (R159). -/
  | cdrop (a : Reg) (b : Reg)
  /-- Pins the covered slots (R160). -/
  | cpin (a : Reg) (b : Reg)
  /-- Unpins the covered slots (R160). -/
  | cunpin (a : Reg) (b : Reg)
  /-- Team barrier arrival and park (R183). -/
  | barT
  /-- Quad barrier arrival and park (R183). -/
  | barQ
  /-- Team barrier arrival with a timeout (R184). -/
  | barto (d : Reg) (a : Reg)
  /-- Creates a gang or join-point record (R357). -/
  | spawn (d : Reg) (a : Reg)
  /-- Atomically lowers a record's join counter (R358). -/
  | join (d : Reg) (a : Reg)
  /-- Parks until joins bring the count to zero (R359). -/
  | parkJoin (a : Reg)
  /-- Parks on a word while it equals a value (R359). -/
  | parkAddr (a : Reg) (b : Reg)
  /-- Ends every watch on a word (R360). -/
  | wake (a : Reg)
  /-- Signals the team's stage successor (R361). -/
  | staged
  /-- Takes the team's next piece of distributor work (R363). -/
  | takew (d : Reg)
  /-- Binds a queue port (R187). -/
  | qbind (d : Reg) (a : Reg)
  /-- Reads a queue's status (R187). -/
  | qstat (d : Reg) (a : Reg)
  /-- Closes the bound queue (R187). -/
  | qclose (d : Reg)
  /-- Packed integer add (R198). -/
  | add (t : BitVec 2) (d : Reg) (a : Reg) (b : Reg)
  /-- Packed integer subtract (R198). -/
  | sub (t : BitVec 2) (d : Reg) (a : Reg) (b : Reg)
  /-- Bitwise AND (R198). -/
  | and (t : BitVec 2) (d : Reg) (a : Reg) (b : Reg)
  /-- Bitwise OR (R198). -/
  | or (t : BitVec 2) (d : Reg) (a : Reg) (b : Reg)
  /-- Bitwise XOR (R198). -/
  | xor (t : BitVec 2) (d : Reg) (a : Reg) (b : Reg)
  /-- x AND NOT y (R198). -/
  | andn (t : BitVec 2) (d : Reg) (a : Reg) (b : Reg)
  /-- Shift left (R199). -/
  | shl (t : BitVec 2) (d : Reg) (a : Reg) (b : Reg)
  /-- Logical shift right (R199). -/
  | shr (t : BitVec 2) (d : Reg) (a : Reg) (b : Reg)
  /-- Arithmetic shift right (R199). -/
  | sar (t : BitVec 2) (d : Reg) (a : Reg) (b : Reg)
  /-- Rotate left (R199). -/
  | rol (t : BitVec 2) (d : Reg) (a : Reg) (b : Reg)
  /-- Signed minimum (R198). -/
  | min (t : BitVec 2) (d : Reg) (a : Reg) (b : Reg)
  /-- Signed maximum (R198). -/
  | max (t : BitVec 2) (d : Reg) (a : Reg) (b : Reg)
  /-- Unsigned minimum (R198). -/
  | minu (t : BitVec 2) (d : Reg) (a : Reg) (b : Reg)
  /-- Unsigned maximum (R198). -/
  | maxu (t : BitVec 2) (d : Reg) (a : Reg) (b : Reg)
  /-- Absolute signed difference (R198). -/
  | absd (t : BitVec 2) (d : Reg) (a : Reg) (b : Reg)
  /-- Copies all 64 bits (R198). -/
  | mov (t : BitVec 2) (d : Reg) (a : Reg)
  /-- Low 64 bits of a product (R201). -/
  | mulI64 (d : Reg) (a : Reg) (b : Reg)
  /-- High 64 bits of an unsigned product (R201). -/
  | mulhiI64 (d : Reg) (a : Reg) (b : Reg)
  /-- High 64 bits of a signed product (R201). -/
  | mulhisI64 (d : Reg) (a : Reg) (b : Reg)
  /-- Multiply-add into d (R201). -/
  | madI64 (d : Reg) (a : Reg) (b : Reg)
  /-- Packed i32 low product (R201). -/
  | mulI32 (d : Reg) (a : Reg) (b : Reg)
  /-- Packed i32 unsigned high product (R201). -/
  | mulhiI32 (d : Reg) (a : Reg) (b : Reg)
  /-- Packed i32 signed high product (R201). -/
  | mulhisI32 (d : Reg) (a : Reg) (b : Reg)
  /-- Packed i32 multiply-add (R201). -/
  | madI32 (d : Reg) (a : Reg) (b : Reg)
  /-- Unsigned divide (R201). -/
  | divI64 (d : Reg) (a : Reg) (b : Reg)
  /-- Signed divide (R201). -/
  | idivI64 (d : Reg) (a : Reg) (b : Reg)
  /-- Unsigned remainder (R201). -/
  | remI64 (d : Reg) (a : Reg) (b : Reg)
  /-- Signed remainder (R201). -/
  | iremI64 (d : Reg) (a : Reg) (b : Reg)
  /-- Packed i32 unsigned divide (R201). -/
  | divI32 (d : Reg) (a : Reg) (b : Reg)
  /-- Packed i32 signed divide (R201). -/
  | idivI32 (d : Reg) (a : Reg) (b : Reg)
  /-- Packed i32 unsigned remainder (R201). -/
  | remI32 (d : Reg) (a : Reg) (b : Reg)
  /-- Packed i32 signed remainder (R201). -/
  | iremI32 (d : Reg) (a : Reg) (b : Reg)
  /-- Integer compare into a cc (R203). -/
  | icmp (t : BitVec 2) (c : BitVec 2) (a : Reg) (b : Reg) (k : BitVec 4)
  /-- Add an immediate (R204). -/
  | addi (d : Reg) (a : Reg) (i : BitVec 11)
  /-- Move an immediate (R204). -/
  | movi (d : Reg) (i : BitVec 11)
  /-- Shift by an immediate (R205). -/
  | shfi (d : Reg) (a : Reg) (k : BitVec 2) (w : BitVec 2) (n : BitVec 6)
  /-- AND with an immediate (R204). -/
  | andi (d : Reg) (a : Reg) (i : BitVec 11)
  /-- Selects xa or xb by a cc test (R176). -/
  | sel (d : Reg) (a : Reg) (b : Reg) (n : BitVec 2) (t : BitVec 2)
  /-- Copies a cc (R175). -/
  | ccmov (d : BitVec 2) (a : BitVec 2)
  /-- Boolean AND of two cc tests (R175). -/
  | ccand (d : BitVec 2) (x : BitVec 4) (a : BitVec 2) (y : BitVec 4) (b : BitVec 2)
  /-- Boolean OR of two cc tests (R175). -/
  | ccor (d : BitVec 2) (x : BitVec 4) (a : BitVec 2) (y : BitVec 4) (b : BitVec 2)
  /-- Reads a cc into a register (R175). -/
  | ccget (d : Reg) (a : BitVec 2)
  /-- Writes a cc from a register (R175). -/
  | ccset (d : BitVec 2) (a : Reg)
  /-- Population count (R206). -/
  | popc (d : Reg) (a : Reg)
  /-- Count leading zeros (R206). -/
  | clz (d : Reg) (a : Reg)
  /-- Count trailing zeros (R206). -/
  | ctz (d : Reg) (a : Reg)
  /-- Bit reverse (R206). -/
  | brev (d : Reg) (a : Reg)
  /-- Byte swap (R206). -/
  | bswap (d : Reg) (a : Reg)
  /-- Bit-field extract (R206). -/
  | bfe (d : Reg) (a : Reg) (b : Reg)
  /-- Bit-field insert (R206). -/
  | bfi (d : Reg) (a : Reg) (b : Reg)
  /-- Computes a + 8·b (R207). -/
  | lea (d : Reg) (a : Reg) (b : Reg)
  /-- Sign-extends from 8 bits (R208). -/
  | sextI8 (d : Reg) (a : Reg)
  /-- Sign-extends from 16 bits (R208). -/
  | sextI16 (d : Reg) (a : Reg)
  /-- Sign-extends from 32 bits (R208). -/
  | sextI32 (d : Reg) (a : Reg)
  /-- Zero-extends from 8 bits (R208). -/
  | zextI8 (d : Reg) (a : Reg)
  /-- Zero-extends from 16 bits (R208). -/
  | zextI16 (d : Reg) (a : Reg)
  /-- Zero-extends from 32 bits (R208). -/
  | zextI32 (d : Reg) (a : Reg)
  /-- Packs two 32-bit halves (R208). -/
  | packI32 (d : Reg) (a : Reg) (b : Reg)
  /-- Packs i32 elements to i16 (R208). -/
  | packI16 (d : Reg) (a : Reg) (b : Reg)
  /-- Packs i16 elements to i8 (R208). -/
  | packI8 (d : Reg) (a : Reg) (b : Reg)
  /-- Widens a half of the i32 elements (R208). -/
  | unpkI32 (d : Reg) (a : Reg) (s : BitVec 7)
  /-- Widens a half of the i16 elements (R208). -/
  | unpkI16 (d : Reg) (a : Reg) (s : BitVec 7)
  /-- Widens a half of the i8 elements (R208). -/
  | unpkI8 (d : Reg) (a : Reg) (s : BitVec 7)
  /-- Floating-point add (R209). -/
  | fadd (t : BitVec 2) (d : Reg) (a : Reg) (b : Reg)
  /-- Floating-point subtract (R209). -/
  | fsub (t : BitVec 2) (d : Reg) (a : Reg) (b : Reg)
  /-- Floating-point multiply (R209). -/
  | fmul (t : BitVec 2) (d : Reg) (a : Reg) (b : Reg)
  /-- Fused a·b + d (R209). -/
  | fma (t : BitVec 2) (d : Reg) (a : Reg) (b : Reg)
  /-- Fused a·b − d (R209). -/
  | fms (t : BitVec 2) (d : Reg) (a : Reg) (b : Reg)
  /-- Negated fused a·b + d (R209). -/
  | fnma (t : BitVec 2) (d : Reg) (a : Reg) (b : Reg)
  /-- Negated fused a·b − d (R209). -/
  | fnms (t : BitVec 2) (d : Reg) (a : Reg) (b : Reg)
  /-- Floating-point minimum (R210). -/
  | fmin (t : BitVec 2) (d : Reg) (a : Reg) (b : Reg)
  /-- Floating-point maximum (R210). -/
  | fmax (t : BitVec 2) (d : Reg) (a : Reg) (b : Reg)
  /-- Clears the sign bit (R211). -/
  | fabs (t : BitVec 2) (d : Reg) (a : Reg)
  /-- Inverts the sign bit (R211). -/
  | fneg (t : BitVec 2) (d : Reg) (a : Reg)
  /-- Copies the sign of b onto a (R211). -/
  | fcpys (t : BitVec 2) (d : Reg) (a : Reg) (b : Reg)
  /-- Floating-point divide (R209). -/
  | fdiv (t : BitVec 2) (d : Reg) (a : Reg) (b : Reg)
  /-- Floating-point square root (R209). -/
  | fsqrt (t : BitVec 2) (d : Reg) (a : Reg)
  /-- Rounds to an integral value (R212). -/
  | frnd (t : BitVec 2) (d : Reg) (a : Reg) (x : BitVec 1) (m : BitVec 3)
  /-- Copies a (R211). -/
  | fmov (t : BitVec 2) (d : Reg) (a : Reg)
  /-- Floating-point compare into a cc (R214). -/
  | fcmp (t : BitVec 2) (c : BitVec 2) (a : Reg) (b : Reg) (k : BitVec 4)
  /-- Converts between numeric types (R215). -/
  | cvt (d : Reg) (a : Reg) (t : BitVec 3) (s : BitVec 3) (n : BitVec 1)
  /-- Two-term f16 dot product into f32 (R217). -/
  | dot2F16 (d : Reg) (a : Reg) (b : Reg)
  /-- Two-term bf16 dot product into f32 (R217). -/
  | dot2Bf16 (d : Reg) (a : Reg) (b : Reg)
  /-- q8 dot product (R218). -/
  | dot8Q8 (d : Reg) (a : Reg) (b : Reg)
  /-- q4 dot product (R218). -/
  | dot16Q4 (d : Reg) (a : Reg) (b : Reg)
  /-- q12 dot product (R218). -/
  | dot4Q12 (d : Reg) (a : Reg) (b : Reg)
  /-- i8 dot product (R218). -/
  | dot8I8 (d : Reg) (a : Reg) (b : Reg)
  /-- Residue add (R220). -/
  | rxadd (d : Reg) (a : Reg) (b : Reg)
  /-- Residue subtract (R220). -/
  | rxsub (d : Reg) (a : Reg) (b : Reg)
  /-- Residue multiply (R220). -/
  | rxmul (d : Reg) (a : Reg) (b : Reg)
  /-- Residue multiply-accumulate (R220). -/
  | rxmac (d : Reg) (a : Reg) (b : Reg)
  /-- Residue negate (R220). -/
  | rxneg (d : Reg) (a : Reg)
  /-- Residue scale by an i32 (R220). -/
  | rxscl (d : Reg) (a : Reg) (b : Reg)
  /-- Quantises bf16 to q4 and merges (R222). -/
  | qpackQ4 (d : Reg) (a : Reg) (b : Reg)
  /-- Quantises bf16 to q8 (R222). -/
  | qpackQ8 (d : Reg) (a : Reg) (b : Reg)
  /-- Quantises bf16 to q12 (R222). -/
  | qpackQ12 (d : Reg) (a : Reg)
  /-- Dequantises q4 to bf16 (R223). -/
  | qunpkQ4 (d : Reg) (a : Reg) (s : BitVec 7)
  /-- Dequantises q8 to bf16 (R223). -/
  | qunpkQ8 (d : Reg) (a : Reg) (s : BitVec 7)
  /-- Dequantises q12 to bf16 (R223). -/
  | qunpkQ12 (d : Reg) (a : Reg)
  /-- Chooses an se8 scale for a magnitude (R224). -/
  | scaleof (d : Reg) (a : Reg) (s : BitVec 7)
  /-- Converts i32 to rx32 (long latency) (R221). -/
  | rxfrom (d : Reg) (a : Reg) (l : BitVec 4)
  /-- Converts rx32 to i32 (long latency) (R221). -/
  | rxto (d : Reg) (a : Reg) (l : BitVec 4)
  /-- Packs bf16 to e4m3 with saturation (R225). -/
  | f8pkE4m3 (d : Reg) (a : Reg) (l : BitVec 4)
  /-- Packs bf16 to e5m2 (R225). -/
  | f8pkE5m2 (d : Reg) (a : Reg) (l : BitVec 4)
  /-- Widens e4m3 to bf16 (R225). -/
  | f8upE4m3 (d : Reg) (a : Reg) (l : BitVec 4)
  /-- Widens e5m2 to bf16 (R225). -/
  | f8upE5m2 (d : Reg) (a : Reg) (l : BitVec 4)
  /-- Indexed lane shuffle (R227). -/
  | shfl (d : Reg) (a : Reg) (b : Reg)
  /-- XOR lane shuffle (R227). -/
  | shflx (d : Reg) (a : Reg) (b : Reg)
  /-- Relative lane shuffle (R227). -/
  | shflr (d : Reg) (a : Reg) (b : Reg)
  /-- Broadcasts a sub-element of one lane (R227). -/
  | bcast (d : Reg) (a : Reg) (b : Reg)
  /-- Reverses the gang's elements (R227). -/
  | rev (d : Reg) (a : Reg) (s : BitVec 7)
  /-- Mask of the active lanes whose condition holds (R228). -/
  | vote (d : Reg) (n : BitVec 2) (k : BitVec 4)
  /-- Gang sum, i64 (R229). -/
  | redaddI64 (d : Reg) (a : Reg)
  /-- Gang sum, i32 (R229). -/
  | redaddI32 (d : Reg) (a : Reg)
  /-- Pairwise gang sum, f64 (R229). -/
  | redaddF64 (d : Reg) (a : Reg)
  /-- Pairwise gang sum, f32 (R229). -/
  | redaddF32 (d : Reg) (a : Reg)
  /-- Gang minimum, i64 (R229). -/
  | redminI64 (d : Reg) (a : Reg)
  /-- Gang minimum, f64 (R229). -/
  | redminF64 (d : Reg) (a : Reg)
  /-- Gang minimum, f32 (R229). -/
  | redminF32 (d : Reg) (a : Reg)
  /-- Gang maximum, i64 (R229). -/
  | redmaxI64 (d : Reg) (a : Reg)
  /-- Gang maximum, f64 (R229). -/
  | redmaxF64 (d : Reg) (a : Reg)
  /-- Gang maximum, f32 (R229). -/
  | redmaxF32 (d : Reg) (a : Reg)
  /-- Inclusive scan, i64 (R230). -/
  | scanaddI64 (d : Reg) (a : Reg)
  /-- Inclusive scan, i32 (R230). -/
  | scanaddI32 (d : Reg) (a : Reg)
  /-- Pairwise inclusive scan, f64 (R230). -/
  | scanaddF64 (d : Reg) (a : Reg)
  /-- Pairwise inclusive scan, f32 (R230). -/
  | scanaddF32 (d : Reg) (a : Reg)
  /-- SFU 2^x (R233). -/
  | exp2 (t : BitVec 2) (d : Reg) (a : Reg) (l : BitVec 4)
  /-- SFU log2 x (R233). -/
  | log2 (t : BitVec 2) (d : Reg) (a : Reg) (l : BitVec 4)
  /-- SFU reciprocal (R233). -/
  | rcp (t : BitVec 2) (d : Reg) (a : Reg) (l : BitVec 4)
  /-- SFU reciprocal square root (R233). -/
  | rsq (t : BitVec 2) (d : Reg) (a : Reg) (l : BitVec 4)
  /-- SFU square root (R233). -/
  | sqrt (t : BitVec 2) (d : Reg) (a : Reg) (l : BitVec 4)
  /-- SFU sine (R233). -/
  | sin (t : BitVec 2) (d : Reg) (a : Reg) (l : BitVec 4)
  /-- SFU cosine (R233). -/
  | cos (t : BitVec 2) (d : Reg) (a : Reg) (l : BitVec 4)
  /-- SFU tanh (R233). -/
  | tanh (t : BitVec 2) (d : Reg) (a : Reg) (l : BitVec 4)
  /-- SFU sigmoid (R233). -/
  | sigm (t : BitVec 2) (d : Reg) (a : Reg) (l : BitVec 4)
  /-- SFU GELU (R233). -/
  | gelu (t : BitVec 2) (d : Reg) (a : Reg) (l : BitVec 4)
  /-- SFU SiLU (R233). -/
  | silu (t : BitVec 2) (d : Reg) (a : Reg) (l : BitVec 4)
  /-- SFU error function (R233). -/
  | erf (t : BitVec 2) (d : Reg) (a : Reg) (l : BitVec 4)
  /-- Gather load (R247). -/
  | ldg (w : BitVec 2) (d : Reg) (a : Reg) (o : BitVec 7) (l : BitVec 4)
  /-- Contiguous 256-byte vector load (R247). -/
  | ldv (d : Reg) (a : Reg) (o : BitVec 7) (l : BitVec 4)
  /-- Scatter store of bytes (R248). -/
  | stgI8 (d : Reg) (a : Reg) (o : BitVec 7)
  /-- Scatter store of halfwords (R248). -/
  | stgI16 (d : Reg) (a : Reg) (o : BitVec 7)
  /-- Scatter store of words (R248). -/
  | stgI32 (d : Reg) (a : Reg) (o : BitVec 7)
  /-- Scatter store of doublewords (R248). -/
  | stgI64 (d : Reg) (a : Reg) (o : BitVec 7)
  /-- Contiguous 256-byte vector store (R248). -/
  | stv (d : Reg) (a : Reg) (o : BitVec 7)
  /-- Acquiring 8-byte load (R247). -/
  | lda (d : Reg) (a : Reg) (o : BitVec 7) (l : BitVec 4)
  /-- Releasing 8-byte store (R248). -/
  | stl (d : Reg) (a : Reg) (o : BitVec 7)
  /-- Atomic add (R249). -/
  | atomAdd (w : BitVec 1) (d : Reg) (a : Reg) (b : Reg)
  /-- Atomic subtract (R249). -/
  | atomSub (w : BitVec 1) (d : Reg) (a : Reg) (b : Reg)
  /-- Atomic AND (R249). -/
  | atomAnd (w : BitVec 1) (d : Reg) (a : Reg) (b : Reg)
  /-- Atomic OR (R249). -/
  | atomOr (w : BitVec 1) (d : Reg) (a : Reg) (b : Reg)
  /-- Atomic XOR (R249). -/
  | atomXor (w : BitVec 1) (d : Reg) (a : Reg) (b : Reg)
  /-- Atomic signed minimum (R249). -/
  | atomMin (w : BitVec 1) (d : Reg) (a : Reg) (b : Reg)
  /-- Atomic signed maximum (R249). -/
  | atomMax (w : BitVec 1) (d : Reg) (a : Reg) (b : Reg)
  /-- Atomic unsigned minimum (R249). -/
  | atomMinu (w : BitVec 1) (d : Reg) (a : Reg) (b : Reg)
  /-- Atomic unsigned maximum (R249). -/
  | atomMaxu (w : BitVec 1) (d : Reg) (a : Reg) (b : Reg)
  /-- Atomic exchange (R249). -/
  | atomXchg (w : BitVec 1) (d : Reg) (a : Reg) (b : Reg)
  /-- Atomic compare-and-swap (R249). -/
  | atomCas (w : BitVec 1) (d : Reg) (a : Reg) (b : Reg)
  /-- Acquire (R122). -/
  | fenceAcq
  /-- Release (R122). -/
  | fenceRel
  /-- Release then acquire (R122). -/
  | fenceAr
  /-- Waits for the gang's engine operations, then acquires (R122). -/
  | fenceEng
  /-- FENCE.ENG plus a release and performed peer and host stores (R122). -/
  | fenceDev
  /-- Prefetches a range into L1 or L2 (R251). -/
  | pref (x : BitVec 1) (a : Reg) (b : Reg)
  /-- Discards the whole lines of a range (R135). -/
  | discard (a : Reg) (b : Reg)
  /-- Writes a range back to its channels (R251). -/
  | wback (a : Reg) (b : Reg)
  /-- Zeroes a range and clears its poison marks (R251). -/
  | zero (a : Reg) (b : Reg)
  /-- Binds the gang into groups of L lanes, or unbinds it (R269). -/
  | bind (i : BitVec 11)
  /-- Long add (R276). -/
  | ladd (d : Reg) (a : Reg) (b : Reg)
  /-- Adds the carry of cN into a group (R276). -/
  | ladc (d : Reg) (a : Reg) (s : BitVec 7)
  /-- Long subtract (R276). -/
  | lsub (d : Reg) (a : Reg) (b : Reg)
  /-- Subtracts the borrow of cN from a group (R276). -/
  | lsbc (d : Reg) (a : Reg) (s : BitVec 7)
  /-- Long negate (R276). -/
  | lneg (d : Reg) (a : Reg)
  /-- Long compare into a cc (R276). -/
  | lcmp (n : BitVec 2) (a : Reg) (b : Reg)
  /-- Long shift left (R276). -/
  | lshl (d : Reg) (a : Reg) (b : Reg)
  /-- Long logical shift right (R276). -/
  | lshr (d : Reg) (a : Reg) (b : Reg)
  /-- Long arithmetic shift right (R276). -/
  | lsar (d : Reg) (a : Reg) (b : Reg)
  /-- Long absolute value (R276). -/
  | labs (d : Reg) (a : Reg)
  /-- Group times a 64-bit value (R277). -/
  | lmuls (d : Reg) (a : Reg) (b : Reg)
  /-- Multiply-accumulate by a 64-bit value (R277). -/
  | lmacs (d : Reg) (a : Reg) (b : Reg)
  /-- Low half of a long product (R277). -/
  | lmull (d : Reg) (a : Reg) (b : Reg)
  /-- High half of a long signed product (R277). -/
  | lmulh (d : Reg) (a : Reg) (b : Reg)
  /-- Adds f32 values exactly into an xw320 accumulator (R280). -/
  | laccf32 (d : Reg) (a : Reg)
  /-- Rounds a group value to f32 (R281). -/
  | ltof32 (d : Reg) (a : Reg) (s : BitVec 7)
  /-- Rounds a group value to f64 (R281). -/
  | ltof64 (d : Reg) (a : Reg) (s : BitVec 7)
  /-- Gathers an xa128 into a group (R282). -/
  | lfromxa (d : Reg) (a : Reg) (b : Reg)
  /-- Spreads a limb of an xa128 to every lane of the group (R282). -/
  | ltoxa (d : Reg) (a : Reg) (s : BitVec 7)
  /-- Sign-extends an i64 into a group (R282). -/
  | lfromi64 (d : Reg) (a : Reg)
  /-- Issues a copy-engine command (R301). -/
  | cpy (d : Reg) (a : Reg) (b : Reg)
  /-- Closes the open set as a new batch (R311). -/
  | cbatch (d : Reg)
  /-- Waits for a batch, then acquires (R311). -/
  | cwait (a : Reg)
  /-- Reads and clears the copy status word (R311). -/
  | cstat (d : Reg)
  /-- Waits for a handle's entry to fill, then acquires (R314). -/
  | hwait (a : Reg)
  /-- Frees a handle's entry (R314). -/
  | hrel (a : Reg)
  /-- Queries a handle's state (R314). -/
  | hqry (d : Reg) (a : Reg)
  /-- Stores a range to peer memory through the copy engine (R315). -/
  | astore (d : Reg) (a : Reg) (b : Reg)
  /-- Tile matrix multiply-accumulate (R329). -/
  | mma (c : BitVec 1) (r : BitVec 1) (y : BitVec 1) (x : BitVec 1) (z : BitVec 1) (q : BitVec 1) (a : Reg) (b : Reg) (m : BitVec 2) (k : BitVec 2)
  /-- Sets MXCONF after earlier MMAs complete (R337). -/
  | mxcfg (a : Reg)
  /-- Queues a zeroing of an accumulator (R338). -/
  | mxzero (q : BitVec 1)
  /-- Queues a drain of an accumulator region (R339). -/
  | mxdrain (d : Reg) (a : Reg)
  /-- Waits for accumulator operations and reads MXSTAT (R341). -/
  | mxwait (d : Reg) (s : BitVec 7)
  /-- Waits for matrix and tile operations, then acquires (R342). -/
  | mxfence
  /-- Fetches and pins a tile into a new entry (R328). -/
  | tfetch (d : Reg) (a : Reg)
  /-- Frees a tile entry (R327). -/
  | tunpin (a : Reg)
  /-- Lath barrier arrival (R294). -/
  | barb (n : BitVec 2) (b : Reg)
  /-- Lath i64 sum arrival (R290). -/
  | aredI64 (x : BitVec 1) (k : BitVec 2) (n : BitVec 2) (a : Reg) (b : Reg)
  /-- Lath minimum arrival (R290). -/
  | aredMin (x : BitVec 1) (k : BitVec 2) (n : BitVec 2) (a : Reg) (b : Reg)
  /-- Lath maximum arrival (R290). -/
  | aredMax (x : BitVec 1) (k : BitVec 2) (n : BitVec 2) (a : Reg) (b : Reg)
  /-- Lath xa128 sum arrival (R290). -/
  | aredXa (x : BitVec 1) (n : BitVec 2) (a : Reg) (b : Reg)
  /-- Takes a reduction result and acquires (R293). -/
  | arwait (d : Reg) (n : BitVec 2)
  /-- Lath domain barrier arrival (R294). -/
  | barx (n : BitVec 2) (b : Reg)
  /-- Launches the grid and ends the prologue (R376). -/
  | pcommit (a : Reg)
  /-- Ends the packet without a launch (R376). -/
  | pcancel (a : Reg)
  /-- Launches the grid and re-runs the prologue after it completes (R376). -/
  | prepeat (a : Reg)
  /-- Loads or empties a key slot (R414). -/
  | keyset (a : Reg) (b : Reg)
  /-- Advances a tensor version, voiding or rewrapping its lines (R418). -/
  | tvbump (d : Reg) (a : Reg) (b : Reg)
  /-- Seals memory into an AES-GCM image (R422). -/
  | cseal (d : Reg) (a : Reg)
  /-- Checks and restores a sealed image (R424). -/
  | cunseal (d : Reg) (a : Reg)
  /-- Scrubs a berth and writes a signed receipt (R431). -/
  | strip (d : Reg) (a : Reg) (b : Reg)
  /-- Closes a berth manifest record (R434). -/
  | mancut (d : Reg)
  /-- SHA-384 step over data (R425). -/
  | hashb (d : Reg) (a : Reg) (b : Reg)
  /-- Dual-signs a 48-byte digest (R425). -/
  | sign (d : Reg) (a : Reg) (b : Reg)
  /-- Reads a system register (R190). -/
  | mfsys (d : Reg) (a : Reg)
  /-- Writes a system register (R190). -/
  | mtsys (a : Reg) (b : Reg)
  /-- Invalidates translations of a berth (R190). -/
  | tlbinv (a : Reg) (b : Reg)
  /-- Ends the gang with a given context base (R190). -/
  | ctxkill (a : Reg)
  deriving DecidableEq, Repr

end Sys2Proof
end

