-- ==== Sys2Proof/Decode.lean ====
section
/-!
DEFINITION. Instruction words (R51, R54, R69): decode reads a 32-bit word as the row of the opcode
map it carries, or names why it is no row (R70, R72, R77); encode writes the word of an
instruction. The rows without a word, the steps of the device itself, have no encoding. Rules that
depend on the unit's prefixes, on the register banks or on the executing agent are checked where a
unit issues (Sys2Proof/Machine/Operands.lean).
-/

namespace Sys2Proof

/-- Why a word is no row of the opcode map: a reserved major, an unlisted function code or a CVT type
pair (0x01), an extension major (0x03), a non-zero unused field (0x02), or a prefix type of 5 to 7
(0x07). -/
inductive Reject where
  | opcode
  | extension
  | field
  | prefixType
  deriving DecidableEq, Repr

/-- Bits [lo+len−1:lo] of x. -/
abbrev slice {n : Nat} (lo len : Nat) (x : BitVec n) : BitVec len := x.extractLsb' lo len

/-- The instruction, when its unused fields are zero (R53). -/
def needs (zero : Bool) (i : Instr) : Except Reject Instr := if zero then .ok i else .error .field

/-- A word in T format; X and M format words have the same cuts (R51). -/
def wordT (op d a b : BitVec 7) (f : BitVec 4) : IWord := op ++ d ++ a ++ b ++ f

/-- A word in I format (R51). -/
def wordI (op d a : BitVec 7) (i : BitVec 11) : IWord := op ++ d ++ a ++ i

/-- A word of TRAP or BRK: T format with a 14-bit number across fields a and b (R177). -/
def wordN (op d : BitVec 7) (n : BitVec 14) (f : BitVec 4) : IWord := op ++ d ++ n ++ f

/-- A word in B format (R51). -/
def wordB (op : BitVec 7) (x : BitVec 25) : IWord := op ++ x

/-- A word in P format: a prefix (R51, R59). -/
def wordP (type : BitVec 3) (payload : BitVec 22) : IWord := 127#7 ++ type ++ payload

/-- Major 0x0. -/
noncomputable def decodeSys (d : Reg) (a : Reg) (b : Reg) (f : BitVec 4) (n : BitVec 14) : Except Reject Instr :=
  match f with
  | 0 => needs (d == 0 && a == 0 && b == 0) (.nop)
  | 1 => needs (d == 0 && a == 0 && b == 0) (.yield)
  | 2 => needs (d == 0 && a == 0 && b == 0) (.exit)
  | 3 => needs (d == 0) (.trap n)
  | 4 => needs (d == 0) (.brk n)
  | 5 => needs (d == 0 && a == 0 && b == 0) (.eret)
  | 6 => needs (d == 0 && a == 0 && b == 0) (.wfe)
  | 7 => needs (d == 0 && a == 0 && b == 0) (.halt)
  | 8 => needs (d == 0 && a == 0 && b == 0) (.sev)
  | _ => .error .opcode

/-- Major 0x1. -/
noncomputable def decodeBra (x : BitVec 25) : Except Reject Instr :=
  .ok (.bra (slice 23 2 x) (slice 21 2 x) (slice 17 4 x) (slice 0 17 x))

/-- Major 0x2. -/
noncomputable def decodeCall (x : BitVec 25) : Except Reject Instr :=
  .ok (.call (slice 23 2 x) (slice 21 2 x) (slice 17 4 x) (slice 0 17 x))

/-- Major 0x3. -/
noncomputable def decodeJr (d : Reg) (a : Reg) (b : Reg) (f : BitVec 4) : Except Reject Instr :=
  match f with
  | 0 => needs (d == 0 && b == 0) (.jmpr a)
  | 1 => needs (b == 0) (.callr d a)
  | 2 => needs (d == 0 && b == 0) (.ret a)
  | _ => .error .opcode

/-- Major 0x4. -/
noncomputable def decodeMask (d : Reg) (a : Reg) (b : Reg) (f : BitVec 4) : Except Reject Instr :=
  match f with
  | 0 => needs ((slice 2 5 a) == 0 && (slice 4 3 b) == 0) (.maskc d (slice 0 2 a) (slice 0 4 b))
  | 1 => needs (b == 0) (.maskn d a)
  | 2 => needs (d == 0 && b == 0) (.masks a)
  | 3 => needs (b == 0) (.maskg d a)
  | 4 => needs ((slice 2 5 a) == 0 && (slice 4 3 b) == 0) (.maskx d (slice 0 2 a) (slice 0 4 b))
  | _ => .error .opcode

/-- Major 0x5. -/
noncomputable def decodeSpr (d : Reg) (a : Reg) (b : Reg) (f : BitVec 4) : Except Reject Instr :=
  match f with
  | 0 => needs (b == 0) (.mfs d a)
  | 1 => needs (b == 0) (.mts d a)
  | _ => .error .opcode

/-- Major 0x6. -/
noncomputable def decodeWbase (d : Reg) (a : Reg) (i : BitVec 11) : Except Reject Instr :=
  if d == 0 then needs (a == 0) (.wbase i) else if d == 1 then .ok (.wbaseS a i) else .error .field

/-- Major 0x7. -/
noncomputable def decodeRegion (d : Reg) (a : Reg) (i : BitVec 11) : Except Reject Instr :=
  needs (a == 0) (.region d i)

/-- Major 0x8. -/
noncomputable def decodeCtx (d : Reg) (a : Reg) (b : Reg) (f : BitVec 4) : Except Reject Instr :=
  match f with
  | 0 => needs ((slice 1 6 d) == 0) (.cwb (slice 0 1 d) a b)
  | 1 => needs (d == 0) (.cdrop a b)
  | 2 => needs (d == 0) (.cpin a b)
  | 3 => needs (d == 0) (.cunpin a b)
  | _ => .error .opcode

/-- Major 0x9. -/
noncomputable def decodeBar (d : Reg) (a : Reg) (b : Reg) (f : BitVec 4) : Except Reject Instr :=
  match f with
  | 0 => needs (d == 0 && a == 0 && b == 0) (.barT)
  | 1 => needs (d == 0 && a == 0 && b == 0) (.barQ)
  | 2 => needs (b == 0) (.barto d a)
  | _ => .error .opcode

/-- Major 0xa. -/
noncomputable def decodeCont (d : Reg) (a : Reg) (b : Reg) (f : BitVec 4) : Except Reject Instr :=
  match f with
  | 0 => needs (b == 0) (.spawn d a)
  | 1 => needs (b == 0) (.join d a)
  | 2 => if d == 0 then needs (b == 0) (.parkJoin a) else if d == 1 then .ok (.parkAddr a b) else .error .field
  | 3 => needs (d == 0 && b == 0) (.wake a)
  | 4 => needs (d == 0 && a == 0 && b == 0) (.staged)
  | _ => .error .opcode

/-- Major 0xb. -/
noncomputable def decodeTakew (d : Reg) (a : Reg) (b : Reg) (f : BitVec 4) : Except Reject Instr :=
  if f == 0 then needs (a == 0 && b == 0) (.takew d) else .error .opcode

/-- Major 0xc. -/
noncomputable def decodeQport (d : Reg) (a : Reg) (b : Reg) (f : BitVec 4) : Except Reject Instr :=
  match f with
  | 0 => needs (b == 0) (.qbind d a)
  | 1 => needs (b == 0) (.qstat d a)
  | 2 => needs (a == 0 && b == 0) (.qclose d)
  | _ => .error .opcode

/-- Majors 0x10, 0x11, 0x12, 0x13. -/
noncomputable def decodeIalu (t : BitVec 2) (d : Reg) (a : Reg) (b : Reg) (f : BitVec 4) : Except Reject Instr :=
  match f with
  | 0 => .ok (.add t d a b)
  | 1 => .ok (.sub t d a b)
  | 2 => .ok (.and t d a b)
  | 3 => .ok (.or t d a b)
  | 4 => .ok (.xor t d a b)
  | 5 => .ok (.andn t d a b)
  | 6 => .ok (.shl t d a b)
  | 7 => .ok (.shr t d a b)
  | 8 => .ok (.sar t d a b)
  | 9 => .ok (.rol t d a b)
  | 10 => .ok (.min t d a b)
  | 11 => .ok (.max t d a b)
  | 12 => .ok (.minu t d a b)
  | 13 => .ok (.maxu t d a b)
  | 14 => .ok (.absd t d a b)
  | 15 => needs (b == 0) (.mov t d a)
  | _ => .error .opcode

/-- Major 0x14. -/
noncomputable def decodeImul (d : Reg) (a : Reg) (b : Reg) (f : BitVec 4) : Except Reject Instr :=
  match f with
  | 0 => .ok (.mulI64 d a b)
  | 1 => .ok (.mulhiI64 d a b)
  | 2 => .ok (.mulhisI64 d a b)
  | 3 => .ok (.madI64 d a b)
  | 4 => .ok (.mulI32 d a b)
  | 5 => .ok (.mulhiI32 d a b)
  | 6 => .ok (.mulhisI32 d a b)
  | 7 => .ok (.madI32 d a b)
  | 8 => .ok (.divI64 d a b)
  | 9 => .ok (.idivI64 d a b)
  | 10 => .ok (.remI64 d a b)
  | 11 => .ok (.iremI64 d a b)
  | 12 => .ok (.divI32 d a b)
  | 13 => .ok (.idivI32 d a b)
  | 14 => .ok (.remI32 d a b)
  | 15 => .ok (.iremI32 d a b)
  | _ => .error .opcode

/-- Major 0x15. -/
noncomputable def decodeIcmp (d : Reg) (a : Reg) (b : Reg) (f : BitVec 4) : Except Reject Instr :=
  needs ((slice 4 3 d) == 0) (.icmp (slice 2 2 d) (slice 0 2 d) a b f)

/-- Major 0x17. -/
noncomputable def decodeAddi (d : Reg) (a : Reg) (i : BitVec 11) : Except Reject Instr :=
  .ok (.addi d a i)

/-- Major 0x18. -/
noncomputable def decodeMovi (d : Reg) (a : Reg) (i : BitVec 11) : Except Reject Instr :=
  needs (a == 0) (.movi d i)

/-- Major 0x19. -/
noncomputable def decodeShfi (d : Reg) (a : Reg) (i : BitVec 11) : Except Reject Instr :=
  needs ((slice 8 1 i) == 0) (.shfi d a (slice 9 2 i) (slice 6 2 i) (slice 0 6 i))

/-- Major 0x1a. -/
noncomputable def decodeAndi (d : Reg) (a : Reg) (i : BitVec 11) : Except Reject Instr :=
  .ok (.andi d a i)

/-- Major 0x1b. -/
noncomputable def decodeSel (d : Reg) (a : Reg) (b : Reg) (f : BitVec 4) : Except Reject Instr :=
  .ok (.sel d a b (slice 2 2 f) (slice 0 2 f))

/-- Major 0x1c. -/
noncomputable def decodeCcop (d : Reg) (a : Reg) (b : Reg) (f : BitVec 4) : Except Reject Instr :=
  match f with
  | 0 => needs ((slice 2 5 d) == 0 && (slice 2 5 a) == 0 && b == 0) (.ccmov (slice 0 2 d) (slice 0 2 a))
  | 1 => needs ((slice 2 5 d) == 0 && (slice 6 1 a) == 0 && (slice 6 1 b) == 0) (.ccand (slice 0 2 d) (slice 2 4 a) (slice 0 2 a) (slice 2 4 b) (slice 0 2 b))
  | 2 => needs ((slice 2 5 d) == 0 && (slice 6 1 a) == 0 && (slice 6 1 b) == 0) (.ccor (slice 0 2 d) (slice 2 4 a) (slice 0 2 a) (slice 2 4 b) (slice 0 2 b))
  | 3 => needs ((slice 2 5 a) == 0 && b == 0) (.ccget d (slice 0 2 a))
  | 4 => needs ((slice 2 5 d) == 0 && b == 0) (.ccset (slice 0 2 d) a)
  | _ => .error .opcode

/-- Major 0x1d. -/
noncomputable def decodeBits (d : Reg) (a : Reg) (b : Reg) (f : BitVec 4) : Except Reject Instr :=
  match f with
  | 0 => needs (b == 0) (.popc d a)
  | 1 => needs (b == 0) (.clz d a)
  | 2 => needs (b == 0) (.ctz d a)
  | 3 => needs (b == 0) (.brev d a)
  | 4 => needs (b == 0) (.bswap d a)
  | 5 => .ok (.bfe d a b)
  | 6 => .ok (.bfi d a b)
  | _ => .error .opcode

/-- Major 0x1e. -/
noncomputable def decodeLea (d : Reg) (a : Reg) (b : Reg) (f : BitVec 4) : Except Reject Instr :=
  if f == 0 then .ok (.lea d a b) else .error .opcode

/-- Major 0x1f. -/
noncomputable def decodeIext (d : Reg) (a : Reg) (b : Reg) (f : BitVec 4) : Except Reject Instr :=
  match f with
  | 0 => needs (b == 0) (.sextI8 d a)
  | 1 => needs (b == 0) (.sextI16 d a)
  | 2 => needs (b == 0) (.sextI32 d a)
  | 3 => needs (b == 0) (.zextI8 d a)
  | 4 => needs (b == 0) (.zextI16 d a)
  | 5 => needs (b == 0) (.zextI32 d a)
  | 6 => .ok (.packI32 d a b)
  | 7 => .ok (.packI16 d a b)
  | 8 => .ok (.packI8 d a b)
  | 9 => .ok (.unpkI32 d a b)
  | 10 => .ok (.unpkI16 d a b)
  | 11 => .ok (.unpkI8 d a b)
  | _ => .error .opcode

/-- Majors 0x20, 0x21, 0x22, 0x23. -/
noncomputable def decodeFalu (t : BitVec 2) (d : Reg) (a : Reg) (b : Reg) (f : BitVec 4) : Except Reject Instr :=
  match f with
  | 0 => .ok (.fadd t d a b)
  | 1 => .ok (.fsub t d a b)
  | 2 => .ok (.fmul t d a b)
  | 3 => .ok (.fma t d a b)
  | 4 => .ok (.fms t d a b)
  | 5 => .ok (.fnma t d a b)
  | 6 => .ok (.fnms t d a b)
  | 7 => .ok (.fmin t d a b)
  | 8 => .ok (.fmax t d a b)
  | 9 => needs (b == 0) (.fabs t d a)
  | 10 => needs (b == 0) (.fneg t d a)
  | 11 => .ok (.fcpys t d a b)
  | 12 => .ok (.fdiv t d a b)
  | 13 => needs (b == 0) (.fsqrt t d a)
  | 14 => needs ((slice 4 3 b) == 0) (.frnd t d a (slice 3 1 b) (slice 0 3 b))
  | 15 => needs (b == 0) (.fmov t d a)
  | _ => .error .opcode

/-- Major 0x24. -/
noncomputable def decodeFcmp (d : Reg) (a : Reg) (b : Reg) (f : BitVec 4) : Except Reject Instr :=
  needs ((slice 4 3 d) == 0) (.fcmp (slice 2 2 d) (slice 0 2 d) a b f)

/-- Major 0x25. -/
noncomputable def decodeCvt (d : Reg) (a : Reg) (b : Reg) (f : BitVec 4) : Except Reject Instr :=
  needs (f == 0) (.cvt d a (slice 4 3 b) (slice 1 3 b) (slice 0 1 b))

/-- Major 0x26. -/
noncomputable def decodeDot (d : Reg) (a : Reg) (b : Reg) (f : BitVec 4) : Except Reject Instr :=
  match f with
  | 0 => .ok (.dot2F16 d a b)
  | 1 => .ok (.dot2Bf16 d a b)
  | 2 => .ok (.dot8Q8 d a b)
  | 3 => .ok (.dot16Q4 d a b)
  | 4 => .ok (.dot4Q12 d a b)
  | 5 => .ok (.dot8I8 d a b)
  | _ => .error .opcode

/-- Major 0x27. -/
noncomputable def decodeResid (d : Reg) (a : Reg) (b : Reg) (f : BitVec 4) : Except Reject Instr :=
  match f with
  | 0 => .ok (.rxadd d a b)
  | 1 => .ok (.rxsub d a b)
  | 2 => .ok (.rxmul d a b)
  | 3 => .ok (.rxmac d a b)
  | 4 => needs (b == 0) (.rxneg d a)
  | 5 => .ok (.rxscl d a b)
  | _ => .error .opcode

/-- Major 0x28. -/
noncomputable def decodeQntv (d : Reg) (a : Reg) (b : Reg) (f : BitVec 4) : Except Reject Instr :=
  match f with
  | 0 => .ok (.qpackQ4 d a b)
  | 1 => .ok (.qpackQ8 d a b)
  | 2 => needs (b == 0) (.qpackQ12 d a)
  | 3 => .ok (.qunpkQ4 d a b)
  | 4 => .ok (.qunpkQ8 d a b)
  | 5 => needs (b == 0) (.qunpkQ12 d a)
  | 6 => .ok (.scaleof d a b)
  | _ => .error .opcode

/-- Major 0x29. -/
noncomputable def decodeXconv (d : Reg) (a : Reg) (b : Reg) (f : BitVec 4) : Except Reject Instr :=
  match b with
  | 0 => .ok (.rxfrom d a f)
  | 1 => .ok (.rxto d a f)
  | 2 => .ok (.f8pkE4m3 d a f)
  | 3 => .ok (.f8pkE5m2 d a f)
  | 4 => .ok (.f8upE4m3 d a f)
  | 5 => .ok (.f8upE5m2 d a f)
  | _ => .error .opcode

/-- Major 0x2a. -/
noncomputable def decodeShfl (d : Reg) (a : Reg) (b : Reg) (f : BitVec 4) : Except Reject Instr :=
  match f with
  | 0 => .ok (.shfl d a b)
  | 1 => .ok (.shflx d a b)
  | 2 => .ok (.shflr d a b)
  | 3 => .ok (.bcast d a b)
  | 4 => .ok (.rev d a b)
  | _ => .error .opcode

/-- Major 0x2b. -/
noncomputable def decodeGang (d : Reg) (a : Reg) (b : Reg) (f : BitVec 4) : Except Reject Instr :=
  match f with
  | 0 => needs ((slice 2 5 a) == 0 && (slice 4 3 b) == 0) (.vote d (slice 0 2 a) (slice 0 4 b))
  | 1 => needs (b == 0) (.redaddI64 d a)
  | 2 => needs (b == 0) (.redaddI32 d a)
  | 3 => needs (b == 0) (.redaddF64 d a)
  | 4 => needs (b == 0) (.redaddF32 d a)
  | 5 => needs (b == 0) (.redminI64 d a)
  | 6 => needs (b == 0) (.redminF64 d a)
  | 7 => needs (b == 0) (.redminF32 d a)
  | 8 => needs (b == 0) (.redmaxI64 d a)
  | 9 => needs (b == 0) (.redmaxF64 d a)
  | 10 => needs (b == 0) (.redmaxF32 d a)
  | 11 => needs (b == 0) (.scanaddI64 d a)
  | 12 => needs (b == 0) (.scanaddI32 d a)
  | 13 => needs (b == 0) (.scanaddF64 d a)
  | 14 => needs (b == 0) (.scanaddF32 d a)
  | _ => .error .opcode

/-- Majors 0x2c, 0x2d, 0x2e, 0x2f. -/
noncomputable def decodeSfu (t : BitVec 2) (d : Reg) (a : Reg) (b : Reg) (f : BitVec 4) : Except Reject Instr :=
  match b with
  | 0 => .ok (.exp2 t d a f)
  | 1 => .ok (.log2 t d a f)
  | 2 => .ok (.rcp t d a f)
  | 3 => .ok (.rsq t d a f)
  | 4 => .ok (.sqrt t d a f)
  | 5 => .ok (.sin t d a f)
  | 6 => .ok (.cos t d a f)
  | 7 => .ok (.tanh t d a f)
  | 8 => .ok (.sigm t d a f)
  | 9 => .ok (.gelu t d a f)
  | 10 => .ok (.silu t d a f)
  | 11 => .ok (.erf t d a f)
  | _ => .error .opcode

/-- Majors 0x30, 0x31, 0x32, 0x33. -/
noncomputable def decodeLdg (t : BitVec 2) (d : Reg) (a : Reg) (b : Reg) (f : BitVec 4) : Except Reject Instr :=
  .ok (.ldg t d a b f)

/-- Major 0x34. -/
noncomputable def decodeLdv (d : Reg) (a : Reg) (b : Reg) (f : BitVec 4) : Except Reject Instr :=
  .ok (.ldv d a b f)

/-- Major 0x35. -/
noncomputable def decodeStgI8 (d : Reg) (a : Reg) (b : Reg) (f : BitVec 4) : Except Reject Instr :=
  if f == 0 then .ok (.stgI8 d a b) else .error .opcode

/-- Major 0x36. -/
noncomputable def decodeStgI16 (d : Reg) (a : Reg) (b : Reg) (f : BitVec 4) : Except Reject Instr :=
  if f == 0 then .ok (.stgI16 d a b) else .error .opcode

/-- Major 0x37. -/
noncomputable def decodeStgI32 (d : Reg) (a : Reg) (b : Reg) (f : BitVec 4) : Except Reject Instr :=
  if f == 0 then .ok (.stgI32 d a b) else .error .opcode

/-- Major 0x38. -/
noncomputable def decodeStgI64 (d : Reg) (a : Reg) (b : Reg) (f : BitVec 4) : Except Reject Instr :=
  if f == 0 then .ok (.stgI64 d a b) else .error .opcode

/-- Major 0x39. -/
noncomputable def decodeStv (d : Reg) (a : Reg) (b : Reg) (f : BitVec 4) : Except Reject Instr :=
  if f == 0 then .ok (.stv d a b) else .error .opcode

/-- Major 0x3a. -/
noncomputable def decodeLda (d : Reg) (a : Reg) (b : Reg) (f : BitVec 4) : Except Reject Instr :=
  .ok (.lda d a b f)

/-- Major 0x3b. -/
noncomputable def decodeStl (d : Reg) (a : Reg) (b : Reg) (f : BitVec 4) : Except Reject Instr :=
  if f == 0 then .ok (.stl d a b) else .error .opcode

/-- Majors 0x3c, 0x3d. -/
noncomputable def decodeAtom (t : BitVec 1) (d : Reg) (a : Reg) (b : Reg) (f : BitVec 4) : Except Reject Instr :=
  match f with
  | 0 => .ok (.atomAdd t d a b)
  | 1 => .ok (.atomSub t d a b)
  | 2 => .ok (.atomAnd t d a b)
  | 3 => .ok (.atomOr t d a b)
  | 4 => .ok (.atomXor t d a b)
  | 5 => .ok (.atomMin t d a b)
  | 6 => .ok (.atomMax t d a b)
  | 7 => .ok (.atomMinu t d a b)
  | 8 => .ok (.atomMaxu t d a b)
  | 9 => .ok (.atomXchg t d a b)
  | 10 => .ok (.atomCas t d a b)
  | _ => .error .opcode

/-- Major 0x3e. -/
noncomputable def decodeFence (d : Reg) (a : Reg) (b : Reg) (f : BitVec 4) : Except Reject Instr :=
  match f with
  | 0 => needs (d == 0 && a == 0 && b == 0) (.fenceAcq)
  | 1 => needs (d == 0 && a == 0 && b == 0) (.fenceRel)
  | 2 => needs (d == 0 && a == 0 && b == 0) (.fenceAr)
  | 3 => needs (d == 0 && a == 0 && b == 0) (.fenceEng)
  | 4 => needs (d == 0 && a == 0 && b == 0) (.fenceDev)
  | _ => .error .opcode

/-- Major 0x3f. -/
noncomputable def decodeMemop (d : Reg) (a : Reg) (b : Reg) (f : BitVec 4) : Except Reject Instr :=
  match f with
  | 0 => needs ((slice 1 6 d) == 0) (.pref (slice 0 1 d) a b)
  | 1 => needs (d == 0) (.discard a b)
  | 2 => needs (d == 0) (.wback a b)
  | 3 => needs (d == 0) (.zero a b)
  | _ => .error .opcode

/-- Major 0x40. -/
noncomputable def decodeBind (d : Reg) (a : Reg) (i : BitVec 11) : Except Reject Instr :=
  needs (d == 0 && a == 0) (.bind i)

/-- Major 0x41. -/
noncomputable def decodeLalu (d : Reg) (a : Reg) (b : Reg) (f : BitVec 4) : Except Reject Instr :=
  match f with
  | 0 => .ok (.ladd d a b)
  | 1 => .ok (.ladc d a b)
  | 2 => .ok (.lsub d a b)
  | 3 => .ok (.lsbc d a b)
  | 4 => needs (b == 0) (.lneg d a)
  | 5 => needs ((slice 2 5 d) == 0) (.lcmp (slice 0 2 d) a b)
  | 6 => .ok (.lshl d a b)
  | 7 => .ok (.lshr d a b)
  | 8 => .ok (.lsar d a b)
  | 9 => needs (b == 0) (.labs d a)
  | _ => .error .opcode

/-- Major 0x42. -/
noncomputable def decodeLmul (d : Reg) (a : Reg) (b : Reg) (f : BitVec 4) : Except Reject Instr :=
  match f with
  | 0 => .ok (.lmuls d a b)
  | 1 => .ok (.lmacs d a b)
  | 2 => .ok (.lmull d a b)
  | 3 => .ok (.lmulh d a b)
  | _ => .error .opcode

/-- Major 0x43. -/
noncomputable def decodeLconv (d : Reg) (a : Reg) (b : Reg) (f : BitVec 4) : Except Reject Instr :=
  match f with
  | 0 => needs (b == 0) (.laccf32 d a)
  | 1 => .ok (.ltof32 d a b)
  | 2 => .ok (.ltof64 d a b)
  | 3 => .ok (.lfromxa d a b)
  | 4 => .ok (.ltoxa d a b)
  | 5 => needs (b == 0) (.lfromi64 d a)
  | _ => .error .opcode

/-- Major 0x44. -/
noncomputable def decodeCpy (d : Reg) (a : Reg) (b : Reg) (f : BitVec 4) : Except Reject Instr :=
  if f == 0 then .ok (.cpy d a b) else .error .opcode

/-- Major 0x45. -/
noncomputable def decodeCbat (d : Reg) (a : Reg) (b : Reg) (f : BitVec 4) : Except Reject Instr :=
  match f with
  | 0 => needs (a == 0 && b == 0) (.cbatch d)
  | 1 => needs (d == 0 && b == 0) (.cwait a)
  | 2 => needs (a == 0 && b == 0) (.cstat d)
  | _ => .error .opcode

/-- Major 0x46. -/
noncomputable def decodeHnd (d : Reg) (a : Reg) (b : Reg) (f : BitVec 4) : Except Reject Instr :=
  match f with
  | 0 => needs (d == 0 && b == 0) (.hwait a)
  | 1 => needs (d == 0 && b == 0) (.hrel a)
  | 2 => needs (b == 0) (.hqry d a)
  | _ => .error .opcode

/-- Major 0x47. -/
noncomputable def decodeAstore (d : Reg) (a : Reg) (b : Reg) (f : BitVec 4) : Except Reject Instr :=
  if f == 0 then .ok (.astore d a b) else .error .opcode

/-- Major 0x48. -/
noncomputable def decodeMma (d : Reg) (a : Reg) (b : Reg) (f : BitVec 4) : Except Reject Instr :=
  needs ((slice 6 1 d) == 0) (.mma (slice 5 1 d) (slice 4 1 d) (slice 3 1 d) (slice 2 1 d) (slice 1 1 d) (slice 0 1 d) a b (slice 2 2 f) (slice 0 2 f))

/-- Major 0x49. -/
noncomputable def decodeMxc (d : Reg) (a : Reg) (b : Reg) (f : BitVec 4) : Except Reject Instr :=
  match f with
  | 0 => needs (d == 0 && b == 0) (.mxcfg a)
  | 1 => needs ((slice 1 6 d) == 0 && a == 0 && b == 0) (.mxzero (slice 0 1 d))
  | 2 => needs (b == 0) (.mxdrain d a)
  | 3 => needs (a == 0) (.mxwait d b)
  | 4 => needs (d == 0 && a == 0 && b == 0) (.mxfence)
  | _ => .error .opcode

/-- Major 0x4a. -/
noncomputable def decodeTile (d : Reg) (a : Reg) (b : Reg) (f : BitVec 4) : Except Reject Instr :=
  match f with
  | 0 => needs (b == 0) (.tfetch d a)
  | 1 => needs (d == 0 && b == 0) (.tunpin a)
  | _ => .error .opcode

/-- Major 0x4c. -/
noncomputable def decodeTree (d : Reg) (a : Reg) (b : Reg) (f : BitVec 4) : Except Reject Instr :=
  match f with
  | 0 => needs ((slice 2 5 d) == 0 && a == 0) (.barb (slice 0 2 d) b)
  | 1 => needs ((slice 5 2 d) == 0) (.aredI64 (slice 4 1 d) (slice 2 2 d) (slice 0 2 d) a b)
  | 2 => needs ((slice 5 2 d) == 0) (.aredMin (slice 4 1 d) (slice 2 2 d) (slice 0 2 d) a b)
  | 3 => needs ((slice 5 2 d) == 0) (.aredMax (slice 4 1 d) (slice 2 2 d) (slice 0 2 d) a b)
  | 4 => needs ((slice 5 2 d) == 0 && (slice 2 2 d) == 0) (.aredXa (slice 4 1 d) (slice 0 2 d) a b)
  | 5 => needs ((slice 2 5 a) == 0 && b == 0) (.arwait d (slice 0 2 a))
  | 6 => needs ((slice 2 5 d) == 0 && a == 0) (.barx (slice 0 2 d) b)
  | _ => .error .opcode

/-- Major 0x4d. -/
noncomputable def decodeLnch (d : Reg) (a : Reg) (b : Reg) (f : BitVec 4) : Except Reject Instr :=
  match f with
  | 0 => needs (d == 0 && b == 0) (.pcommit a)
  | 1 => needs (d == 0 && b == 0) (.pcancel a)
  | 2 => needs (d == 0 && b == 0) (.prepeat a)
  | _ => .error .opcode

/-- Major 0x4e. -/
noncomputable def decodeSeal (d : Reg) (a : Reg) (b : Reg) (f : BitVec 4) : Except Reject Instr :=
  match f with
  | 0 => needs (d == 0) (.keyset a b)
  | 1 => .ok (.tvbump d a b)
  | 2 => needs (b == 0) (.cseal d a)
  | 3 => needs (b == 0) (.cunseal d a)
  | 4 => .ok (.strip d a b)
  | 5 => needs (a == 0 && b == 0) (.mancut d)
  | 6 => .ok (.hashb d a b)
  | 7 => .ok (.sign d a b)
  | _ => .error .opcode

/-- Major 0x4f. -/
noncomputable def decodeSysreg (d : Reg) (a : Reg) (b : Reg) (f : BitVec 4) : Except Reject Instr :=
  match f with
  | 0 => needs (b == 0) (.mfsys d a)
  | 1 => needs (d == 0) (.mtsys a b)
  | 2 => needs (d == 0) (.tlbinv a b)
  | 3 => needs (d == 0 && b == 0) (.ctxkill a)
  | _ => .error .opcode

/-- Major 0x7F: a prefix word (R59 to R64). -/
noncomputable def decodePrefix (type : BitVec 3) (p : BitVec 22) : Except Reject Instr :=
  match type with
  | 0 => needs (slice 0 13 p == 0) (.guard (slice 20 2 p) (slice 16 4 p) (slice 13 3 p))
  | 1 => .ok (.immx p)
  | 2 => needs (slice 0 4 p == 0) (.rep (slice 16 6 p) (slice 12 4 p) (slice 8 4 p) (slice 4 4 p))
  | 3 => needs (slice 0 19 p == 0) (.flags (slice 20 2 p) (slice 19 1 p))
  | 4 => needs (slice 0 2 p == 0) (.scl (slice 15 7 p) (slice 8 7 p) (slice 5 3 p) (slice 2 3 p))
  | _ => .error .prefixType

/-- The row of the opcode map a word carries, by its major opcode (R69). Majors 0x50 to 0x7E are the
extension space, none of it implemented (R72 to R74). -/
noncomputable def decode (w : IWord) : Except Reject Instr :=
  let op : BitVec 7 := slice 25 7 w
  match op.toNat with
  | 0 => decodeSys (slice 18 7 w) (slice 11 7 w) (slice 4 7 w) (slice 0 4 w) (slice 4 14 w)
  | 1 => decodeBra (slice 0 25 w)
  | 2 => decodeCall (slice 0 25 w)
  | 3 => decodeJr (slice 18 7 w) (slice 11 7 w) (slice 4 7 w) (slice 0 4 w)
  | 4 => decodeMask (slice 18 7 w) (slice 11 7 w) (slice 4 7 w) (slice 0 4 w)
  | 5 => decodeSpr (slice 18 7 w) (slice 11 7 w) (slice 4 7 w) (slice 0 4 w)
  | 6 => decodeWbase (slice 18 7 w) (slice 11 7 w) (slice 0 11 w)
  | 7 => decodeRegion (slice 18 7 w) (slice 11 7 w) (slice 0 11 w)
  | 8 => decodeCtx (slice 18 7 w) (slice 11 7 w) (slice 4 7 w) (slice 0 4 w)
  | 9 => decodeBar (slice 18 7 w) (slice 11 7 w) (slice 4 7 w) (slice 0 4 w)
  | 10 => decodeCont (slice 18 7 w) (slice 11 7 w) (slice 4 7 w) (slice 0 4 w)
  | 11 => decodeTakew (slice 18 7 w) (slice 11 7 w) (slice 4 7 w) (slice 0 4 w)
  | 12 => decodeQport (slice 18 7 w) (slice 11 7 w) (slice 4 7 w) (slice 0 4 w)
  | 16 | 17 | 18 | 19 => decodeIalu (slice 0 2 op) (slice 18 7 w) (slice 11 7 w) (slice 4 7 w) (slice 0 4 w)
  | 20 => decodeImul (slice 18 7 w) (slice 11 7 w) (slice 4 7 w) (slice 0 4 w)
  | 21 => decodeIcmp (slice 18 7 w) (slice 11 7 w) (slice 4 7 w) (slice 0 4 w)
  | 23 => decodeAddi (slice 18 7 w) (slice 11 7 w) (slice 0 11 w)
  | 24 => decodeMovi (slice 18 7 w) (slice 11 7 w) (slice 0 11 w)
  | 25 => decodeShfi (slice 18 7 w) (slice 11 7 w) (slice 0 11 w)
  | 26 => decodeAndi (slice 18 7 w) (slice 11 7 w) (slice 0 11 w)
  | 27 => decodeSel (slice 18 7 w) (slice 11 7 w) (slice 4 7 w) (slice 0 4 w)
  | 28 => decodeCcop (slice 18 7 w) (slice 11 7 w) (slice 4 7 w) (slice 0 4 w)
  | 29 => decodeBits (slice 18 7 w) (slice 11 7 w) (slice 4 7 w) (slice 0 4 w)
  | 30 => decodeLea (slice 18 7 w) (slice 11 7 w) (slice 4 7 w) (slice 0 4 w)
  | 31 => decodeIext (slice 18 7 w) (slice 11 7 w) (slice 4 7 w) (slice 0 4 w)
  | 32 | 33 | 34 | 35 => decodeFalu (slice 0 2 op) (slice 18 7 w) (slice 11 7 w) (slice 4 7 w) (slice 0 4 w)
  | 36 => decodeFcmp (slice 18 7 w) (slice 11 7 w) (slice 4 7 w) (slice 0 4 w)
  | 37 => decodeCvt (slice 18 7 w) (slice 11 7 w) (slice 4 7 w) (slice 0 4 w)
  | 38 => decodeDot (slice 18 7 w) (slice 11 7 w) (slice 4 7 w) (slice 0 4 w)
  | 39 => decodeResid (slice 18 7 w) (slice 11 7 w) (slice 4 7 w) (slice 0 4 w)
  | 40 => decodeQntv (slice 18 7 w) (slice 11 7 w) (slice 4 7 w) (slice 0 4 w)
  | 41 => decodeXconv (slice 18 7 w) (slice 11 7 w) (slice 4 7 w) (slice 0 4 w)
  | 42 => decodeShfl (slice 18 7 w) (slice 11 7 w) (slice 4 7 w) (slice 0 4 w)
  | 43 => decodeGang (slice 18 7 w) (slice 11 7 w) (slice 4 7 w) (slice 0 4 w)
  | 44 | 45 | 46 => decodeSfu (slice 0 2 op) (slice 18 7 w) (slice 11 7 w) (slice 4 7 w) (slice 0 4 w)
  | 48 | 49 | 50 | 51 => decodeLdg (slice 0 2 op) (slice 18 7 w) (slice 11 7 w) (slice 4 7 w) (slice 0 4 w)
  | 52 => decodeLdv (slice 18 7 w) (slice 11 7 w) (slice 4 7 w) (slice 0 4 w)
  | 53 => decodeStgI8 (slice 18 7 w) (slice 11 7 w) (slice 4 7 w) (slice 0 4 w)
  | 54 => decodeStgI16 (slice 18 7 w) (slice 11 7 w) (slice 4 7 w) (slice 0 4 w)
  | 55 => decodeStgI32 (slice 18 7 w) (slice 11 7 w) (slice 4 7 w) (slice 0 4 w)
  | 56 => decodeStgI64 (slice 18 7 w) (slice 11 7 w) (slice 4 7 w) (slice 0 4 w)
  | 57 => decodeStv (slice 18 7 w) (slice 11 7 w) (slice 4 7 w) (slice 0 4 w)
  | 58 => decodeLda (slice 18 7 w) (slice 11 7 w) (slice 4 7 w) (slice 0 4 w)
  | 59 => decodeStl (slice 18 7 w) (slice 11 7 w) (slice 4 7 w) (slice 0 4 w)
  | 60 | 61 => decodeAtom (slice 0 1 op) (slice 18 7 w) (slice 11 7 w) (slice 4 7 w) (slice 0 4 w)
  | 62 => decodeFence (slice 18 7 w) (slice 11 7 w) (slice 4 7 w) (slice 0 4 w)
  | 63 => decodeMemop (slice 18 7 w) (slice 11 7 w) (slice 4 7 w) (slice 0 4 w)
  | 64 => decodeBind (slice 18 7 w) (slice 11 7 w) (slice 0 11 w)
  | 65 => decodeLalu (slice 18 7 w) (slice 11 7 w) (slice 4 7 w) (slice 0 4 w)
  | 66 => decodeLmul (slice 18 7 w) (slice 11 7 w) (slice 4 7 w) (slice 0 4 w)
  | 67 => decodeLconv (slice 18 7 w) (slice 11 7 w) (slice 4 7 w) (slice 0 4 w)
  | 68 => decodeCpy (slice 18 7 w) (slice 11 7 w) (slice 4 7 w) (slice 0 4 w)
  | 69 => decodeCbat (slice 18 7 w) (slice 11 7 w) (slice 4 7 w) (slice 0 4 w)
  | 70 => decodeHnd (slice 18 7 w) (slice 11 7 w) (slice 4 7 w) (slice 0 4 w)
  | 71 => decodeAstore (slice 18 7 w) (slice 11 7 w) (slice 4 7 w) (slice 0 4 w)
  | 72 => decodeMma (slice 18 7 w) (slice 11 7 w) (slice 4 7 w) (slice 0 4 w)
  | 73 => decodeMxc (slice 18 7 w) (slice 11 7 w) (slice 4 7 w) (slice 0 4 w)
  | 74 => decodeTile (slice 18 7 w) (slice 11 7 w) (slice 4 7 w) (slice 0 4 w)
  | 76 => decodeTree (slice 18 7 w) (slice 11 7 w) (slice 4 7 w) (slice 0 4 w)
  | 77 => decodeLnch (slice 18 7 w) (slice 11 7 w) (slice 4 7 w) (slice 0 4 w)
  | 78 => decodeSeal (slice 18 7 w) (slice 11 7 w) (slice 4 7 w) (slice 0 4 w)
  | 79 => decodeSysreg (slice 18 7 w) (slice 11 7 w) (slice 4 7 w) (slice 0 4 w)
  | 127 => decodePrefix (slice 22 3 w) (slice 0 22 w)
  | m => if 80 ≤ m then .error .extension else .error .opcode

/-- The word of an instruction; none for a step that has no word. -/
def encode (i : Instr) : Option IWord :=
  match i with
  | .guard c k n => some (wordP 0 (c ++ k ++ n ++ 0#13))
  | .immx p => some (wordP 1 p)
  | .rep n d a b => some (wordP 2 (n ++ d ++ a ++ b ++ 0#4))
  | .flags c x => some (wordP 3 (c ++ x ++ 0#19))
  | .scl a b x y => some (wordP 4 (a ++ b ++ x ++ y ++ 0#2))
  | .nop => some (wordT 0 0#7 0#7 0#7 0#4)
  | .yield => some (wordT 0 0#7 0#7 0#7 1#4)
  | .exit => some (wordT 0 0#7 0#7 0#7 2#4)
  | .trap n => some (wordN 0 0#7 n 3#4)
  | .brk n => some (wordN 0 0#7 n 4#4)
  | .eret => some (wordT 0 0#7 0#7 0#7 5#4)
  | .wfe => some (wordT 0 0#7 0#7 0#7 6#4)
  | .halt => some (wordT 0 0#7 0#7 0#7 7#4)
  | .sev => some (wordT 0 0#7 0#7 0#7 8#4)
  | .bra m c k p => some (wordB 1 (m ++ c ++ k ++ p))
  | .call m c k p => some (wordB 2 (m ++ c ++ k ++ p))
  | .jmpr a => some (wordT 3 0#7 a 0#7 0#4)
  | .callr d a => some (wordT 3 d a 0#7 1#4)
  | .ret a => some (wordT 3 0#7 a 0#7 2#4)
  | .maskc d n k => some (wordT 4 d (0#5 ++ n) (0#3 ++ k) 0#4)
  | .maskn d a => some (wordT 4 d a 0#7 1#4)
  | .masks a => some (wordT 4 0#7 a 0#7 2#4)
  | .maskg d a => some (wordT 4 d a 0#7 3#4)
  | .maskx d n k => some (wordT 4 d (0#5 ++ n) (0#3 ++ k) 4#4)
  | .mfs d a => some (wordT 5 d a 0#7 0#4)
  | .mts d a => some (wordT 5 d a 0#7 1#4)
  | .wbase i => some (wordI 6 0#7 0#7 i)
  | .wbaseS a i => some (wordI 6 1#7 a i)
  | .region d i => some (wordI 7 d 0#7 i)
  | .cwb x a b => some (wordT 8 (0#6 ++ x) a b 0#4)
  | .cdrop a b => some (wordT 8 0#7 a b 1#4)
  | .cpin a b => some (wordT 8 0#7 a b 2#4)
  | .cunpin a b => some (wordT 8 0#7 a b 3#4)
  | .barT => some (wordT 9 0#7 0#7 0#7 0#4)
  | .barQ => some (wordT 9 0#7 0#7 0#7 1#4)
  | .barto d a => some (wordT 9 d a 0#7 2#4)
  | .spawn d a => some (wordT 10 d a 0#7 0#4)
  | .join d a => some (wordT 10 d a 0#7 1#4)
  | .parkJoin a => some (wordT 10 0#7 a 0#7 2#4)
  | .parkAddr a b => some (wordT 10 1#7 a b 2#4)
  | .wake a => some (wordT 10 0#7 a 0#7 3#4)
  | .staged => some (wordT 10 0#7 0#7 0#7 4#4)
  | .takew d => some (wordT 11 d 0#7 0#7 0#4)
  | .qbind d a => some (wordT 12 d a 0#7 0#4)
  | .qstat d a => some (wordT 12 d a 0#7 1#4)
  | .qclose d => some (wordT 12 d 0#7 0#7 2#4)
  | .add t d a b => some (wordT (4#5 ++ t) d a b 0#4)
  | .sub t d a b => some (wordT (4#5 ++ t) d a b 1#4)
  | .and t d a b => some (wordT (4#5 ++ t) d a b 2#4)
  | .or t d a b => some (wordT (4#5 ++ t) d a b 3#4)
  | .xor t d a b => some (wordT (4#5 ++ t) d a b 4#4)
  | .andn t d a b => some (wordT (4#5 ++ t) d a b 5#4)
  | .shl t d a b => some (wordT (4#5 ++ t) d a b 6#4)
  | .shr t d a b => some (wordT (4#5 ++ t) d a b 7#4)
  | .sar t d a b => some (wordT (4#5 ++ t) d a b 8#4)
  | .rol t d a b => some (wordT (4#5 ++ t) d a b 9#4)
  | .min t d a b => some (wordT (4#5 ++ t) d a b 10#4)
  | .max t d a b => some (wordT (4#5 ++ t) d a b 11#4)
  | .minu t d a b => some (wordT (4#5 ++ t) d a b 12#4)
  | .maxu t d a b => some (wordT (4#5 ++ t) d a b 13#4)
  | .absd t d a b => some (wordT (4#5 ++ t) d a b 14#4)
  | .mov t d a => some (wordT (4#5 ++ t) d a 0#7 15#4)
  | .mulI64 d a b => some (wordT 20 d a b 0#4)
  | .mulhiI64 d a b => some (wordT 20 d a b 1#4)
  | .mulhisI64 d a b => some (wordT 20 d a b 2#4)
  | .madI64 d a b => some (wordT 20 d a b 3#4)
  | .mulI32 d a b => some (wordT 20 d a b 4#4)
  | .mulhiI32 d a b => some (wordT 20 d a b 5#4)
  | .mulhisI32 d a b => some (wordT 20 d a b 6#4)
  | .madI32 d a b => some (wordT 20 d a b 7#4)
  | .divI64 d a b => some (wordT 20 d a b 8#4)
  | .idivI64 d a b => some (wordT 20 d a b 9#4)
  | .remI64 d a b => some (wordT 20 d a b 10#4)
  | .iremI64 d a b => some (wordT 20 d a b 11#4)
  | .divI32 d a b => some (wordT 20 d a b 12#4)
  | .idivI32 d a b => some (wordT 20 d a b 13#4)
  | .remI32 d a b => some (wordT 20 d a b 14#4)
  | .iremI32 d a b => some (wordT 20 d a b 15#4)
  | .icmp t c a b k => some (wordT 21 (0#3 ++ t ++ c) a b k)
  | .addi d a i => some (wordI 23 d a i)
  | .movi d i => some (wordI 24 d 0#7 i)
  | .shfi d a k w n => some (wordI 25 d a (k ++ 0#1 ++ w ++ n))
  | .andi d a i => some (wordI 26 d a i)
  | .sel d a b n t => some (wordT 27 d a b (n ++ t))
  | .ccmov d a => some (wordT 28 (0#5 ++ d) (0#5 ++ a) 0#7 0#4)
  | .ccand d x a y b => some (wordT 28 (0#5 ++ d) (0#1 ++ x ++ a) (0#1 ++ y ++ b) 1#4)
  | .ccor d x a y b => some (wordT 28 (0#5 ++ d) (0#1 ++ x ++ a) (0#1 ++ y ++ b) 2#4)
  | .ccget d a => some (wordT 28 d (0#5 ++ a) 0#7 3#4)
  | .ccset d a => some (wordT 28 (0#5 ++ d) a 0#7 4#4)
  | .popc d a => some (wordT 29 d a 0#7 0#4)
  | .clz d a => some (wordT 29 d a 0#7 1#4)
  | .ctz d a => some (wordT 29 d a 0#7 2#4)
  | .brev d a => some (wordT 29 d a 0#7 3#4)
  | .bswap d a => some (wordT 29 d a 0#7 4#4)
  | .bfe d a b => some (wordT 29 d a b 5#4)
  | .bfi d a b => some (wordT 29 d a b 6#4)
  | .lea d a b => some (wordT 30 d a b 0#4)
  | .sextI8 d a => some (wordT 31 d a 0#7 0#4)
  | .sextI16 d a => some (wordT 31 d a 0#7 1#4)
  | .sextI32 d a => some (wordT 31 d a 0#7 2#4)
  | .zextI8 d a => some (wordT 31 d a 0#7 3#4)
  | .zextI16 d a => some (wordT 31 d a 0#7 4#4)
  | .zextI32 d a => some (wordT 31 d a 0#7 5#4)
  | .packI32 d a b => some (wordT 31 d a b 6#4)
  | .packI16 d a b => some (wordT 31 d a b 7#4)
  | .packI8 d a b => some (wordT 31 d a b 8#4)
  | .unpkI32 d a s => some (wordT 31 d a s 9#4)
  | .unpkI16 d a s => some (wordT 31 d a s 10#4)
  | .unpkI8 d a s => some (wordT 31 d a s 11#4)
  | .fadd t d a b => some (wordT (8#5 ++ t) d a b 0#4)
  | .fsub t d a b => some (wordT (8#5 ++ t) d a b 1#4)
  | .fmul t d a b => some (wordT (8#5 ++ t) d a b 2#4)
  | .fma t d a b => some (wordT (8#5 ++ t) d a b 3#4)
  | .fms t d a b => some (wordT (8#5 ++ t) d a b 4#4)
  | .fnma t d a b => some (wordT (8#5 ++ t) d a b 5#4)
  | .fnms t d a b => some (wordT (8#5 ++ t) d a b 6#4)
  | .fmin t d a b => some (wordT (8#5 ++ t) d a b 7#4)
  | .fmax t d a b => some (wordT (8#5 ++ t) d a b 8#4)
  | .fabs t d a => some (wordT (8#5 ++ t) d a 0#7 9#4)
  | .fneg t d a => some (wordT (8#5 ++ t) d a 0#7 10#4)
  | .fcpys t d a b => some (wordT (8#5 ++ t) d a b 11#4)
  | .fdiv t d a b => some (wordT (8#5 ++ t) d a b 12#4)
  | .fsqrt t d a => some (wordT (8#5 ++ t) d a 0#7 13#4)
  | .frnd t d a x m => some (wordT (8#5 ++ t) d a (0#3 ++ x ++ m) 14#4)
  | .fmov t d a => some (wordT (8#5 ++ t) d a 0#7 15#4)
  | .fcmp t c a b k => some (wordT 36 (0#3 ++ t ++ c) a b k)
  | .cvt d a t s n => some (wordT 37 d a (t ++ s ++ n) 0#4)
  | .dot2F16 d a b => some (wordT 38 d a b 0#4)
  | .dot2Bf16 d a b => some (wordT 38 d a b 1#4)
  | .dot8Q8 d a b => some (wordT 38 d a b 2#4)
  | .dot16Q4 d a b => some (wordT 38 d a b 3#4)
  | .dot4Q12 d a b => some (wordT 38 d a b 4#4)
  | .dot8I8 d a b => some (wordT 38 d a b 5#4)
  | .rxadd d a b => some (wordT 39 d a b 0#4)
  | .rxsub d a b => some (wordT 39 d a b 1#4)
  | .rxmul d a b => some (wordT 39 d a b 2#4)
  | .rxmac d a b => some (wordT 39 d a b 3#4)
  | .rxneg d a => some (wordT 39 d a 0#7 4#4)
  | .rxscl d a b => some (wordT 39 d a b 5#4)
  | .qpackQ4 d a b => some (wordT 40 d a b 0#4)
  | .qpackQ8 d a b => some (wordT 40 d a b 1#4)
  | .qpackQ12 d a => some (wordT 40 d a 0#7 2#4)
  | .qunpkQ4 d a s => some (wordT 40 d a s 3#4)
  | .qunpkQ8 d a s => some (wordT 40 d a s 4#4)
  | .qunpkQ12 d a => some (wordT 40 d a 0#7 5#4)
  | .scaleof d a s => some (wordT 40 d a s 6#4)
  | .rxfrom d a l => some (wordT 41 d a 0#7 l)
  | .rxto d a l => some (wordT 41 d a 1#7 l)
  | .f8pkE4m3 d a l => some (wordT 41 d a 2#7 l)
  | .f8pkE5m2 d a l => some (wordT 41 d a 3#7 l)
  | .f8upE4m3 d a l => some (wordT 41 d a 4#7 l)
  | .f8upE5m2 d a l => some (wordT 41 d a 5#7 l)
  | .shfl d a b => some (wordT 42 d a b 0#4)
  | .shflx d a b => some (wordT 42 d a b 1#4)
  | .shflr d a b => some (wordT 42 d a b 2#4)
  | .bcast d a b => some (wordT 42 d a b 3#4)
  | .rev d a s => some (wordT 42 d a s 4#4)
  | .vote d n k => some (wordT 43 d (0#5 ++ n) (0#3 ++ k) 0#4)
  | .redaddI64 d a => some (wordT 43 d a 0#7 1#4)
  | .redaddI32 d a => some (wordT 43 d a 0#7 2#4)
  | .redaddF64 d a => some (wordT 43 d a 0#7 3#4)
  | .redaddF32 d a => some (wordT 43 d a 0#7 4#4)
  | .redminI64 d a => some (wordT 43 d a 0#7 5#4)
  | .redminF64 d a => some (wordT 43 d a 0#7 6#4)
  | .redminF32 d a => some (wordT 43 d a 0#7 7#4)
  | .redmaxI64 d a => some (wordT 43 d a 0#7 8#4)
  | .redmaxF64 d a => some (wordT 43 d a 0#7 9#4)
  | .redmaxF32 d a => some (wordT 43 d a 0#7 10#4)
  | .scanaddI64 d a => some (wordT 43 d a 0#7 11#4)
  | .scanaddI32 d a => some (wordT 43 d a 0#7 12#4)
  | .scanaddF64 d a => some (wordT 43 d a 0#7 13#4)
  | .scanaddF32 d a => some (wordT 43 d a 0#7 14#4)
  | .exp2 t d a l => some (wordT (11#5 ++ t) d a 0#7 l)
  | .log2 t d a l => some (wordT (11#5 ++ t) d a 1#7 l)
  | .rcp t d a l => some (wordT (11#5 ++ t) d a 2#7 l)
  | .rsq t d a l => some (wordT (11#5 ++ t) d a 3#7 l)
  | .sqrt t d a l => some (wordT (11#5 ++ t) d a 4#7 l)
  | .sin t d a l => some (wordT (11#5 ++ t) d a 5#7 l)
  | .cos t d a l => some (wordT (11#5 ++ t) d a 6#7 l)
  | .tanh t d a l => some (wordT (11#5 ++ t) d a 7#7 l)
  | .sigm t d a l => some (wordT (11#5 ++ t) d a 8#7 l)
  | .gelu t d a l => some (wordT (11#5 ++ t) d a 9#7 l)
  | .silu t d a l => some (wordT (11#5 ++ t) d a 10#7 l)
  | .erf t d a l => some (wordT (11#5 ++ t) d a 11#7 l)
  | .ldg w d a o l => some (wordT (12#5 ++ w) d a o l)
  | .ldv d a o l => some (wordT 52 d a o l)
  | .stgI8 d a o => some (wordT 53 d a o 0#4)
  | .stgI16 d a o => some (wordT 54 d a o 0#4)
  | .stgI32 d a o => some (wordT 55 d a o 0#4)
  | .stgI64 d a o => some (wordT 56 d a o 0#4)
  | .stv d a o => some (wordT 57 d a o 0#4)
  | .lda d a o l => some (wordT 58 d a o l)
  | .stl d a o => some (wordT 59 d a o 0#4)
  | .atomAdd w d a b => some (wordT (30#6 ++ w) d a b 0#4)
  | .atomSub w d a b => some (wordT (30#6 ++ w) d a b 1#4)
  | .atomAnd w d a b => some (wordT (30#6 ++ w) d a b 2#4)
  | .atomOr w d a b => some (wordT (30#6 ++ w) d a b 3#4)
  | .atomXor w d a b => some (wordT (30#6 ++ w) d a b 4#4)
  | .atomMin w d a b => some (wordT (30#6 ++ w) d a b 5#4)
  | .atomMax w d a b => some (wordT (30#6 ++ w) d a b 6#4)
  | .atomMinu w d a b => some (wordT (30#6 ++ w) d a b 7#4)
  | .atomMaxu w d a b => some (wordT (30#6 ++ w) d a b 8#4)
  | .atomXchg w d a b => some (wordT (30#6 ++ w) d a b 9#4)
  | .atomCas w d a b => some (wordT (30#6 ++ w) d a b 10#4)
  | .fenceAcq => some (wordT 62 0#7 0#7 0#7 0#4)
  | .fenceRel => some (wordT 62 0#7 0#7 0#7 1#4)
  | .fenceAr => some (wordT 62 0#7 0#7 0#7 2#4)
  | .fenceEng => some (wordT 62 0#7 0#7 0#7 3#4)
  | .fenceDev => some (wordT 62 0#7 0#7 0#7 4#4)
  | .pref x a b => some (wordT 63 (0#6 ++ x) a b 0#4)
  | .discard a b => some (wordT 63 0#7 a b 1#4)
  | .wback a b => some (wordT 63 0#7 a b 2#4)
  | .zero a b => some (wordT 63 0#7 a b 3#4)
  | .bind i => some (wordI 64 0#7 0#7 i)
  | .ladd d a b => some (wordT 65 d a b 0#4)
  | .ladc d a s => some (wordT 65 d a s 1#4)
  | .lsub d a b => some (wordT 65 d a b 2#4)
  | .lsbc d a s => some (wordT 65 d a s 3#4)
  | .lneg d a => some (wordT 65 d a 0#7 4#4)
  | .lcmp n a b => some (wordT 65 (0#5 ++ n) a b 5#4)
  | .lshl d a b => some (wordT 65 d a b 6#4)
  | .lshr d a b => some (wordT 65 d a b 7#4)
  | .lsar d a b => some (wordT 65 d a b 8#4)
  | .labs d a => some (wordT 65 d a 0#7 9#4)
  | .lmuls d a b => some (wordT 66 d a b 0#4)
  | .lmacs d a b => some (wordT 66 d a b 1#4)
  | .lmull d a b => some (wordT 66 d a b 2#4)
  | .lmulh d a b => some (wordT 66 d a b 3#4)
  | .laccf32 d a => some (wordT 67 d a 0#7 0#4)
  | .ltof32 d a s => some (wordT 67 d a s 1#4)
  | .ltof64 d a s => some (wordT 67 d a s 2#4)
  | .lfromxa d a b => some (wordT 67 d a b 3#4)
  | .ltoxa d a s => some (wordT 67 d a s 4#4)
  | .lfromi64 d a => some (wordT 67 d a 0#7 5#4)
  | .cpy d a b => some (wordT 68 d a b 0#4)
  | .cbatch d => some (wordT 69 d 0#7 0#7 0#4)
  | .cwait a => some (wordT 69 0#7 a 0#7 1#4)
  | .cstat d => some (wordT 69 d 0#7 0#7 2#4)
  | .hwait a => some (wordT 70 0#7 a 0#7 0#4)
  | .hrel a => some (wordT 70 0#7 a 0#7 1#4)
  | .hqry d a => some (wordT 70 d a 0#7 2#4)
  | .astore d a b => some (wordT 71 d a b 0#4)
  | .mma c r y x z q a b m k => some (wordT 72 (0#1 ++ c ++ r ++ y ++ x ++ z ++ q) a b (m ++ k))
  | .mxcfg a => some (wordT 73 0#7 a 0#7 0#4)
  | .mxzero q => some (wordT 73 (0#6 ++ q) 0#7 0#7 1#4)
  | .mxdrain d a => some (wordT 73 d a 0#7 2#4)
  | .mxwait d s => some (wordT 73 d 0#7 s 3#4)
  | .mxfence => some (wordT 73 0#7 0#7 0#7 4#4)
  | .tfetch d a => some (wordT 74 d a 0#7 0#4)
  | .tunpin a => some (wordT 74 0#7 a 0#7 1#4)
  | .barb n b => some (wordT 76 (0#5 ++ n) 0#7 b 0#4)
  | .aredI64 x k n a b => some (wordT 76 (0#2 ++ x ++ k ++ n) a b 1#4)
  | .aredMin x k n a b => some (wordT 76 (0#2 ++ x ++ k ++ n) a b 2#4)
  | .aredMax x k n a b => some (wordT 76 (0#2 ++ x ++ k ++ n) a b 3#4)
  | .aredXa x n a b => some (wordT 76 (0#2 ++ x ++ 0#2 ++ n) a b 4#4)
  | .arwait d n => some (wordT 76 d (0#5 ++ n) 0#7 5#4)
  | .barx n b => some (wordT 76 (0#5 ++ n) 0#7 b 6#4)
  | .pcommit a => some (wordT 77 0#7 a 0#7 0#4)
  | .pcancel a => some (wordT 77 0#7 a 0#7 1#4)
  | .prepeat a => some (wordT 77 0#7 a 0#7 2#4)
  | .keyset a b => some (wordT 78 0#7 a b 0#4)
  | .tvbump d a b => some (wordT 78 d a b 1#4)
  | .cseal d a => some (wordT 78 d a 0#7 2#4)
  | .cunseal d a => some (wordT 78 d a 0#7 3#4)
  | .strip d a b => some (wordT 78 d a b 4#4)
  | .mancut d => some (wordT 78 d 0#7 0#7 5#4)
  | .hashb d a b => some (wordT 78 d a b 6#4)
  | .sign d a b => some (wordT 78 d a b 7#4)
  | .mfsys d a => some (wordT 79 d a 0#7 0#4)
  | .mtsys a b => some (wordT 79 0#7 a b 1#4)
  | .tlbinv a b => some (wordT 79 0#7 a b 2#4)
  | .ctxkill a => some (wordT 79 0#7 a 0#7 3#4)
  | .powerGood | .deriveIdentityKey .. | .verifyFirmwareSlot .. | .verifyConfigBlock ..
  | .trainAndRepair .. | .startFirmwareCores .. | .buildBerths .. | .sensorSample ..
  | .firmwareUpdate .. | .sendWindow .. | .fwdoorWrite .. | .registerWrite ..
  | .storeRegistration .. | .registrationAck .. | .homeRead .. | .dataArrival ..
  | .atomicAtHome .. | .hostPostedWrite .. | .hostRead .. | .peerAccess ..
  | .peerAck .. | .linkDown .. | .slotPop .. | .swapThresholdExpiry .. | .swapOut ..
  | .swapRetest .. | .gangRetire .. | .teamRetire .. | .gridEndFlush .. | .completionSignal ..
  | .quantumExpiry .. | .preempt .. | .aging .. | .recordDue .. | .lineFillArrival ..
  | .writeBackRegistered .. | .lazyWriteBack .. | .lineDrowsy .. | .drowsyWake ..
  | .bankRefresh .. | .bankRefreshEnd .. | .bankGate .. | .ctxflushWrite .. | .ctxflushDone ..
  | .icacheFill .. | .verifyCompare .. | .bartoTimeout .. | .wfeTimeout .. | .waitParkTimeout ..
  | .heartbeatTimeout | .sfuAccept .. | .walkerGrant .. | .walkComplete ..
  | .lathInstanceComplete .. | .copyAccept .. | .copyStart .. | .copyComplete ..
  | .tfetchAccept .. | .tileFull .. | .mmaAccept .. | .mmaStart .. | .segmentEnd ..
  | .mmaComplete .. | .mxzeroDone .. | .drainEntryPush .. | .drainComplete ..
  | .sequencerExitDone .. | .watchTimeout .. | .notifyWrite .. | .cancelWrite ..
  | .deadlineCancel .. | .packetTake .. | .heapStart .. | .sliceEnd .. | .quiesce ..
  | .quiesceComplete .. | .quiesceTimeout .. | .exportBerth .. | .importBerth .. | .resume ..
  | .abandon .. | .waymaskWrite .. | .waymaskLineTake .. | .berthResourceWrite ..
  | .berthctlWrite .. | .partitionReset .. | .skimLine .. | .ttw1Write .. | .rewrapLine ..
  | .msctlWrite .. | .mskeyWrite .. | .streamRecordSend .. | .streamRecordReceive ..
  | .counterRead .. | .getVersion .. | .getCapabilities .. | .negotiateAlgorithms ..
  | .getDigests .. | .getCertificate .. | .challenge .. | .getMeasurements ..
  | .keyExchange .. | .finish .. | .endSession .. | .getTdispVersion .. | .getTdispCapabilities ..
  | .lockInterfaceRequest .. | .getDeviceInterfaceReport .. | .getDeviceInterfaceState ..
  | .startInterfaceRequest .. | .stopInterfaceRequest .. | .domainTreeMessage ..
  | .stackRequestRefusal .. | .encodingFault .. | .extEmulate .. => none

/-- The instruction that the decoder reads from a word whose bits are w; every word of the machine has
32 bits (R51). -/
noncomputable def decodeTableWord (nbits w : Nat) : Option Instr :=
  if nbits ≤ 32 then
    match decode (BitVec.ofNat 32 w) with
    | .ok i => some i
    | .error _ => none
  else none

end Sys2Proof
end

