-- ==== Sys2Proof/Machine/State.lean ====
section
/-!
DEFINITION. The state of the whole part as plain data: every agent that executes words (gangs, tile
sequencers, launch engines, firmware cores), the cores and clusters they run on, memory and its
homes, the scheduler's records, teams and grids, the lath, the front end, berths, the seal engine
and the lock-keeper. State.reset is the part before power-good, every register at the value the
Reset column of its map gives.
-/

namespace Sys2Proof.Machine

/-! ### Stops -/

/-- Why a step ends the run with no next state. -/
inductive Fault where
  /-- Raised by step when a thermal trip has stopped the clocks (R27): nothing of the device runs
  again, and the manual gives no way back. Safe: the hardware does not go on either. -/
  | thermalTrip
  deriving DecidableEq, Repr

/-- Why the model gives no meaning. -/
inductive Refusal where
  /-- Raised by exec for a row whose meaning has not been written. Safe: the model stops. -/
  | notModelled (mnemonic : String)
  deriving DecidableEq, Repr

/-! ### Agents that execute words -/

/-- Which majors an agent may execute (R69): a gang of a core, a tile sequencer, a launch engine, or
a firmware core. The last three are scalar-profile agents. -/
inductive Profile where
  | full
  | tile
  | launch
  | firmware
  deriving DecidableEq, Repr

/-- What an agent waits for. -/
inductive Wait where
  /-- a register that an earlier long-latency unit or atomic still has to write (R67, R164, R265) -/
  | operand
  /-- register lines that are not resident (R142, R143) -/
  | lines
  /-- the word at this address is not in the instruction cache (R163) -/
  | ifetch (va : Word)
  /-- the walk of a page (R256, R260) -/
  | walk (vpn : Nat)
  /-- a queue that is empty (pop) or full (push) (R186) -/
  | queue (team q : Nat) (push : Bool)
  /-- earlier loads and stores, before a release takes effect (R121) -/
  | release
  /-- engine operations, and for FENCE.DEV stores at host and peers too (R122) -/
  | engines
  /-- team barrier instance of this generation (R183) -/
  | barrier (gen : BitVec 32)
  /-- the same with a timeout in ns on the TIME scale, and the scalar it answers in (R184) -/
  | barto (gen : BitVec 32) (until_ : Nat) (sd : Nat)
  /-- the event bit (R178) -/
  | event
  /-- a copy batch (R311) -/
  | batch (n : BitVec 32)
  /-- a buffer-table entry to leave filling, or filling and draining (R314) -/
  | handle (cluster idx : Nat)
  /-- a lath channel's previous instance to be fully taken (R289) -/
  | lathOpen (ch : Nat)
  /-- a lath instance to complete (R293, R294) -/
  | lathDone (ch : Nat)
  /-- joins in gang form (R359) -/
  | joins
  /-- a watched word (R359), or the 2 µs timer when no watch was free -/
  | addr (pa : Nat) (watch : Bool)
  /-- a gang named by JOIN to park on joins (R358) -/
  | joinOf (g : Nat)
  /-- acceptance of a CPY or ASTORE (R305) -/
  | accept
  /-- acceptance of a tile fetch or of a matrix operation, or an earlier one's completion (R328, R337) -/
  | matrix
  /-- results of SFU or XCONV requests, and the flags of earlier units (R91, R240) -/
  | results
  /-- the doorbell of a firmware core (R177) -/
  | doorbell
  /-- the pilot core's service (R182, R180) -/
  | service
  deriving DecidableEq, Repr

/-- Where an agent stands (R38). -/
inductive Run where
  /-- holds its slot, and its next unit may issue -/
  | active
  /-- holds its slot, waiting at issue since this aclk -/
  | holding (w : Wait) (since : Nat)
  /-- its record is ready in a level queue -/
  | ready
  /-- out of its slot, waiting since this aclk -/
  | parked (w : Wait) (since : Nat)
  /-- XM is full: waits to retire (R43) -/
  | leaving
  /-- a tile sequencer that executed EXIT and drains its operations (R321) -/
  | closing
  /-- not running: a launch engine or sequencer between runs, a firmware core before bring-up or
  after a halt, a retired gang -/
  | off
  deriving DecidableEq, Repr

/-- A live or saved guard span (R60, R138: GLIVE, GCOND, GCC, GREM). -/
structure Guard where
  live : Bool
  cond : BitVec 4
  cc : BitVec 2
  rem : BitVec 3
  deriving DecidableEq, Repr

/-- Where a long-latency unit writes (R139): an absolute slot, a scalar, or a queue port with the
binding byte and core index in force at issue. -/
inductive LookDest where
  | slot (i : Nat)
  | scalar (n : Nat)
  | port (n : Nat) (kb : BitVec 8) (core : BitVec 2)
  deriving DecidableEq, Repr

/-- How far a long-latency unit has come: saved at a park and not yet issued again (R147), issued and not
yet accepted (SFU, R242), outstanding, its data read at the home and on its way, or held (R139, R67). -/
inductive LookPhase where
  | saved
  | issued
  | outstanding
  | returning
  | held
  deriving DecidableEq, Repr

/-- A lookahead descriptor with its held value (R139): the unit's word, its destination, the lanes
active at issue, the units left in its window, the request (effective addresses, or the source
operand), the lanes whose data has been read, and the result with its word poison and flags. -/
structure Look where
  word : IWord
  dest : LookDest
  lanes : Mask
  lrem : BitVec 4
  phase : LookPhase
  req : Lanes
  got : Mask
  /-- where each lane's access of a load is performed, once translated: lane, physical address, key
  slot and tensor slot -/
  homes : List (Nat × Nat × BitVec 9 × BitVec 12)
  val : Lanes
  poison : Mask
  flg : BitVec 5
  /-- false while the window it belongs to is suspended by a trap continuation (R68, R180) -/
  live : Bool
  /-- place in the order of the agent's loads and stores (R124) -/
  ord : Nat
  /-- binding in force at the unit's issue, as LS gives it (R270) -/
  ls : BitVec 8
  /-- the homes that have answered, each with the place of its answer in the order of answers (R20) -/
  back : List (Nat × Nat) := []
  deriving DecidableEq, Repr

/-- State of a register line held in the ULS (R142); an absent line is not listed. Refresh is a state
of the bank (Core.refreshing). -/
inductive LineState where
  | filling
  | resident
  | drowsy
  deriving DecidableEq, Repr

/-- A register line in the ULS: line number n of the context (R136), whether it is dirty, whether a
write-back of it is on its way with no write since the snapshot (R148), its 32 words and their word
poison (R105). -/
structure RegLine where
  n : Nat
  st : LineState
  dirty : Bool
  inFlight : Bool
  data : Lanes
  poison : Mask
  /-- aclk of the last access, for the order of victims (R149) -/
  used : Nat
  /-- its write-back met a context fault that the pilot has not served yet (R152) -/
  stuck : Bool
  deriving DecidableEq, Repr

/-- One lane of an atomic on its way to its home (R123, R249): where it is performed, its operand and
its comparand. -/
structure AtomLane where
  lane : Nat
  pa : Nat
  key : BitVec 9
  t : BitVec 12
  operand : Word
  comparand : Word
  deriving DecidableEq, Repr

/-- An atomic unit issued and not yet performed: operation, width code (0 i32, 1 i64), destination
register with its window resolved at issue, whether the old value goes to a scalar, and its lanes. -/
structure AtomReq where
  op : BitVec 4
  w : BitVec 1
  dest : LookDest
  lanes : List AtomLane
  /-- old values and word poison of the lanes performed -/
  done : List (Nat × Word × Bool)
  /-- place in the order of the agent's loads and stores (R124) -/
  ord : Nat
  /-- binding in force at the unit's issue, as LS gives it (R270) -/
  ls : BitVec 8
  deriving DecidableEq, Repr

/-- The tracking block of a gang (R311, R312): the open set, the closed batches not yet complete, and
the RC status bits. -/
structure Tracking where
  openSet : List Nat
  batches : List (BitVec 32 × List Nat)
  skipMask : BitVec 4
  link : Bool
  err : Bool
  skip : Bool
  deriving DecidableEq, Repr

/-- The state of one agent that executes words: a gang with its context (R30, R58, R137, R138), or a
scalar-profile agent (R188). Fields that a profile does not have stay at their reset values. -/
structure Agent where
  /-- 0 to 15 pilot core of VF id, 16 the harbourmaster, 17 the standby; 32 + b launch engine of
  berth b; 64 + c tile sequencer of cluster c; from 1024 on the gangs, in order of creation -/
  id : Nat
  prof : Profile
  run : Run
  /-- address of the unit's first word -/
  pc : Word
  /-- prefix words of the unit being assembled, in address order (R52, R164) -/
  pfx : List IWord
  em : Mask
  xm : Mask
  wb : BitVec 10
  cb : Word
  nslots : BitVec 11
  ls : BitVec 8
  fpc : BitVec 32
  gid : Word
  tid : Word
  tcoord : Word
  stage : BitVec 16
  pri : BitVec 5
  cause : BitVec 8
  tval : Word
  epc : Word
  trapvec : Word
  batch : BitVec 32
  kbind : Word
  kcore : BitVec 16
  /-- core 0 to 255 of the device: CLUSTER is its quotient by 4 and CORE its remainder -/
  core : BitVec 8
  berth : BitVec 4
  sreg : Vector Word 24
  spois : BitVec 24
  cc : Vector CcWord 32
  guard : Guard
  repi : BitVec 6
  /-- guard span and REP iteration saved at trap entry (R180) -/
  savedGuard : Guard
  savedRepi : BitVec 6
  trapc : Bool
  evt : Bool
  step : Bool
  /-- a firmware core's trap-mode bit (R189) -/
  trapMode : Bool
  looks : List Look
  /-- the request of the special-function unit at issue, when a trap is enabled (R240) -/
  check : Option Look
  atom : Option AtomReq
  lines : List RegLine
  /-- lines that the unit at issue waits for, which no victim search takes (R149) -/
  need : List Nat
  /-- write-backs of lines under way, oldest first: line, data and poison of the snapshot (R148) -/
  wbacks : List (Nat × Lanes × Mask)
  /-- its header lines hold its registers, to be read at activation (R145) -/
  fresh : Bool
  /-- the background fills of its activation, and the clearing of the hot map after them, are still due (R145) -/
  cold : Bool := false
  written : BitVec 1024
  hot : BitVec 1024
  pin : BitVec 1024
  regionFirst : BitVec 10
  regionCount : BitVec 7
  trk : Tracking
  /-- team and grid the gang belongs to; for a tile sequencer, member 0's team -/
  team : Nat
  grid : Nat
  /-- id of its continuation record -/
  record : Nat
  /-- the level its record re-enters at (R348) -/
  base : BitVec 5
  /-- the level at the trap that is being handled (R181), and at the join that took it to level 16 (R348) -/
  held : BitVec 5
  joined : Option (BitVec 5) := none
  /-- it has been activated, and counts in its team's barriers and retirement (R357) -/
  counted : Bool := true
  /-- activation stamp (R150), aclk of activation (R349), protection in its first quantum (R353) -/
  stamp : Nat
  since : Nat
  prot : Bool
  /-- walks that failed for the unit at issue: page, cause and the address it gives (R254) -/
  xfail : List (Nat × BitVec 8 × Word)
  /-- first peer store that was never registered and not yet reported (R262) -/
  lost : Option Word
  /-- scalars written while the context lies saved in its header lines, for its next activation -/
  late : List (Nat × Word)
  /-- a trap that a unit the gang parked in raises at its next activation: cause and TVAL (R298) -/
  dues : Option (BitVec 8 × Word)
  /-- launch engine: repeat count r, units executed in this run, packet it works for (R375) -/
  rerun : BitVec 16
  units : BitVec 13
  packet : Nat
  deriving DecidableEq, Repr

/-! ### Memory -/

/-- The key and tweak under which a line of a channel is encrypted (R411, R412): the key slot's K1 to
K3 (none for an empty slot), tensor slot, segment and version. -/
inductive SealId where
  | under (keys : Option (BitVec 1024)) (t : BitVec 12) (g : BitVec 4) (v : BitVec 32)
  deriving DecidableEq, Repr

/-- Physical memory as its homes see it (R16, R17): bytes by 48-bit physical address, strictly
rising, none equal to what an unlisted address reads as; and the indices of the 8-byte units that
carry a poison mark (R105, R106), strictly rising. -/
structure Mem where
  cells : List Host.Cell
  marks : List Nat
  deriving DecidableEq, Repr

/-- A line of 64 bytes held in an L2 slice (R116, R409): line number (PA / 64), the KeyID slot, tensor
slot and segment of the access that brought it, its way, whether it is dirty, and, for a dirty line,
the plaintext, marks and seal that its channel still holds. -/
structure L2Line where
  line : Nat
  key : BitVec 9
  t : BitVec 12
  way : Nat
  dirty : Bool
  chan : List Byte
  chanMarks : List Nat
  chanSeal : Option SealId
  deriving DecidableEq, Repr

/-- What an entry of the list of stores does at its home: a store to one unit of 8 bytes, or a MEMOP on
n bytes of one page, which counts as a store (R251). -/
inductive PendOp where
  | store
  | zero (n : Nat)
  | discard (n : Nat)
  | wback (n : Nat)
  deriving DecidableEq, Repr

/-- A store on its way to its home (R118): the storing agent and core, its physical address, the bytes
stored (byte enables in bit order) and their values, poison, the KeyID and tensor slot of the page, and
whether the home has taken it and its acknowledgement is under way. -/
structure Pending where
  op : PendOp
  agent : Nat
  core : Nat
  va : Word
  pa : Nat
  be : BitVec 8
  val : Word
  poison : Bool
  key : BitVec 9
  t : BitVec 12
  registered : Bool
  /-- berth, class and grid of the storing agent -/
  berth : BitVec 4
  cls : Nat
  grid : Nat
  /-- place in the order of the agent's loads and stores (R124) -/
  ord : Nat
  /-- place of its acknowledgement in the order of answers, once it is registered (R20) -/
  ack : Nat := 0
  deriving DecidableEq, Repr

/-- A line of 64 bytes in a core's L1 (R117): line number (PA / 64), the KeyID it was brought under
(R409), the valid and owned bits of its 16 words, the poison marks of its eight 8-byte units (R105,
R106), and the words. -/
structure L1Line where
  line : Nat
  key : BitVec 9
  valid : BitVec 16
  owned : BitVec 16
  marks : BitVec 8
  data : Vector (BitVec 32) 16
  deriving DecidableEq, Repr

/-- The level a translation is cached at (R256), or the unit that it was brought for. -/
inductive TlbLevel where
  | core (c : Nat)
  | cluster (c : Nat)
  | die (d : Nat)
  /-- what a walk has brought for the unit at issue of an agent without a TLB (log 93) -/
  | unit (g : Nat)
  deriving DecidableEq, Repr

/-- Which stage-1 tree a virtual address is walked under (R253, R382, R383, R439): the PASID entry of a
grid's VF or queue interface, or a root given by FWXLATE, or none (MODE 1, stage 2 alone). -/
inductive Stage1 where
  | vf (v : BitVec 4) (pasid : BitVec 20)
  | qi (i : BitVec 3) (pasid : BitVec 20)
  | root (r : BitVec 48)
  | none
  deriving DecidableEq, Repr

/-- A cached translation of one 64 KiB page (R256). -/
structure Tlb where
  level : TlbLevel
  berth : BitVec 4
  ctx : Stage1
  vpn : Nat
  pfn : Nat
  key : BitVec 9
  t : BitVec 12
  r : Bool
  w : Bool
  x : Bool
  deriving DecidableEq, Repr

/-- A page walk waiting for a walker or under way (R257): the agent whose unit waits (or the context
fill it serves), its berth and tree, the page, the die, whether it has a walker, and the berth that
lent it. -/
structure Walk where
  agent : Nat
  berth : BitVec 4
  ctx : Stage1
  vpn : Nat
  die : Nat
  granted : Bool
  lender : Option (BitVec 4)
  deriving DecidableEq, Repr

/-- A 64-byte line of an instruction cache (R163): the tree and berth it was fetched under, the
virtual line address (address / 64), its bytes, and whether its error persisted. -/
structure ILine where
  berth : BitVec 4
  ctx : Stage1
  line : Nat
  bytes : List Byte
  bad : Bool
  /-- key slot of the page it came from (R414) -/
  key : BitVec 9
  deriving DecidableEq, Repr

/-! ### Cores and clusters -/

/-- What belongs to one core beside its gangs (R15): instruction cache, L1, banks being refreshed or
gated (R144), CTXFLUSH (R161), and the activation-stamp counter (R150). -/
structure Core where
  icache : List ILine
  /-- its L1, the line brought in last first (R117) -/
  l1 : List L1Line
  refreshing : BitVec 32
  gated : BitVec 32
  flushCb : BitVec 48
  flushBusy : Bool
  flushDrop : Bool
  stamps : Nat
  /-- aclk of the last access to each bank that has had one (R144) -/
  banks : List (Nat × Nat) := []
  deriving DecidableEq, Repr

/-- The aperture of a locked range (R310): global under a stage-1 context, or a team's scratchpad on a
core. -/
inductive LockSpace where
  | global (berth : BitVec 4) (ctx : Stage1)
  | scratch (core : BitVec 8)
  deriving DecidableEq, Repr

/-- An entry of the range-lock table (R310): destination or source, the inclusive range, and the
operation, tile entry or lath channel it belongs to. -/
structure RangeLock where
  dst : Bool
  space : LockSpace
  lo : Nat
  hi : Nat
  owner : Nat
  deriving DecidableEq, Repr

/-- State of a buffer-table entry (R313). -/
inductive EntryState where
  | free
  | filling
  | full
  | draining
  deriving DecidableEq, Repr

/-- What took a buffer-table entry (R327). -/
inductive EntryKind where
  | copy
  | tile
  | drain
  deriving DecidableEq, Repr

/-- A tile as its descriptor gives it (R325). -/
structure Tile where
  base : Nat
  mstride : Nat
  kstride : Nat
  ksel : BitVec 2
  lines256 : Bool
  fmt : BitVec 3
  deriving DecidableEq, Repr

/-- An entry of a cluster's buffer table (R313, R327). -/
structure Entry where
  idx : Nat
  /-- the operation that took it, which also owns its range lock -/
  op : Nat
  st : EntryState
  gen : BitVec 16
  kind : EntryKind
  lo : Nat
  hi : Nat
  skip : BitVec 4
  err : Bool
  grid : Nat
  tile : Option Tile
  /-- lines pinned in L2 (R328) -/
  pins : List Nat
  /-- to be freed when its consumer finishes (R327) -/
  dying : Bool
  /-- for a tile or drain, the quad whose sequencer took it: member 0's team (R321) -/
  quad : Nat
  deriving DecidableEq, Repr

/-- A copy-engine operation (R301 to R316). mode 4 stands for ASTORE. -/
structure CopyOp where
  id : Nat
  agent : Nat
  team : Nat
  mode : Nat
  cmd : Word
  ext : Word
  src : Word
  dst : Word
  core : BitVec 8
  berth : BitVec 4
  ctx : Stage1
  started : Bool
  entry : Option Nat
  skip : BitVec 4
  err : Bool
  link : Bool
  /-- teams whose scratchpad the operation writes or reads (R39, R309) -/
  teams : List Nat
  /-- teams whose scratchpad a multicast writes, decided at its start (R309) -/
  dests : List Nat
  /-- translations of the pages of its ranges: page, frame address, key slot and tensor slot (R304) -/
  pages : List (Nat × Nat × BitVec 9 × BitVec 12)
  /-- bytes of the destination done so far -/
  pos : Nat
  /-- place in the order of the agent's loads and stores (R132) -/
  ord : Nat
  deriving DecidableEq, Repr

/-- An operand of an accepted MMA: its buffer-table entry, 64·cluster + number, the operation that took
the entry, its tile, and whether the entry is freed at completion (R326, R329). -/
structure MxOperand where
  entry : Nat
  op : Nat
  tile : Tile
  drop : Bool
  deriving DecidableEq, Repr

/-- What a matrix operation does (R324). A drain goes to a port, with its binding byte and core index in
force at issue, or to memory at an address, with its buffer-table entry and its translated pages. -/
inductive MxKind where
  | mma (z ro co : Bool) (shape : BitVec 4) (a b : MxOperand)
  | zero
  | drain (ctl : Word) (port : Option (BitVec 8 × BitVec 2)) (addr : Word) (entry : Option Nat)
      (pages : List (Nat × Nat × BitVec 9 × BitVec 12))
  deriving DecidableEq, Repr

/-- An accepted operation of a matrix engine, with its progress: the first element of the next segment,
or the next entry to deliver (R323). -/
structure MxOp where
  id : Nat
  acc : BitVec 1
  kind : MxKind
  /-- MXCONF.FMT in force at its issue (R337) -/
  fmt : BitVec 2
  grid : Nat
  started : Bool
  progress : Nat
  deriving DecidableEq, Repr

/-- The matrix engine of a cluster (R324): non-zero cells of both accumulators at
65536·acc + 256·i + j, the poisoned cells, MXCONF, the accepted operations in order, MXSTAT's RC
fields, and the array columns taken over by spares, one that failed
again once more (R334). -/
structure Matrix where
  cells : List (Nat × BitVec 128)
  poison : List Nat
  conf : BitVec 2
  ops : List MxOp
  rpl : BitVec 16
  qcl : Bool
  spr : Bool
  pdr : Bool
  spared : List (BitVec 8)
  /-- the quad that holds the engine and its sequencer: member 0's team -/
  quad : Option Nat
  deriving DecidableEq, Repr

/-- What the four cores of a cluster share (R15). -/
structure Cluster where
  locks : List RangeLock
  table : List Entry
  copies : List CopyOp
  mx : Matrix
  /-- core that the SFU port grants next (R242) -/
  sfuNext : BitVec 2
  /-- times a spare cluster of the die has taken this index over (R192, R406) -/
  replaced : Nat
  deriving DecidableEq, Repr

/-! ### Work -/

/-- A continuation record (R45) with what the scheduler keeps beside it (R345 to R353, R356). -/
structure Record where
  id : Nat
  kind : BitVec 8
  lvl : BitVec 8
  join : BitVec 32
  stg : BitVec 16
  frame : Word
  code : Word
  wake : Word
  berth : BitVec 4
  grid : Nat
  team : Nat
  agent : Nat
  queued : Bool
  seq : Nat
  since : Nat
  due : Option Nat
  /-- index in the grid's array with its generation, and the join count at creation with the tile
  (R356, R358, R363) -/
  index : Nat
  gen : BitVec 16
  joins : BitVec 32
  tile : BitVec 32
  live : Bool
  /-- of a service record: the code that reached the pilot, and what its rule gives with it (R182) -/
  cause : BitVec 8
  sub : Word
  /-- it is eligible on its core, and what R349 does when it becomes so has been decided -/
  seen : Bool := false
  /-- what its entry of the array holds in memory (R45) -/
  stored : List Byte := []
  deriving DecidableEq, Repr

/-- A team (R30, R31, R41): its place in its grid, its scratchpad, frame, barrier state, gangs, and
placement; whether it has signalled its successor, is swapped out, and its distributor cursor. -/
structure Team where
  id : Nat
  grid : Nat
  t : BitVec 32
  stage : BitVec 16
  /-- core it is placed on -/
  placed : Option (BitVec 8)
  lastCore : BitVec 8
  scratch : Mem
  frame : Nat
  gen : BitVec 32
  arrived : List Nat
  /-- arrivals at the quad's instance, in the lowest-indexed member (R183) -/
  qarrived : List Nat
  gangs : List Nat
  count : BitVec 8
  signalled : Bool
  swapped : Bool
  /-- aclk of the first arrival of the open barrier instance (R39), and of a blocked swap-out test -/
  waitSince : Option Nat
  /-- the same of the quad's instance, in the lowest-indexed member (R39, R183) -/
  qwaitSince : Option Nat
  swapWanted : Bool
  /-- a test of R364 blocked the swap-out; waitSince is then the aclk of that test -/
  blocked : Bool
  ended : Bool
  cursor : Option Nat
  /-- the matrix frame of a quad, in its lowest-indexed member: number in the pool, and the suspended
  engine and sequencer (R323) -/
  mxFrame : Option Nat
  suspended : Option (Matrix × Agent)
  /-- the quad's stream has been started: only the first placement starts it (R319) -/
  streamed : Bool
  /-- pages of its saved scratchpad image, of 4 KiB, and of its matrix frame, of 64 KiB, that memory did not take
  (R18) -/
  unsaved : List Nat := []
  mxUnsaved : List Nat := []
  deriving DecidableEq, Repr

/-- A packet taken from a queue (R368), with its admission (R373), its prologue runs (R376) and its
end (R377). The kernel descriptor's fields are those of R370. -/
structure Packet where
  id : Nat
  owner : QOwner
  nidx : BitVec 10
  berth : BitVec 4
  words : Vector Word 8
  desc : List Word
  admitted : Bool
  best : Bool
  order : Nat
  /-- 0 in the heap (a fence: waiting for earlier packets), 1 in its prologue or waiting for a re-run, 2 committed and waiting for room, 3 grid running, 4 ended and
  waiting for its signal, 5 done -/
  phase : Nat
  dims : Word
  repeats : Bool
  lim : Bool
  state : BitVec 8
  code : BitVec 8
  sub : BitVec 8
  detail1 : Word
  detail2 : Word
  lath : List Nat
  grid : Nat
  launchNo : Nat
  /-- the launch preamble's two words, and the repeat count of the current or last prologue run -/
  pre0 : Word
  pre1 : Word
  rep : BitVec 16
  /-- first address that a write of its grids could not reach (R44, R378) -/
  lost : Option Word
  deriving DecidableEq, Repr

/-- A grid (R30, R34): its packet, descriptor fields, pool of contexts, grid area, and the spawn-area
generations. -/
structure Grid where
  id : Nat
  packet : Nat
  berth : BitVec 4
  vf : BitVec 4
  ctx : Stage1
  dims : Word
  stages : Nat
  gangsPer : Nat
  nslots : BitVec 11
  scratch : Nat
  quad : Bool
  persist : Bool
  entry : Word
  trapent : Word
  emuent : Word
  tileent : Word
  args : Word
  level : BitVec 8
  ceil : BitVec 8
  deadline : Word
  launchNo : Nat
  /-- GID of its gangs and sequencers, fixed at its launch (R58, R397) -/
  gid : Word := 0
  /-- clusters as the grid's handles name them and as they are here, where a migration has moved the grid (R399) -/
  xmap : List (Nat × Nat) := []
  poolBase : Word
  poolCount : Nat
  usedCtx : List Nat
  area : Nat
  areaSize : Nat
  frames : Nat
  spawnSize : Nat
  spawnGens : List (Nat × BitVec 16)
  mfBase : Word
  mfCount : Nat
  tiles : Nat
  kper : Nat
  fixent : Word
  fbase : Word
  fsize : Nat
  lath : List Nat
  /-- teams not yet retired -/
  left : Nat
  flushed : Bool
  killed : Bool
  lostAddr : Option Word
  deriving DecidableEq, Repr

/-- A queue and its descriptor (R366, R367, R381). -/
structure Queue where
  owner : QOwner
  nidx : BitVec 10
  berth : BitVec 4
  header : BitVec 48
  log2n : BitVec 5
  pw : Bool
  mapped : Bool
  rptr : Word
  wptr : Word
  vector : BitVec 11
  poolBase : Word
  poolSize : Word
  poolUsed : List (Nat × Nat)
  tslot : BitVec 12
  key : BitVec 9
  deriving DecidableEq, Repr

/-- The work of a berth that an export area for another device carries (R395, R399). -/
structure Moving where
  packets : List Packet
  grids : List Grid
  teams : List Team
  records : List Record
  agents : List Agent
  deriving DecidableEq, Repr, Inhabited

/-! ### Lath, berths, seal engine, lock-keeper -/

/-- The form of a lath instance (R288). -/
structure LathForm where
  red : Bool
  op : BitVec 4
  k : Nat
  dx : Bool
  p : BitVec 24
  w : Bool
  addr : Option Word
  deriving DecidableEq, Repr

/-- The instance a channel runs (R287, R289): its form, without a result address while only other devices have
arrived; arrivals, the combined value positions, and values from other devices not yet combined; whether it is
complete and how often its result was taken; the gangs that arrived and have not taken; the units of
8 bytes at a global result address, by physical address, key slot and tensor slot; and the teams a
scratchpad result goes to. -/
structure LathInst where
  form : LathForm
  arrived : Nat
  vals : List Word
  away : List (List Word)
  complete : Bool
  taken : Nat
  agents : List Nat
  units : List (Nat × BitVec 9 × BitVec 12)
  teams : List Nat
  deriving DecidableEq, Repr

/-- An arrival that waits for the successor of an instance (R289): the gang, its form, values, the place of its
result, and the range to be locked for that, with its cluster (R292). -/
structure LathHeld where
  agent : Nat
  form : LathForm
  vals : List Word
  units : List (Nat × BitVec 9 × BitVec 12)
  team : Option Nat
  lock : Option (Nat × RangeLock)
  deriving DecidableEq, Repr

/-- A barrier instance that was aborted and that participants have still to hear of (R298): its form, the gangs that
have heard or that trap when they run, the arrivals left, and the DID of the device that failed. -/
structure LathBroken where
  form : LathForm
  told : List Nat
  left : Nat
  did : BitVec 6
  deriving DecidableEq, Repr

/-- A lath channel, numbered 4·b + c (R286, LATHCFG), with the arrivals that wait for its next instance, the gangs
whose waiting arrival has been counted while their unit has not gone on, each with GEN of then (R289), the gangs
whose reduction was aborted, each with the DID of the device that failed, and its aborted barrier (R298). -/
structure Channel where
  ch : Nat
  en : Bool
  dx : Bool
  did : BitVec 6
  dgrp : BitVec 8
  gen : BitVec 24
  packet : Nat
  inst : Option LathInst
  held : List LathHeld
  counted : List (Nat × BitVec 24)
  aborted : List (Nat × BitVec 6)
  broken : Option LathBroken
  deriving DecidableEq, Repr

/-- What a berth holds beside its registers (R387, R388): STATE and GEN of BERTHCTL, the sequence and
launch counters (R345), the order of admission, the end of a QUIESCE under way in aclk, the export
that stands, a cancellation recorded while quiesced (R400), and the VF slot that runs (R384). -/
structure Berth where
  b : BitVec 4
  state : BitVec 3
  gen : BitVec 32
  seqs : Nat
  launches : Nat
  admits : Nat
  quiesceEnd : Option Nat
  exported : Option (BitVec 32)
  cancels : List (Nat × BitVec 8)
  slot : BitVec 2
  sliceEnd : Nat
  allowance : Nat
  /-- place of the queue that is served next (R367) -/
  turn : Nat
  /-- aclk at which STATE left 1 (R394) -/
  stopped : Nat
  deriving DecidableEq, Repr

/-- A key slot (R413): K1 to K4, K1 in the most significant 256 bits, and its segment. -/
structure KeySlot where
  slot : BitVec 9
  keys : BitVec 1024
  seg : BitVec 4
  deriving DecidableEq, Repr

/-- A tensor entry (R415). -/
structure Tensor where
  seg : BitVec 4
  index : BitVec 12
  base : BitVec 32
  size : BitVec 32
  ver : BitVec 32
  v : Bool
  shut : Bool
  kslot : BitVec 9
  deriving DecidableEq, Repr

/-- State of a VF's TDI (R390, R426, R428): TDISP state, SPDM session, and the last answer. -/
inductive Tdi where
  | unlocked
  | locked
  | run
  | error
  deriving DecidableEq, Repr

/-- What an SPDM session uses (R426). -/
inductive SpdmAlg where
  | sha384
  | ed25519
  | secp384r1
  | aes256Gcm
  deriving DecidableEq, Repr

/-- What a VF's pilot answers over SPDM and TDISP (R390, R426, R427). -/
inductive Answer where
  | version
  | capabilities
  | algorithms (xs : List SpdmAlg)
  | digests (d0 d1 : List Byte)
  | certificate (slot : Bool) (c : List Byte)
  | auth (ed opaqueMl : List Byte)
  | exchange (share ed opaqueMl : List Byte)
  | measurements (m : List (List Byte)) (ed opaqueMl : List Byte)
  | finished
  | ended
  | tdispVersion
  | tdispCapabilities
  | report (berth : BitVec 4) (clusters quads : Word) (conf verify : Bool) (keys : Nat) (gen : BitVec 32)
  | tdiState (t : Tdi)
  | started
  | stopped
  | refused
  deriving DecidableEq, Repr

/-- A VF: its TDI, its SPDM session (0 none, 1 version, 2 capabilities, 3 algorithms, 4 key exchange
done, 5 session), the nonce count of TDISP, and its answers, newest first. secret is what the key exchange of the session
agreed (R426), under whose AES-256-GCM keys the answers of a session travel; tenant is the tenant key that the lock of its
TDI fixed (R428). -/
structure Vf where
  vf : BitVec 4
  tdi : Tdi
  session : Nat
  answers : List Answer
  refusals : Nat
  refused : Word
  secret : List Byte := []
  tenant : List Byte := []
  deriving DecidableEq, Repr

/-- What a queue interface holds beside its tables (R382): REFUSED, the count of refusals, and the count
of dropped messages. -/
structure Qi where
  i : BitVec 3
  refusals : Nat
  refused : Word
  dropped : Nat
  deriving DecidableEq, Repr

/-- An interrupt message of a queue: through a remapping entry with its address and data (R382), or a
VF's with its vector (R367). -/
inductive Irq where
  | remapped (addr : Word) (data : BitVec 32)
  | vector (v : BitVec 4) (n : BitVec 11)
  deriving DecidableEq, Repr

/-- The migration stream of a VF (R429, R430). -/
structure Stream where
  vf : BitVec 4
  en : Bool
  recv : Bool
  stop : Bool
  stream : BitVec 32
  cnt : Word
  key : List Byte
  pend : Option (List Byte)
  sent : List (List Byte)
  /-- the secret T of a migration whose checks have passed (R428) -/
  secret : Option (List Byte)
  deriving DecidableEq, Repr

/-- A watch on a word (R359): physical word address, waiting gang, the aclk it ends. -/
structure Watch where
  pa : Nat
  agent : Nat
  deriving DecidableEq, Repr

/-- A record of the lock-keeper's log, or a message to a pilot or host that is logged with it (R25,
R385): a cause or event code with what it concerns, and the SHA-384 hash of the record before it. -/
structure Event where
  code : BitVec 8
  who : Nat
  arg : Word
  prev : List Byte
  deriving DecidableEq, Repr

/-- A request of the host or of a peer that reaches this device: a posted write or a read of a PCIe requester
(R130), a peer's access (R131), or a write to a notify page of WPTR or, with c, of a SEQ to cancel (R366, R380). -/
inductive Outside where
  | write (req : BitVec 16) (relaxed : Bool) (pa : Nat) (data : List Byte)
  | read (req : BitVec 16) (pa n : Nat)
  | peer (dev : BitVec 6) (pa : Nat) (r : PeerReq)
  | page (r : Requester) (o : QOwner) (n : BitVec 10) (c : Bool) (v : Word)
  deriving DecidableEq, Repr

/-- The part. -/
structure State where
  /-- the agent whose turn it is; every other agent is in agents -/
  cur : Agent
  agents : List Agent
  /-- the model's own: words that cur may still issue before the part's own events and the other agents
  have their turn -/
  quota : Nat
  /-- steps that the outside world or the device has brought about and that come before the next
  word of cur -/
  agenda : List Instr
  /-- aclk since device reset (R58: CLK), and whether power is good (R28) -/
  clk : Nat
  power : Bool
  /-- last bring-up step that succeeded, and recovery mode (R28, R29) -/
  bootStep : Nat
  recovery : Bool
  /-- no berths come up: the configuration block failed (R28) -/
  noBerths : Bool
  /-- active firmware slot, B when true, and the slots whose image has both signatures (R25) -/
  slotB : Bool
  /-- images delivered to slot A and to slot B (R25) -/
  images : Nat × Nat
  config : ConfigBlock
  /-- HBM stacks and UALink ports left disabled (R28), ports down (R298), UCIe modules left disabled (R14, R28), and
  clusters that failed at bring-up with no spare left (R28) -/
  deadStacks : BitVec 8
  deadPorts : BitVec 8
  deadHost : BitVec 2
  deadClusters : BitVec 64
  /-- UALink ports whose link encryption and authentication is enabled (R410) -/
  securePorts : BitVec 8
  /-- issue duty of each die in sixteenths, samples since all conditions cleared (R27) -/
  duty0 : Nat
  duty1 : Nat
  clearRun : Nat
  /-- stacks whose channels refuse requests in the window under way, and those at or above 100 °C -/
  refusing : BitVec 8
  hotStacks : BitVec 8
  tripped : Bool
  sensors : Sensors
  /-- the harbourmaster's place: true once the standby has taken over (R385), and its heartbeat -/
  standby : Bool
  beat : Nat
  /-- device, cluster and core system registers that hold what was written, by R190 address; a
  register not listed holds its reset value -/
  sysregs : List (Nat × Word)
  mem : Mem
  l2 : List L2Line
  /-- the seal each channel line was last written under -/
  seals : List (Nat × SealId)
  /-- channel quads whose lines that no write has reached fail their tags (R431) -/
  stripped : BitVec 64
  /-- rewraps under way: the core that executes TVBUMP, segment, entry, and the lines not yet taken, in
  increasing intermediate address (R418) -/
  rewraps : List (Nat × BitVec 4 × BitVec 12 × List Nat)
  /-- strips under way: the core that executes STRIP, and the receipt but for its end TIME (R431) -/
  strips : List (Nat × List Byte)
  /-- owner core of each owned word, by word address (R117) -/
  owners : List (Nat × Nat)
  pend : List Pending
  tlb : List Tlb
  walks : List Walk
  cores : List (Nat × Core)
  clusters : List (Nat × Cluster)
  /-- private SRAM of each firmware core and the firmware image its fetch reads (R24, R439) -/
  sram : List (Nat × Mem)
  image : List (Nat × Mem)
  records : List Record
  teams : List Team
  grids : List Grid
  packets : List Packet
  queues : List Queue
  channels : List Channel
  berths : List Berth
  keys : List KeySlot
  tensors : List Tensor
  counters : List (Nat × Word)
  /-- the counter number in CSEL of each VF (R435) -/
  csel : List (Nat × BitVec 12)
  streams : List Stream
  vfs : List Vf
  qis : List Qi
  watches : List Watch
  /-- manifest counters by 4096·b + 64·w + 2·class + write, cuts made and time of the last, chain
  head, withheld reads with the first number, per berth (R432 to R435) -/
  mancount : List (Nat × Nat)
  mancut : List (Nat × (Nat × Nat × List Byte))
  withheld : List (Nat × (Nat × Nat))
  /-- the PASID tables of VFs (R383) and queue interfaces (R382), by 1024·i + pasid -/
  pasids : List (Nat × Word)
  qiPasids : List (Nat × Word)
  /-- queue interfaces' berths and interrupt remapping entries, by 2048·i + v (R382) -/
  qiBerth : List (Nat × BitVec 4)
  remap : List (Nat × (Bool × BitVec 20 × Word × BitVec 32))
  /-- codes sent to pilots and the lock-keeper, interrupts sent to the host, and bytes returned to host and peer reads, newest first -/
  events : List Event
  irqs : List Irq
  reads : List (List Byte)
  /-- peer writes that were registered and acknowledged: device and address (R131), and the units of host memory
  written by PCIe poisoned TLPs (R106), newest first -/
  peerAcks : List (BitVec 6 × Nat)
  tlps : List Nat
  /-- requests of the host and of peers that wait for a stack, in the order of arrival (R27, R130, R131) -/
  waiting : List Outside
  /-- next numbers for agents, records, teams, grids, packets and engine operations -/
  nextAgent : Nat
  nextRecord : Nat
  nextTeam : Nat
  nextGrid : Nat
  nextPacket : Nat
  nextOp : Nat
  /-- place of the next access in the order of loads and stores, and of the next answer of a home -/
  nextOrd : Nat
  /-- the model's own: the number of free values taken so far (Config) -/
  frees : Nat
  deriving DecidableEq, Repr

/-! ### Reset -/

/-- No guard span. -/
def Guard.none : Guard := ⟨false, 0, 0, 0⟩

/-- A fresh tracking block (R311). -/
def Tracking.init : Tracking := ⟨[], [], 0, false, false, false⟩

/-- An agent with every register at its reset value (R37, R58, R87, R375), not running. -/
def Agent.init (id : Nat) (prof : Profile) : Agent where
  id := id
  prof := prof
  run := .off
  pc := 0
  pfx := []
  em := 0xFFFFFFFF
  xm := 0
  wb := 0
  cb := 0
  nslots := 96
  ls := 0
  fpc := 0
  gid := 0
  tid := 0
  tcoord := 0
  stage := 0
  pri := 0
  cause := 0
  tval := 0
  epc := 0
  trapvec := 0
  batch := 0
  kbind := 0
  kcore := 0
  core := 0
  berth := 0
  sreg := Vector.replicate 24 0
  spois := 0
  cc := Vector.replicate 32 0
  guard := Guard.none
  repi := 0
  savedGuard := Guard.none
  savedRepi := 0
  trapc := false
  evt := false
  step := false
  trapMode := false
  looks := []
  check := none
  atom := none
  lines := []
  need := []
  wbacks := []
  fresh := false
  written := 0
  hot := 0
  pin := 0
  regionFirst := 0
  regionCount := 0
  trk := Tracking.init
  team := 0
  grid := 0
  record := 0
  base := 0
  held := 0
  stamp := 0
  since := 0
  prot := false
  xfail := []
  lost := none
  late := []
  dues := none
  rerun := 0
  units := 0
  packet := 0

/-- Empty memory: nothing listed, no marks. -/
def Mem.empty : Mem := ⟨[], []⟩

/-- A core at reset. -/
def Core.init : Core := ⟨[], [], 0, 0, 0, false, false, 0, []⟩

/-- A matrix engine at reset (R319, R324): cells zero, poison clear, MXCONF 0. -/
def Matrix.init : Matrix := ⟨[], [], 0, [], 0, false, false, false, [], none⟩

/-- A cluster at reset: no locks, every buffer-table entry free. -/
def Cluster.init : Cluster := ⟨[], [], [], Matrix.init, 0, 0⟩

/-- A berth at reset (R388): empty, GEN 0. -/
def Berth.init (b : BitVec 4) : Berth := ⟨b, 0, 0, 0, 0, 0, none, none, [], 0, 0, 0, 0, 0⟩

/-- A lath channel at reset (R286). -/
def Channel.init (ch : Nat) : Channel := ⟨ch, false, false, 0, 0, 0, 0, none, [], [], [], none⟩

/-- A migration stream at reset (R429). -/
def Stream.init (v : BitVec 4) : Stream := ⟨v, false, false, false, 0, 0, [], none, [], none⟩

/-- A VF before anything was asked of it. -/
def Vf.init (v : BitVec 4) : Vf := ⟨v, .unlocked, 0, [], 0, 0, [], []⟩

/-- The part before power-good: every agent off, memory with nothing listed, every register at its
reset value. The harbourmaster (agent 16) has the turn; the other firmware cores are listed, and
launch engines, sequencers and gangs come into being when work starts them. -/
def State.reset : State where
  cur := Agent.init 16 .firmware
  agents := (List.range 16).map (fun n => Agent.init n .firmware) ++ [Agent.init 17 .firmware]
  quota := 0
  agenda := []
  clk := 0
  power := false
  bootStep := 0
  recovery := false
  noBerths := false
  slotB := false
  images := (0, 0)
  config := ⟨0, []⟩
  deadStacks := 0
  deadPorts := 0
  deadHost := 0
  deadClusters := 0
  securePorts := 0
  duty0 := 16
  duty1 := 16
  clearRun := 0
  refusing := 0
  hotStacks := 0
  tripped := false
  sensors := ⟨[], [], 0, 0, 0⟩
  standby := false
  beat := 0
  sysregs := []
  mem := Mem.empty
  l2 := []
  seals := []
  stripped := 0
  rewraps := []
  strips := []
  owners := []
  pend := []
  tlb := []
  walks := []
  cores := []
  clusters := []
  sram := []
  image := []
  records := []
  teams := []
  grids := []
  packets := []
  queues := []
  channels := []
  berths := []
  keys := []
  tensors := []
  counters := []
  csel := []
  streams := []
  vfs := []
  qis := []
  watches := []
  mancount := []
  mancut := []
  withheld := []
  pasids := []
  qiPasids := []
  qiBerth := []
  remap := []
  events := []
  irqs := []
  reads := []
  peerAcks := []
  tlps := []
  waiting := []
  nextAgent := 1024
  nextRecord := 1
  nextTeam := 1
  nextGrid := 1
  nextPacket := 1
  nextOp := 1
  nextOrd := 1
  frees := 0

end Sys2Proof.Machine
end

