-- ==== Sys2Proof/Config.lean ====
section
/-!
DEFINITION. What an implementation fixes and the manual leaves open: each is a constant without a
body, so no proof can see its value. A value taken afresh is Config's function applied to the
counter State.frees.
-/

namespace Sys2Proof.Config

/-- A 64-bit value the manual does not state, such as TVAL of a cause whose chapter gives none
(log 2). -/
opaque freeWord : Nat → Word

/-- A bit the manual does not state (log 2). -/
opaque freeBit : Nat → Bool

/-- Which of the two f32 values around the exact value the SFU gives (R236): true takes the one of
larger magnitude. By function, operand and FTZ (log 2). -/
opaque sfuUp : Nat → BitVec 32 → Bool → Bool

/-- The private keys of a signer: the Ed25519 key and the seed of the ML-DSA-65 key (log 2). The device identity signs as
(0, 0), and the attestation key of a firmware image as the image: slot A is 1 and B is 2, and the number of images
delivered to it. -/
opaque signingKeys : Nat × Nat → List Byte × List Byte

/-- The random bytes of an ML-DSA-65 signature of a message (log 2). -/
opaque signRandom : Nat × Nat → List Byte → List Byte

/-- The certificate chain of slot 0 or 1 that ends in a signer's public key (log 2). -/
opaque certificates : Bool → Nat × Nat → List Byte → List Byte

/-- The device's secret and public keys and identifiers by number (log 2). -/
opaque deviceSecret : Nat → List Byte

/-- The lock-keeper's boot ROM, and the image of a firmware slot, numbered as its signer is (log 2). -/
opaque bootRom : List Byte
opaque firmware : Nat × Nat → List Byte

/-- The bytes of the signed configuration block, and of a device interface report with some fields (log 2). -/
opaque configBytes : Sys2Proof.ConfigBlock → List Byte
opaque reportBytes : List Nat → List Byte

/-- The secret of a secp384r1 exchange, by a fresh number (log 2). -/
opaque ephemeral : Nat → Nat

/-- The secrets of a migration's key agreement, by a fresh number: the X25519 scalar and the two seeds of the ML-KEM-768
key (log 2). -/
opaque agreement : Nat → List Byte × List Byte × List Byte

/-- The UALink port through which a peer device is reached; the manual gives no routing (log 2). -/
opaque peerPort : Nat → Nat

/-- The pilot's work block of a berth, that the service records of its pilot name (R45); the manual gives it no
address (log 76). -/
opaque workBlock : Nat → Word

/-! The blocks of an export area whose layout the manual does not give (R395, log 40): what an implementation writes there,
and what it reads back. -/

/-- The 16 KiB of heap and admitted-packet entries. -/
opaque heapBlock : Machine.Moving → List Byte

/-- The 4 KiB of level-queue heads, cached records and cursors, with the sequence, launch and admission counters. -/
opaque levelBlock : Machine.Moving → Nat × Nat × Nat → List Byte

/-- The 576 bytes of a cluster: its buffer-table entries, range locks and tile pins. -/
opaque clusterBlock : Machine.Cluster → List Byte

/-- The work that the first two blocks carry. The numbers that the model gives packets, grids, teams, records and agents
are no part of an area: they are counted from those given. -/
opaque moving : List Nat → List Byte → List Byte → Machine.Moving

/-- The sequence, launch and admission counters of the second block. -/
opaque counters : List Byte → Nat × Nat × Nat

/-- The entries and locks of a cluster's block, counted as in moving. -/
opaque clusterWork : List Nat → List Byte → List Machine.Entry × List Machine.RangeLock

end Sys2Proof.Config
end

