-- ==== Sys2Proof/Machine/Bits.lean ====
section
/-!
DEFINITION. Bits of words: the helpers bits, sext and zext (R111), packed sub-elements (R83), bytes
in little-endian order (R3), lanes and masks (R30), and sorted association lists.
-/

namespace Sys2Proof.Machine

/-- Bits [hi:lo] of x as an unsigned number (R111). -/
def bits (x : Word) (hi lo : Nat) : Nat := x.toNat >>> lo % 2 ^ (hi + 1 - lo)

/-- The low w bits of x read as a two's complement number (R83). -/
def signedOf (w x : Nat) : Int :=
  let y := x % 2 ^ w
  if y < 2 ^ (w - 1) then (y : Int) else (y : Int) - (2 ^ w : Nat)

/-- A number modulo 2^w as its w bits (R83). -/
def wrap (w : Nat) (x : Int) : Nat := (x % (2 ^ w : Nat)).toNat

/-- The low w bits of x, sign-extended to 64 (R111). -/
def sext (w : Nat) (x : Word) : Word := BitVec.ofInt 64 (signedOf w x.toNat)

/-- The low w bits of x, zero-extended to 64 (R111). -/
def zext (w : Nat) (x : Word) : Word := BitVec.ofNat 64 (x.toNat % 2 ^ w)

/-- Sub-element j of width w (R83). -/
def el (w : Nat) (x : Word) (j : Nat) : Nat := x.toNat >>> (w * j) % 2 ^ w

/-- The lane value whose sub-element j of width w is f j, over all 64/w of them (R83). -/
def packEls (w : Nat) (f : Nat → Nat) : Word :=
  BitVec.ofNat 64 ((List.range (64 / w)).foldl (fun acc j => acc + f j % 2 ^ w * 2 ^ (w * j)) 0)

/-- A number made of elements of width w, element 0 least significant (R3). -/
def joinEls (w : Nat) : List Nat → Nat
  | [] => 0
  | x :: xs => x % 2 ^ w + 2 ^ w * joinEls w xs

/-- The n elements of width w of a number, element 0 first (R3). -/
def splitEls (w n x : Nat) : List Nat := (List.range n).map fun j => x >>> (w * j) % 2 ^ w

/-- The n bytes of a number, lowest first (R3). -/
def toBytes (n x : Nat) : List Byte := (splitEls 8 n x).map (BitVec.ofNat 8)

/-- The number whose bytes are given, lowest first (R3). -/
def ofBytes (bs : List Byte) : Nat := joinEls 8 (bs.map BitVec.toNat)

/-- x with bits [lo+w−1:lo] replaced by the low w bits of v. -/
def setBits (x : Word) (lo w : Nat) (v : Nat) : Word :=
  let m := (2 ^ w - 1) <<< lo
  BitVec.ofNat 64 (x.toNat - (x.toNat &&& m) + (v % 2 ^ w) <<< lo)

/-- The same value in every lane. -/
def splat (x : Word) : Lanes := Vector.replicate 32 x

/-- The lanes that f gives. -/
def lanesOf (f : Nat → Word) : Lanes := Vector.ofFn fun i : Fin 32 => f i.val

/-- Lane l. -/
def lane (v : Lanes) (l : Nat) : Word := v.getD l 0

/-- Lane l of a mask. -/
def has (m : Mask) (l : Nat) : Bool := m.getLsbD l

/-- The mask of the lanes that satisfy p. -/
def maskOf (p : Nat → Bool) : Mask :=
  BitVec.ofNat 32 ((List.range 32).foldl (fun acc l => if p l then acc + 2 ^ l else acc) 0)

/-- The lanes of a mask in increasing order. -/
def lanesIn (m : Mask) : List Nat := (List.range 32).filter (has m)

/-- The number of set bits. -/
def popcount (n x : Nat) : Nat := ((List.range n).filter x.testBit).length

/-- old outside the mask, new inside it. -/
def blend (m : Mask) (new old : Lanes) : Lanes :=
  lanesOf fun l => if has m l then lane new l else lane old l

/-- The entry of a key in an association list. -/
def find? {α : Type} (k : Nat) : List (Nat × α) → Option α
  | [] => none
  | (j, x) :: xs => if j = k then some x else find? k xs

/-- The entry of a key, or a default. -/
def findD {α : Type} (k : Nat) (d : α) (xs : List (Nat × α)) : α := (find? k xs).getD d

/-- The list with the key's entry set, in rising key order. -/
def put {α : Type} (k : Nat) (x : α) : List (Nat × α) → List (Nat × α)
  | [] => [(k, x)]
  | (j, y) :: xs => if k < j then (k, x) :: (j, y) :: xs
      else if j = k then (k, x) :: xs else (j, y) :: put k x xs

/-- The list without the key. -/
def del {α : Type} (k : Nat) (xs : List (Nat × α)) : List (Nat × α) := xs.filter fun p => p.1 != k

/-- A rising list of numbers with k added. -/
def ins (k : Nat) : List Nat → List Nat
  | [] => [k]
  | j :: xs => if k < j then k :: j :: xs else if j = k then j :: xs else j :: ins k xs

/-- The list with every element that satisfies p changed by f. -/
def changeIf {α : Type} (p : α → Bool) (f : α → α) (xs : List α) : List α :=
  xs.map fun x => if p x then f x else x

/-- The first element that satisfies p changed by f. -/
def changeFirst {α : Type} (p : α → Bool) (f : α → α) : List α → List α
  | [] => []
  | x :: xs => if p x then f x :: xs else x :: changeFirst p f xs

/-- The list without its n-th element. -/
def dropAt {α : Type} : Nat → List α → List α
  | _, [] => []
  | 0, _ :: xs => xs
  | n + 1, x :: xs => x :: dropAt n xs

/-- The list with its n-th element changed. -/
def changeAt {α : Type} (f : α → α) : Nat → List α → List α
  | _, [] => []
  | 0, x :: xs => f x :: xs
  | n + 1, x :: xs => x :: changeAt f n xs

/-- Rounding up to a multiple. -/
def roundUp (x m : Nat) : Nat := (x + m - 1) / m * m

end Sys2Proof.Machine
end

