-- ==== Sys2Proof/Machine/Crypto.lean ====
section
/-!
DEFINITION. The algorithms that spec/18_seal_engine.md names: SHA-384 (FIPS 180-4), HMAC and HKDF over it
(RFC 5869), AES-256 (FIPS 197), CMAC (NIST SP 800-38B), the line cipher of R411 and R412, and AES-256-GCM (NIST SP
800-38D). Strings are lists of bytes.
-/

namespace Sys2Proof.Machine

/-! ### Bytes in the order of the standards, highest first -/

/-- The n bytes of a number, highest first. -/
def beBytes (n x : Nat) : List Byte := (toBytes n x).reverse

/-- The number whose bytes are given, highest first. -/
def beNat (bs : List Byte) : Nat := ofBytes bs.reverse

/-- A list cut into pieces of n. -/
def pieces {α : Type} (n : Nat) (xs : List α) : List (List α) :=
  (List.range ((xs.length + n - 1) / n)).map fun i => (xs.drop (n * i)).take n

/-- Bytes combined by exclusive or, as far as both go. -/
def xorBytes (xs ys : List Byte) : List Byte := (xs.zip ys).map fun p => p.1 ^^^ p.2

/-! ### SHA-384 -/

/-- The 80 round constants of SHA-512 and SHA-384. -/
def shaK : List Word :=
  [0x428A2F98D728AE22, 0x7137449123EF65CD, 0xB5C0FBCFEC4D3B2F, 0xE9B5DBA58189DBBC,
    0x3956C25BF348B538, 0x59F111F1B605D019, 0x923F82A4AF194F9B, 0xAB1C5ED5DA6D8118,
    0xD807AA98A3030242, 0x12835B0145706FBE, 0x243185BE4EE4B28C, 0x550C7DC3D5FFB4E2,
    0x72BE5D74F27B896F, 0x80DEB1FE3B1696B1, 0x9BDC06A725C71235, 0xC19BF174CF692694,
    0xE49B69C19EF14AD2, 0xEFBE4786384F25E3, 0x0FC19DC68B8CD5B5, 0x240CA1CC77AC9C65] ++
  [0x2DE92C6F592B0275, 0x4A7484AA6EA6E483, 0x5CB0A9DCBD41FBD4, 0x76F988DA831153B5,
    0x983E5152EE66DFAB, 0xA831C66D2DB43210, 0xB00327C898FB213F, 0xBF597FC7BEEF0EE4,
    0xC6E00BF33DA88FC2, 0xD5A79147930AA725, 0x06CA6351E003826F, 0x142929670A0E6E70,
    0x27B70A8546D22FFC, 0x2E1B21385C26C926, 0x4D2C6DFC5AC42AED, 0x53380D139D95B3DF,
    0x650A73548BAF63DE, 0x766A0ABB3C77B2A8, 0x81C2C92E47EDAEE6, 0x92722C851482353B] ++
  [0xA2BFE8A14CF10364, 0xA81A664BBC423001, 0xC24B8B70D0F89791, 0xC76C51A30654BE30,
    0xD192E819D6EF5218, 0xD69906245565A910, 0xF40E35855771202A, 0x106AA07032BBD1B8,
    0x19A4C116B8D2D0C8, 0x1E376C085141AB53, 0x2748774CDF8EEB99, 0x34B0BCB5E19B48A8,
    0x391C0CB3C5C95A63, 0x4ED8AA4AE3418ACB, 0x5B9CCA4F7763E373, 0x682E6FF3D6B2B8A3,
    0x748F82EE5DEFB2FC, 0x78A5636F43172F60, 0x84C87814A1F0AB72, 0x8CC702081A6439EC] ++
  [0x90BEFFFA23631E28, 0xA4506CEBDE82BDE9, 0xBEF9A3F7B2C67915, 0xC67178F2E372532B,
    0xCA273ECEEA26619C, 0xD186B8C721C0C207, 0xEADA7DD6CDE0EB1E, 0xF57D4F7FEE6ED178,
    0x06F067AA72176FBA, 0x0A637DC5A2C898A6, 0x113F9804BEF90DAE, 0x1B710B35131C471B,
    0x28DB77F523047D84, 0x32CAAB7B40C72493, 0x3C9EBE0A15C9BEBC, 0x431D67C49C100D4C,
    0x4CC5D4BECB3E42B6, 0x597F299CFC657E2A, 0x5FCB6FAB3AD6FAEC, 0x6C44198C4A475817]

/-- The initial hash value of SHA-384. -/
def shaInit : List Word :=
  [0xCBBB9D5DC1059ED8, 0x629A292A367CD507, 0x9159015A3070DD17, 0x152FECD8F70E5939,
    0x67332667FFC00B31, 0x8EB44A8768581511, 0xDB0C2E0D64F98FA7, 0x47B5481DBEFA4FA4]

/-- The message schedule: 16 words extended by n. -/
def shaSchedule : Nat → List Word → List Word
  | 0, w => w
  | n + 1, w =>
    let at_ := fun (k : Nat) => w.getD (w.length - k) 0
    let a := at_ 15
    let b := at_ 2
    let s0 := a.rotateRight 1 ^^^ a.rotateRight 8 ^^^ a >>> (7 : Nat)
    let s1 := b.rotateRight 19 ^^^ b.rotateRight 61 ^^^ b >>> (6 : Nat)
    shaSchedule n (w ++ [at_ 16 + s0 + at_ 7 + s1])

/-- One round on the eight working variables. -/
def shaRound (v : List Word) (kw : Word × Word) : List Word :=
  let a := v.getD 0 0
  let b := v.getD 1 0
  let c := v.getD 2 0
  let e := v.getD 4 0
  let f := v.getD 5 0
  let g := v.getD 6 0
  let t1 := v.getD 7 0 + (e.rotateRight 14 ^^^ e.rotateRight 18 ^^^ e.rotateRight 41) + (e &&& f ^^^ ~~~e &&& g) + kw.1 + kw.2
  let t2 := (a.rotateRight 28 ^^^ a.rotateRight 34 ^^^ a.rotateRight 39) + (a &&& b ^^^ a &&& c ^^^ b &&& c)
  [t1 + t2, a, b, c, v.getD 3 0 + t1, e, f, g]

/-- The hash value after one block of 128 bytes. -/
def shaBlock (h : List Word) (block : List Byte) : List Word :=
  let w := shaSchedule 64 ((pieces 8 block).map fun x => BitVec.ofNat 64 (beNat x))
  let v := (shaK.zip w).foldl shaRound h
  (h.zip v).map fun p => p.1 + p.2

/-- The hash value after whole blocks. -/
def shaBlocks (h : List Word) (bs : List Byte) : List Word := (pieces 128 bs).foldl shaBlock h

/-- The last bytes of a message of bits bits in all, padded to whole blocks. -/
def shaPad (rest : List Byte) (bits : Nat) : List Byte :=
  rest ++ [0x80] ++ List.replicate ((239 - rest.length % 128) % 128) 0 ++ beBytes 16 bits

/-- The bytes of a hash value. -/
def shaBytes (h : List Word) : List Byte := h.flatMap fun x => beBytes 8 x.toNat

/-- SHA-384 of a message. -/
def sha384 (m : List Byte) : List Byte := (shaBytes (shaBlocks shaInit (shaPad m (8 * m.length)))).take 48

/-! ### HMAC and HKDF -/

def hmac384 (key m : List Byte) : List Byte :=
  let k := if 128 < key.length then sha384 key else key
  let k := k ++ List.replicate (128 - k.length) 0
  sha384 (k.map (· ^^^ 0x5C) ++ sha384 (k.map (· ^^^ 0x36) ++ m))

/-- The blocks T(i) to T(i+n−1) of HKDF-Expand, after the block before. -/
def hkdfBlocks (prk info : List Byte) : Nat → Nat → List Byte → List Byte
  | 0, _, _ => []
  | n + 1, i, t =>
    let t' := hmac384 prk (t ++ info ++ [BitVec.ofNat 8 i])
    t' ++ hkdfBlocks prk info n (i + 1) t'

def hkdfExpand (prk info : List Byte) (len : Nat) : List Byte :=
  (hkdfBlocks prk info ((len + 47) / 48) 1 []).take len

/-- HKDF with a salt, and with an empty one. -/
def hkdfWith (salt ikm info : List Byte) (len : Nat) : List Byte := hkdfExpand (hmac384 salt ikm) info len
def hkdf (ikm info : List Byte) (len : Nat) : List Byte := hkdfWith (List.replicate 48 0) ikm info len

/-! ### AES-256 -/

/-- Multiplication by x in GF(2^8). -/
def xtime (b : Byte) : Byte := if b.getLsbD 7 then b <<< (1 : Nat) ^^^ 0x1B else b <<< (1 : Nat)

/-- Multiplication in GF(2^8), over the low n bits of the first factor. -/
def gmul : Nat → Byte → Byte → Byte
  | 0, _, _ => 0
  | n + 1, a, b => (if a.getLsbD 0 then b else 0) ^^^ gmul n (a >>> (1 : Nat)) (xtime b)

/-- The inverse in GF(2^8), with 0 for 0: the 254th power. -/
def ginv (a : Byte) : Byte :=
  let m := gmul 8
  let a2 := m a a
  let a3 := m a2 a
  let a6 := m a3 a3
  let a12 := m a6 a6
  let a15 := m a12 a3
  let a30 := m a15 a15
  let a60 := m a30 a30
  let a120 := m a60 a60
  let a126 := m a120 a6
  let a127 := m a126 a
  m a127 a127

/-- The S-box: the inverse and the affine map. -/
def sbox (a : Byte) : Byte :=
  let b := ginv a
  b ^^^ b.rotateLeft 1 ^^^ b.rotateLeft 2 ^^^ b.rotateLeft 3 ^^^ b.rotateLeft 4 ^^^ 0x63

/-- The S-box as a table. -/
def sboxes : List Byte := (List.range 256).map fun n => sbox (BitVec.ofNat 8 n)

def subByte (a : Byte) : Byte := sboxes.getD a.toNat 0

/-- The key schedule: n more words of 4 bytes. -/
def aesWords : Nat → Byte → List (List Byte) → List (List Byte)
  | 0, _, ws => ws
  | n + 1, rcon, ws =>
    let i := ws.length
    let t := ws.getD (i - 1) []
    let first := i % 8 = 0
    let t := if first then
        let r := (t.drop 1 ++ t.take 1).map subByte
        xorBytes r (rcon :: List.replicate 3 0)
      else if i % 8 = 4 then t.map subByte else t
    aesWords n (if first then xtime rcon else rcon) (ws ++ [xorBytes (ws.getD (i - 8) []) t])

/-- The 15 round keys of a 32-byte key. -/
def aesKeys (key : List Byte) : List (List Byte) := (pieces 4 (aesWords 52 1 (pieces 4 key))).map List.flatten

def shiftRows (s : List Byte) : List Byte := (List.range 16).map fun i => s.getD ((i + 4 * (i % 4)) % 16) 0

def mixColumn (c : List Byte) : List Byte :=
  let a := fun (i : Nat) => c.getD (i % 4) 0
  (List.range 4).map fun i => xtime (a i) ^^^ (xtime (a (i + 1)) ^^^ a (i + 1)) ^^^ a (i + 2) ^^^ a (i + 3)

/-- One block of 16 bytes encrypted under the round keys. -/
def aesBlock (ks : List (List Byte)) (b : List Byte) : List Byte :=
  let s := xorBytes b (ks.getD 0 [])
  let s := ((ks.drop 1).take 13).foldl (fun s k => xorBytes ((pieces 4 (shiftRows (s.map subByte))).flatMap mixColumn) k) s
  xorBytes (shiftRows (s.map subByte)) (ks.getD 14 [])

def unshiftRows (s : List Byte) : List Byte := (List.range 16).map fun i => s.getD ((i + 12 * (i % 4)) % 16) 0

def unmixColumn (c : List Byte) : List Byte :=
  let a := fun (i : Nat) => c.getD (i % 4) 0
  (List.range 4).map fun i => gmul 8 0x0E (a i) ^^^ gmul 8 0x0B (a (i + 1)) ^^^ gmul 8 0x0D (a (i + 2)) ^^^ gmul 8 0x09 (a (i + 3))

/-- The byte that the S-box sends to another. -/
def unsubByte (a : Byte) : Byte := BitVec.ofNat 8 ((sboxes.findIdx? (· == a)).getD 0)

/-- One block of 16 bytes decrypted under the round keys. -/
def aesUnblock (ks : List (List Byte)) (b : List Byte) : List Byte :=
  let s := (unshiftRows (xorBytes b (ks.getD 14 []))).map unsubByte
  let s := ((ks.drop 1).take 13).reverse.foldl (fun s k =>
    (unshiftRows ((pieces 4 (xorBytes s k)).flatMap unmixColumn)).map unsubByte) s
  xorBytes s (ks.getD 0 [])

/-! ### CMAC (NIST SP 800-38B) -/

/-- CMAC of a string of one or more whole blocks: 16 bytes. -/
def cmac (ks : List (List Byte)) (m : List Byte) : List Byte :=
  let l := BitVec.ofNat 128 (beNat (aesBlock ks (List.replicate 16 0)))
  let k1 := if l.msb then l <<< (1 : Nat) ^^^ 0x87 else l <<< (1 : Nat)
  let bs := pieces 16 m
  let last := xorBytes (bs.getD (bs.length - 1) []) (beBytes 16 k1.toNat)
  (bs.dropLast ++ [last]).foldl (fun c b => aesBlock ks (xorBytes c b)) (List.replicate 16 0)

/-! ### The line cipher (R411, R412) -/

/-- tw_j of line n, with its tensor slot, segment and version (R411), as a block in the byte order of R3 (log 14). -/
def lineTweak (n j t g v : Nat) : List Byte :=
  toBytes 16 (n % 2 ^ 42 + j * 2 ^ 42 + t * 2 ^ 44 + g * 2 ^ 56 + v * 2 ^ 64)

/-- K1, K2 and K3 of a key slot, 32 bytes each. -/
def slotKey (keys : BitVec 1024) (i : Nat) : List Byte := ((beBytes 128 keys.toNat).drop (32 * (i - 1))).take 32

/-- The four blocks of a line, each through f between its masks. -/
def lineBlocks (f : List (List Byte) → List Byte → List Byte) (keys : BitVec 1024) (tw : Nat → List Byte) (line : List Byte) : List Byte :=
  let k1 := aesKeys (slotKey keys 1)
  let k2 := aesKeys (slotKey keys 2)
  ((List.range 4).zip (pieces 16 line)).flatMap fun b =>
    let d := aesBlock k2 (tw b.1)
    xorBytes (f k1 (xorBytes b.2 d)) d

/-- C0 to C3 of a line, and its plaintext again (R411). -/
def lineSeal : BitVec 1024 → (Nat → List Byte) → List Byte → List Byte := lineBlocks aesBlock
def lineOpen : BitVec 1024 → (Nat → List Byte) → List Byte → List Byte := lineBlocks aesUnblock

/-- The tag in the sideband of a line (R412): the low 32 bits of the CMAC, its last four bytes. -/
def lineTag (keys : BitVec 1024) (tw0 ct : List Byte) : List Byte := (cmac (aesKeys (slotKey keys 3)) (ct ++ tw0)).drop 12

/-! ### GCM -/

/-- Multiplication in GF(2^128) with the bit order of GCM, over the highest n bits of x. -/
def ghashMul : Nat → BitVec 128 → BitVec 128 → BitVec 128 → BitVec 128
  | 0, _, _, z => z
  | n + 1, x, v, z =>
    let z := if x.msb then z ^^^ v else z
    let v := if v.getLsbD 0 then v >>> (1 : Nat) ^^^ 0xE1000000000000000000000000000000 else v >>> (1 : Nat)
    ghashMul n (x <<< (1 : Nat)) v z

/-- A string padded with zeros to whole blocks. -/
def pad16 (bs : List Byte) : List Byte := bs ++ List.replicate ((16 - bs.length % 16) % 16) 0

def ghash (h : BitVec 128) (bs : List Byte) : BitVec 128 :=
  (pieces 16 bs).foldl (fun y b => ghashMul 128 (y ^^^ BitVec.ofNat 128 (beNat b)) h 0) 0

/-- Counter mode from the block after iv ‖ 1. -/
def gcmCtr (ks : List (List Byte)) (iv bs : List Byte) : List Byte :=
  let ps := pieces 16 bs
  ((List.range ps.length).zip ps).flatMap fun p => xorBytes p.2 (aesBlock ks (iv ++ beBytes 4 (p.1 + 2)))

/-- The tag of a ciphertext. -/
def gcmTag (ks : List (List Byte)) (iv aad ct : List Byte) : List Byte :=
  let h := BitVec.ofNat 128 (beNat (aesBlock ks (List.replicate 16 0)))
  let y := ghash h (pad16 aad ++ pad16 ct ++ beBytes 8 (8 * aad.length) ++ beBytes 8 (8 * ct.length))
  xorBytes (beBytes 16 y.toNat) (aesBlock ks (iv ++ beBytes 4 1))

/-- AES-256-GCM: ciphertext and tag of a plaintext, with a 12-byte IV. -/
def gcmSeal (key iv aad pt : List Byte) : List Byte × List Byte :=
  let ks := aesKeys key
  let ct := gcmCtr ks iv pt
  (ct, gcmTag ks iv aad ct)

/-- The plaintext of a ciphertext, and whether its tag matches. -/
def gcmOpen (key iv aad ct tag : List Byte) : List Byte × Bool :=
  let ks := aesKeys key
  (gcmCtr ks iv ct, gcmTag ks iv aad ct == tag)

/-- The bytes of an info string. -/
def ascii (s : String) : List Byte := s.toList.map fun c => BitVec.ofNat 8 c.toNat

end Sys2Proof.Machine
end

