-- ==== Sys2Proof/Machine/Ops.lean ====
section
/-!
DEFINITION. Named operations over the state: memory bytes and poison marks, agents, cores and
clusters, the register lines of a context, ready records, events, taking a trap (R180, R182, R189)
and returning from it (R181).
-/

namespace Sys2Proof.Machine

/-! ### Memory (R3, R105, R106) -/

/-- What a byte that no write has reached reads as. The manual gives none (log 3). -/
def unlisted : Byte := 0

/-- The byte at an address. -/
def cellsGet : List Host.Cell → Nat → Byte
  | [], _ => unlisted
  | (j, x) :: cs, a => if j = a then x else if a < j then unlisted else cellsGet cs a

/-- The cells with one byte written, in canonical form. -/
def cellsSet : List Host.Cell → Nat → Byte → List Host.Cell
  | [], a, v => if v = unlisted then [] else [(a, v)]
  | (j, x) :: cs, a, v =>
    if a < j then (if v = unlisted then (j, x) :: cs else (a, v) :: (j, x) :: cs)
    else if j = a then (if v = unlisted then cs else (a, v) :: cs)
    else (j, x) :: cellsSet cs a v

/-- Addresses rise strictly from lo on, and no entry equals what an unlisted address reads as. -/
def cellsWf : Nat → List Host.Cell → Bool
  | _, [] => true
  | lo, (j, x) :: cs => decide (lo ≤ j) && x != unlisted && cellsWf (j + 1) cs

/-- Numbers rise strictly from lo on. -/
def rising : Nat → List Nat → Bool
  | _, [] => true
  | lo, j :: js => decide (lo ≤ j) && rising (j + 1) js

/-- The canonical form of a memory. -/
def Mem.wf (m : Mem) : Bool := cellsWf 0 m.cells && rising 0 m.marks

/-- The byte at an address. -/
def Mem.byte (m : Mem) (a : Nat) : Byte := cellsGet m.cells a

/-- One byte written; marks stay. -/
def Mem.setByte (m : Mem) (a : Nat) (v : Byte) : Mem := { m with cells := cellsSet m.cells a v }

/-- n bytes from a, as a little-endian number (R3). -/
def Mem.read (m : Mem) (a : Nat) : Nat → Nat
  | 0 => 0
  | n + 1 => (m.byte a).toNat + 256 * m.read (a + 1) n

/-- The low n bytes of v written at a; marks stay. -/
def Mem.write (m : Mem) (a : Nat) : Nat → Nat → Mem
  | 0, _ => m
  | n + 1, v => (m.setByte a (BitVec.ofNat 8 v)).write (a + 1) n (v / 256)

/-- A list of bytes written at a; marks stay. -/
def Mem.writeBytes (m : Mem) (a : Nat) : List Byte → Mem
  | [] => m
  | x :: xs => (m.setByte a x).writeBytes (a + 1) xs

/-- The n bytes from a. -/
def Mem.bytes (m : Mem) (a n : Nat) : List Byte := (List.range n).map fun i => m.byte (a + i)

/-- The 8-byte unit of an address carries a poison mark (R106). -/
def Mem.marked (m : Mem) (a : Nat) : Bool := m.marks.contains (a / 8)

/-- The mark of an address's unit set or cleared. -/
def Mem.mark (m : Mem) (a : Nat) (p : Bool) : Mem :=
  { m with marks := if p then ins (a / 8) m.marks else m.marks.filter (· != a / 8) }

/-- A store into one 8-byte unit at address u (a multiple of 8): the bytes of v whose enables are set
are written; poisoned data marks the unit, unmarked data that covers it clears the mark (R105). -/
def Mem.store (m : Mem) (u : Nat) (be : BitVec 8) (v : Word) (p : Bool) : Mem :=
  let m' := (List.range 8).foldl
    (fun acc i => if be.getLsbD i then acc.setByte (u + i) (BitVec.ofNat 8 (v.toNat >>> (8 * i))) else acc) m
  if p then m'.mark u true else if be = 0xFF then m'.mark u false else m'

/-- A whole unit read: its value and its mark. -/
def Mem.unit (m : Mem) (u : Nat) : Word × Bool := (BitVec.ofNat 64 (m.read u 8), m.marked u)

/-- Every byte of [lo, hi) zero, and the marks of the units wholly inside cleared (R251). -/
def Mem.zero (m : Mem) (lo hi : Nat) : Mem :=
  ⟨m.cells.filter fun c => c.1 < lo || hi ≤ c.1, m.marks.filter fun u => 8 * u < lo || hi < 8 * u + 8⟩

/-! ### Units of the part -/

/-- A core of the device. -/
def State.core (s : State) (n : Nat) : Core := findD n Core.init s.cores
def State.setCore (s : State) (n : Nat) (c : Core) : State := { s with cores := put n c s.cores }
def State.modCore (s : State) (n : Nat) (f : Core → Core) : State := s.setCore n (f (s.core n))

/-- A cluster of the device. -/
def State.cluster (s : State) (n : Nat) : Cluster := findD n Cluster.init s.clusters
def State.setCluster (s : State) (n : Nat) (c : Cluster) : State := { s with clusters := put n c s.clusters }
def State.modCluster (s : State) (n : Nat) (f : Cluster → Cluster) : State := s.setCluster n (f (s.cluster n))

/-- An agent by its number. -/
def State.agent (s : State) (g : Nat) : Option Agent :=
  if s.cur.id = g then some s.cur else s.agents.find? (·.id == g)

/-- An agent changed. -/
def State.modAgent (s : State) (g : Nat) (f : Agent → Agent) : State :=
  if s.cur.id = g then { s with cur := f s.cur }
  else { s with agents := changeFirst (·.id == g) f s.agents }

/-- Every agent, the one whose turn it is first. -/
def State.all (s : State) : List Agent := s.cur :: s.agents

/-- An agent that appears, or replaces the one of its number. -/
def State.setAgent (s : State) (a : Agent) : State :=
  if s.cur.id = a.id then { s with cur := a }
  else if s.agents.any (·.id == a.id) then { s with agents := changeFirst (·.id == a.id) (fun _ => a) s.agents }
  else { s with agents := s.agents ++ [a] }

/-- A team, grid, packet and record by number, and each changed. -/
def State.teamOf (s : State) (t : Nat) : Option Team := s.teams.find? (·.id == t)
def State.modTeam (s : State) (t : Nat) (f : Team → Team) : State :=
  { s with teams := changeFirst (·.id == t) f s.teams }
def State.gridOf (s : State) (g : Nat) : Option Grid := s.grids.find? (·.id == g)
def State.modGrid (s : State) (g : Nat) (f : Grid → Grid) : State :=
  { s with grids := changeFirst (·.id == g) f s.grids }
def State.packetOf (s : State) (p : Nat) : Option Packet := s.packets.find? (·.id == p)
def State.modPacket (s : State) (p : Nat) (f : Packet → Packet) : State :=
  { s with packets := changeFirst (·.id == p) f s.packets }
def State.recordOf (s : State) (r : Nat) : Option Record := s.records.find? (·.id == r)
def State.modRecord (s : State) (r : Nat) (f : Record → Record) : State :=
  { s with records := changeFirst (·.id == r) f s.records }

/-- A berth. -/
def State.berth (s : State) (b : BitVec 4) : Berth := (s.berths.find? (·.b == b)).getD (Berth.init b)
def State.modBerth (s : State) (b : BitVec 4) (f : Berth → Berth) : State :=
  if s.berths.any (·.b == b) then { s with berths := changeFirst (·.b == b) f s.berths }
  else { s with berths := s.berths ++ [f (Berth.init b)] }

/-- A lath channel. -/
def State.channel (s : State) (c : Nat) : Channel := (s.channels.find? (·.ch == c)).getD (Channel.init c)
def State.modChannel (s : State) (c : Nat) (f : Channel → Channel) : State :=
  if s.channels.any (·.ch == c) then { s with channels := changeFirst (·.ch == c) f s.channels }
  else { s with channels := s.channels ++ [f (Channel.init c)] }

/-- The stored value of a system register, or a given reset value (R190). -/
def State.sysreg (s : State) (n : Nat) (reset : Word) : Word := findD n reset s.sysregs
def State.setSysreg (s : State) (n : Nat) (v : Word) : State := { s with sysregs := put n v s.sysregs }

/-- The bytes of a log record (log 16). -/
def Event.bytes (e : Event) : List Byte := toBytes 8 e.code.toNat ++ toBytes 8 e.who ++ toBytes 8 e.arg.toNat ++ e.prev

/-- The SHA-384 hash of the newest record, zero before the first (R25, log 16). -/
def State.logHash (s : State) : List Byte := match s.events with
  | [] => List.replicate 48 0
  | e :: _ => sha384 e.bytes

/-- An event reported to a pilot core or the lock-keeper, in a log record with the hash of the record before it
(R25, R182). -/
def State.note (s : State) (code : BitVec 8) (who : Nat) (arg : Word) : State :=
  { s with events := ⟨code, who, arg, s.logHash⟩ :: s.events }

/-- The next free value of the model's own, and the state after taking it (log 2). -/
def State.takeFree (s : State) : Nat × State := (s.frees, { s with frees := s.frees + 1 })

/-- TIME in ns: one aclk of 700 MHz is 10/7 ns (R5, R58). -/
def State.time (s : State) : Nat := s.clk * 10 / 7

/-- The first aclk at which TIME is at least t ns (R5). -/
def clkOf (t : Nat) : Nat := (7 * t + 9) / 10

/-- Cluster of a core, and the die of a cluster (R15, R17). -/
def clusterOf (core : Nat) : Nat := core / 4
def dieOf (cluster : Nat) : Nat := cluster / 32

/-! ### Firmware memory (R24) -/

def State.sramOf (s : State) (n : Nat) : Mem := findD n Mem.empty s.sram
def State.imageOf (s : State) (n : Nat) : Mem := findD n Mem.empty s.image

/-! ### Register lines (R136, R140, R142) -/

/-- The line number of a vector slot (R136). -/
def lineOf (slot : Nat) : Nat := 16 + slot

/-- The bank that holds a line (R141). -/
def bankOf (a : Agent) (n : Nat) : Nat := (n + a.cb.toNat / 2 ^ 16) % 32

/-- The line as it is held, if it is. -/
def Agent.line (a : Agent) (n : Nat) : Option RegLine := a.lines.find? (·.n == n)

/-- The written-map bit of a slot (R140). -/
def Agent.isWritten (a : Agent) (slot : Nat) : Bool := a.written.getLsbD slot

/-- One bit of a slot map set or cleared. -/
def setBit {n : Nat} (m : BitVec n) (i : Nat) (v : Bool) : BitVec n :=
  if v then m ||| BitVec.ofNat n (2 ^ i) else m &&& ~~~(BitVec.ofNat n (2 ^ i))

/-- A line changed, or a new line listed. -/
def Agent.putLine (a : Agent) (l : RegLine) : Agent :=
  if a.lines.any (·.n == l.n) then { a with lines := changeFirst (·.n == l.n) (fun _ => l) a.lines }
  else { a with lines := a.lines ++ [l] }

/-- A line changed if it is listed. -/
def Agent.modLine (a : Agent) (n : Nat) (f : RegLine → RegLine) : Agent :=
  { a with lines := changeFirst (·.n == n) f a.lines }

/-- The line made absent (R142). -/
def Agent.dropLine (a : Agent) (n : Nat) : Agent := { a with lines := a.lines.filter (·.n != n) }

/-- A clean resident line of zeros. -/
def RegLine.zero (n : Nat) : RegLine := ⟨n, .resident, false, false, splat 0, 0, 0, false⟩

/-- The 32 lanes of a slot and their word poison; a slot never written reads zero (R140). -/
def Agent.slot (a : Agent) (i : Nat) : Lanes × Mask :=
  if a.isWritten i then
    match a.line (lineOf i) with
    | some l => (l.data, l.poison)
    | none => (splat 0, 0)
  else (splat 0, 0)

/-- A slot written in the lanes of a mask (R142): the line becomes dirty and resident, the written and
hot bits are set, and a write-back under way no longer leaves it clean. -/
def Agent.setSlot (a : Agent) (i : Nat) (m : Mask) (v : Lanes) (p : Mask) : Agent :=
  if m = 0 then a
  else
    let (old, op) := a.slot i
    let held := (a.line (lineOf i)).getD (RegLine.zero (lineOf i))
    let l : RegLine := { held with
      st := .resident, dirty := true, inFlight := false, data := blend m v old, poison := (op &&& ~~~m) ||| (p &&& m) }
    { a.putLine l with written := setBit a.written i true, hot := setBit a.hot i true }

/-- A line whose access must wait: filling or drowsy, or absent with its written bit set, or in a bank
under refresh (R142, R143). Header lines 0 to 7 count as written. -/
def lineWaits (s : State) (a : Agent) (n : Nat) : Bool :=
  let busy := a.prof == .full && (s.core a.core.toNat).refreshing.getLsbD (bankOf a n)
  busy || match a.line n with
    | some l => l.st != .resident
    | none => n < 16 || a.isWritten (n - 16)

/-- An access to a line of a gang: the last one of the line (R149) and of its bank (R144). -/
def State.useLine (s : State) (g n : Nat) : State :=
  match s.agent g with
  | none => s
  | some a => (s.modAgent g (·.modLine n fun l => { l with used := s.clk })).modCore a.core.toNat fun c =>
      { c with banks := put (bankOf a n) s.clk c.banks }

/-- The fill of an absent line that must be read started (R142). -/
def Agent.startFill (a : Agent) (n : Nat) : Agent :=
  match a.line n with
  | some _ => a
  | none =>
    if n < 16 || a.isWritten (n - 16) then a.putLine { RegLine.zero n with st := .filling } else a

/-! ### Queues of records (R45, R345, R347, R348) -/

/-- A record enters its level queue with a new sequence number (R347). -/
def State.enqueue (s : State) (r : Nat) : State :=
  match s.recordOf r with
  | none => s
  | some x =>
    let b := s.berth x.berth
    (s.modRecord r fun y => { y with queued := true, seq := b.seqs, since := s.clk, due := none, seen := false }).modBerth
      x.berth fun y => { y with seqs := y.seqs + 1 }

/-- A record enters its level queue with the sequence number it had when it was last popped (R347). -/
def State.requeue (s : State) (r : Nat) : State :=
  s.modRecord r fun y => { y with queued := true, since := s.clk, due := none, seen := false }

/-- The teams whose gangs take part in a barrier of a team: itself, or its quad (R183). -/
def State.barTeams (s : State) (t : Team) (quad : Bool) : List Team :=
  let q := match s.gridOf t.grid with
    | some g => g.quad
    | none => false
  if quad && q then
    s.teams.filter fun x => x.grid == t.grid && x.stage == t.stage && x.t.toNat / 4 == t.t.toNat / 4
  else [t]

/-- The team whose frame holds the barrier's state: the quad's lowest-indexed member. -/
def State.barHome (s : State) (t : Team) (quad : Bool) : Team :=
  (s.barTeams t quad).foldl (fun x y => if y.t.toNat < x.t.toNat then y else x) t

/-- The gangs that count in a team's barriers and in its retirement: all but those that SPAWN has made and that no slot
has taken yet (R183, R357). -/
def State.countedGangs (s : State) (t : Team) : List Nat := t.gangs.filter fun g => (s.agent g).all (·.counted)

/-- The record of a team that is swapped out is queued once every gang has arrived at the barrier of the team or
its quad, or has had its own wait ended (R39, R364). -/
def State.swapWake (s : State) (t : Nat) : State :=
  match s.teamOf t with
  | none => s
  | some x =>
    let quad := (s.barHome x true).qarrived
    let met := (s.countedGangs x).all fun g => x.arrived.contains g || quad.contains g || match s.agent g with
      | some a => a.run == .ready
      | none => true
    if x.swapped && met then
      match s.records.find? fun r => r.team == t && (r.kind == 1 || r.kind == 2) && r.live with
      | some r => if r.queued then s else s.enqueue r.id
      | none => s
    else s

/-- The level a gang's record re-enters at (R348). -/
def Agent.leaveLevel (a : Agent) : BitVec 5 := if a.trapc then a.held else a.joined.getD a.base

/-- An agent that waits becomes able to run: a gang's record enters the queue of its base level, any
other agent goes on where it is (R38, R348). -/
def State.ready (s : State) (g : Nat) : State :=
  match s.agent g with
  | none => s
  | some a =>
    let s := if a.run matches .parked .event _ then s.modAgent g fun x => { x with evt := false } else s
    match a.run with
    | .parked _ _ =>
      if a.prof == .full then
        (((s.modAgent g fun x => { x with run := .ready }).modRecord a.record fun r => { r with
          wake := if r.kind = 0 then 0 else r.wake }).enqueue a.record).swapWake a.team
      else s.modAgent g fun x => { x with run := .active }
    | .holding _ _ => s.modAgent g fun x => { x with run := .active }
    | _ => s

/-- Every agent whose wait satisfies p becomes able to run. -/
def State.readyAll (s : State) (p : Agent → Wait → Bool) : State :=
  s.all.foldl (fun acc a => match a.run with
    | .parked w _ => if p a w then acc.ready a.id else acc
    | .holding w _ => if p a w then acc.ready a.id else acc
    | _ => acc) s

/-- What an agent waits for. -/
def Agent.waits (a : Agent) : Option Wait := match a.run with
  | .parked w _ => some w
  | .holding w _ => some w
  | _ => none

/-- A long-latency request that is still outstanding when its gang leaves its slot is saved with its operands, to
be issued again (R139, R146, R147). XCONV results have arrived (R139). -/
def Look.save (l : Look) : Look := match l.phase with
  | .issued | .outstanding | .returning => { l with phase := .saved, got := 0, homes := [], back := [] }
  | _ => l

/-- What a gang leaves behind with its slot: no unit in assembly, nothing awaited, its requests saved (R146). -/
def Agent.leave (a : Agent) : Agent :=
  { a with
    pfx := [], xfail := [], need := [], check := none, cold := false
    pri := if a.prof == .full then a.leaveLevel else a.pri
    joined := if a.trapc then a.joined else none
    looks := if a.prof == .full then a.looks.map Look.save else a.looks }

/-- The agent parks: it leaves its slot with its wait as the wake condition (R38, R146). An agent of
the scalar profile has no slot and stays where it is (R320). -/
def State.park (s : State) (g : Nat) (w : Wait) : State :=
  match s.agent g with
  | none => s
  | some a =>
    let s := s.modAgent g fun x => { x.leave with run := .parked w s.clk }
    s.modRecord a.record fun r => { r with kind := 0, lvl := a.leaveLevel.setWidth 8, queued := false, code := a.pc, wake := 0 }

/-- Moves the addresses of unissued prefix words away: the next fetch begins the unit again. -/
def Agent.restart (a : Agent) : Agent := { a with pfx := [] }

/-- A gang leaves its slot at a unit boundary with its record ready: with its old sequence number when
it is pre-empted for a higher rank or demoted, else with a new one (R146, R347, R349). -/
def State.leaveSlot (s : State) (g : Nat) (keepSeq : Bool) : State :=
  match s.agent g with
  | none => s
  | some a =>
    let s := s.modAgent g fun x => { x.leave with run := .ready }
    let s := s.modRecord a.record fun r => { r with kind := 0, lvl := a.leaveLevel.setWidth 8, code := a.pc, wake := 0 }
    if keepSeq then s.requeue a.record else s.enqueue a.record

/-! ### Banks of the ULS (R141, R149, R150) -/

/-- The gangs whose context lies on a core. -/
def State.gangsOn (s : State) (core : Nat) : List Agent := s.all.filter fun a =>
  a.prof == .full && a.core.toNat == core && a.run != .off

/-- The gang holds an activation slot. -/
def Agent.inSlot (a : Agent) : Bool := match a.run with
  | .active | .holding _ _ | .leaving => true
  | _ => false

/-- Lines of each bank that the scratchpads of a core's placed teams take. -/
def State.padLines (s : State) (core : Nat) : Nat :=
  let n := (s.teams.filter fun t => match t.placed with | some c => c.toNat == core && !t.swapped | none => false).foldl
    (fun acc t => acc + match s.gridOf t.grid with | some g => g.scratch | none => 0) 0
  (n + 8191) / 8192

/-- Lines of a bank that are free (R141). -/
def State.bankFree (s : State) (core bank : Nat) : Nat :=
  let held := (s.gangsOn core).foldl (fun acc a => acc + (a.lines.filter fun l => bankOf a l.n == bank).length) 0
  128 - (held + s.padLines core)

/-- The bank has a line free. -/
def State.bankRoom (s : State) (core bank : Nat) : Bool := 0 < s.bankFree core bank

/-- Slots of the region (R156). -/
def Agent.inRegion (a : Agent) (i : Nat) : Bool :=
  a.regionFirst.toNat ≤ i && i < a.regionFirst.toNat + a.regionCount.toNat

/-- Slot i is pinned by the region or the pin map (R149, R160). -/
def Agent.pinned (a : Agent) (i : Nat) : Bool := a.inRegion i || a.pin.getLsbD i

/-- A write-back of a line started from a snapshot of it (R148). -/
def Agent.writeBack (a : Agent) (n : Nat) : Agent :=
  match a.line n with
  | some l =>
    if l.dirty then
      { a.modLine n (fun l => { l with inFlight := true, st := .resident }) with wbacks := a.wbacks ++ [(n, l.data, l.poison)] }
    else a
  | none => a

/-- The line used least recently, with its gang. -/
def oldest : List (Agent × RegLine) → Option (Agent × RegLine)
  | [] => none
  | x :: xs => some (xs.foldl (fun acc y => if y.2.used < acc.2.used then y else acc) x)

/-- The lowest-ranked of some gangs: lowest level, then youngest (R150). -/
def lowestRank : List Agent → Option Agent
  | [] => none
  | x :: xs => some (xs.foldl (fun acc y => if y.pri < acc.pri || (y.pri == acc.pri && acc.stamp < y.stamp) then y else acc) x)

/-- No search takes the line while its gang is active (R149): a pinned slot, a line of the unit in issue, the
destination of a long-latency unit or of the atomic on its way, and the header lines that an activation waits for. -/
def Agent.keeps (a : Agent) (n : Nat) : Bool :=
  a.need.contains n || if n < 16 then a.fresh else
    a.pinned (n - 16) || a.looks.any (·.dest == .slot (n - 16)) || a.atom.any (·.dest == .slot (n - 16))

/-- The classes 1 to 4 of R149 in a bank: a clean line dropped, or the write-back of a dirty one started. A line whose
write-back met a context fault is in none until the pilot has served it (R152). -/
def State.takeVictim (s : State) (core bank : Nat) : Option State :=
  let ls := (s.gangsOn core).flatMap fun a =>
    (a.lines.filter fun l => bankOf a l.n == bank && l.st != .filling && !l.stuck).map (a, ·)
  let parked := ls.filter fun x => !x.1.inSlot
  let free := ls.filter fun x => x.1.inSlot && !x.1.keeps x.2.n
  let drop := fun (x : Agent × RegLine) => s.modAgent x.1.id (·.dropLine x.2.n)
  let wb := fun (x : Agent × RegLine) => if x.2.inFlight then s else s.modAgent x.1.id (·.writeBack x.2.n)
  match oldest (parked.filter (!·.2.dirty)) with
  | some x => some (drop x)
  | none =>
  match oldest (parked.filter (·.2.dirty)) with
  | some x => some (wb x)
  | none =>
  match oldest (free.filter (!·.2.dirty)) with
  | some x => some (drop x)
  | none => (oldest (free.filter (·.2.dirty))).map wb

/-- One step towards a free line in a bank (R149): a victim taken, or with none left the lowest-ranked active gang
that holds a line in the bank demoted (R150). -/
def State.makeRoom (s : State) (core bank : Nat) : State :=
  match s.takeVictim core bank with
  | some s => s
  | none =>
    match lowestRank ((s.gangsOn core).filter fun a =>
        a.inSlot && a.run != .leaving && a.lines.any fun l => bankOf a l.n == bank) with
    | some a => s.leaveSlot a.id true
    | none => s

/-- Room made in a bank as far as that needs no write-back first: lines dropped and gangs demoted until a line
is free, or a write-back that must register before is under way. -/
def State.roomFor : Nat → Nat → Nat → State → State
  | 0, _, _, s => s
  | n + 1, core, bank, s =>
    if s.bankRoom core bank then s else State.roomFor n core bank (s.makeRoom core bank)

/-- The fill of a line started in the background, if its bank has a line free or gives one up without costing a
gang its slot (R145, R156, R160). -/
def State.fillSpare (s : State) (g n : Nat) : State :=
  match s.agent g with
  | none => s
  | some a =>
    let core := a.core.toNat
    let bank := bankOf a n
    if (a.line n).isSome || !(n < 16 || a.isWritten (n - 16)) then s
    else
      let s := if s.bankRoom core bank then s else (s.takeVictim core bank).getD s
      if s.bankRoom core bank then s.modAgent g (·.startFill n) else s

/-- A line for a gang, if its bank has one free once room is made as far as it can be at once (R141, R149): the fill of
one that must be read is started. -/
def State.fillLine (s : State) (g n : Nat) : State :=
  match s.agent g with
  | none => s
  | some a =>
    if (a.line n).isSome then s
    else
      let s := State.roomFor 256 a.core.toNat (bankOf a n) s
      if s.bankRoom a.core.toNat (bankOf a n) then s.modAgent g (·.startFill n) else s

/-! ### Traps (R180, R182, R189, R322, R375) -/

/-- A scalar written from outside the gang: at its next activation where its context lies saved. -/
def Agent.postScalar (a : Agent) (n : Nat) (v : Word) : Agent :=
  if a.fresh then { a with late := a.late ++ [(n, v)] }
  else { a with sreg := a.sreg.setIfInBounds n v, spois := setBit a.spois n false }

/-- INDEX of a record that no reference names. -/
def noIndex : Nat := 2 ^ 32

/-- A service record for the pilot of a berth (R45 to R48): cause and sub are what it is told with it. A
context fault is served at level 18 and a swap-in at level 19; of the range 20 to 23 that R48 gives pilot work
the model takes level 20. FRAME is the pilot's work block, whose address the manual does not give (log 76). -/
def State.service (s : State) (a : Agent) (lvl cause : BitVec 8) (wake sub : Word) : State :=
  { s with
    records := s.records ++ [{
      id := s.nextRecord, kind := 5, lvl := lvl
      join := 0, stg := a.stage, frame := Config.workBlock a.berth.toNat &&& ~~~0xFFFF#64, code := 0, wake := wake, berth := a.berth,
      grid := a.grid, team := a.team, agent := a.id, queued := true, seq := (s.berth a.berth).seqs, since := s.clk,
      due := none, index := noIndex, gen := 0, joins := 0, tile := 0, live := true,
      cause := cause, sub := sub }],
    nextRecord := s.nextRecord + 1,
    berths := (s.modBerth a.berth fun b => { b with seqs := b.seqs + 1 }).berths }

/-- A system fault (R182): the gang parks at the unit, any other agent is held there, and the pilot
receives the code in a service record whose WAKE is the fault's address (R47); arg is what the code's rule
gives with it. -/
def State.systemFault (s : State) (g : Nat) (cause : BitVec 8) (tval arg : Word) : State :=
  match s.agent g with
  | none => s
  | some a => ((s.park g .service).note cause g arg).service a (if cause = 0x41 then 18 else 20) cause tval arg

/-- A service record of a berth's pilot that concerns no agent's unit (R46, R385), at the request's address (R47). -/
def State.pilotRecord (s : State) (b : BitVec 4) (code : BitVec 8) (wake arg : Word) : State :=
  s.service { Agent.init 0 .firmware with berth := b } 20 code wake arg

/-- The pilot has still to serve a request with this code and argument. -/
def State.asked (s : State) (b : BitVec 4) (code : BitVec 8) (arg : Word) : Bool :=
  s.records.any fun r => r.live && r.kind == 5 && r.berth == b && r.cause == code && r.sub == arg

/-- A request that reaches the pilot in a service record, unless the same waits already. -/
def State.ask (s : State) (b : BitVec 4) (code : BitVec 8) (wake arg : Word) : State :=
  if s.asked b code arg then s else (s.note code b.toNat arg).pilotRecord b code wake arg

/-- A packet ends with this state and code, unless it has ended already; its signal is written by
COMPLETION_SIGNAL (R377, R378). -/
def State.endPacket (s : State) (p : Nat) (state code sub : BitVec 8) (d1 d2 : Word) : State :=
  s.modPacket p fun x => if 4 ≤ x.phase then x else
    { x with phase := 4, state := state, code := code, sub := sub, detail1 := d1, detail2 := d2 }

/-- A halt of a firmware core by a trap in trap mode (R189): the event is logged; a pilot core is
restarted from its image, and a halted harbourmaster is replaced by the standby. -/
def State.haltFirmware (s : State) (g : Nat) (cause : BitVec 8) : State :=
  let s := s.note cause g 0
  if g < 16 then s.modAgent g fun a => { Agent.init a.id .firmware with run := .active, berth := a.berth }
  else
    let s := s.modAgent g fun a => { a with run := .off }
    if g = 16 then ({ s with standby := true }).modAgent 17 fun a => { a with run := .active } else s

/-- The byte of KBIND that binds port N (R186). -/
def Agent.kbyte (a : Agent) (n : Nat) : BitVec 8 := a.kbind.extractLsb' (8 * n) 8

/-- The quad member that is placed on core c of a cluster (R36). -/
def State.member (s : State) (quad c : Nat) : Option Team :=
  match s.teamOf quad with
  | none => none
  | some t0 => s.teams.find? fun t =>
      t.grid == t0.grid && t.stage == t0.stage && t.t.toNat / 4 == t0.t.toNat / 4 && t.t.toNat % 4 == c
        && t.placed.isSome && !t.ended

/-- The team whose scratchpad holds the queue that port N names (R187): the gang's own, or the placed
member on the core that KCORE names for a tile sequencer. -/
def State.portTeam (s : State) (a : Agent) (core : Nat) : Option Team :=
  if a.prof == .tile then s.member a.team core else s.teamOf a.team

/-- A state change of a queue wakes its waiters and the WFE of agents with a port bound to it (R178,
R186). -/
def State.queueEvent (s : State) (team q : Nat) : State :=
  s.readyAll fun a w => match w with
    | .queue t q' _ => t == team && q' == q
    | .event => (List.range 8).any fun n =>
        let k := a.kbyte n
        k.getLsbD 7 && k.toNat % 64 == q && match s.portTeam a (a.kcore.extractLsb' (2 * n) 2).toNat with
          | some t => t.id == team
          | none => false
    | _ => false

/-- The queues whose HEAD, TAIL or CLOSED (R185) lies in n bytes at an offset of a scratchpad. -/
def queuesIn (off n : Nat) : List Nat := (List.range 64).filter fun q => off < 4096 * q + 0x18 && 4096 * q < off + n

/-- What n bytes written at an offset of a team's scratchpad change of its queues is seen by those who wait on
them, whoever wrote it (R178, R186, R187). -/
def State.padEvent (s : State) (t off n : Nat) : State := (queuesIn off n).foldl (fun s q => s.queueEvent t q) s

/-- CLOSED set in every queue bound to a port of the agent that satisfies p (R321, R322). -/
def State.closeQueues (s : State) (a : Agent) (p : BitVec 8 → Bool) : State :=
  (List.range 8).foldl (fun acc n =>
    let k := a.kbyte n
    if k.getLsbD 7 && p k then
      match acc.portTeam a (a.kcore.extractLsb' (2 * n) 2).toNat with
      | some t => (acc.modTeam t.id fun t =>
          { t with scratch := t.scratch.setByte (4096 * (k.toNat % 64) + 0x10) 1 }).queueEvent t.id (k.toNat % 64)
      | none => acc
    else acc) s

/-- Agents that wait for a buffer-table entry go on (R314). -/
def State.entryEvent (s : State) (cluster idx : Nat) : State :=
  s.readyAll fun _ w => w == .handle cluster idx

/-- A buffer-table entry as it is once freed (R313). -/
def Entry.freed (e : Entry) : Entry := { e with st := .free, tile := none, pins := [], dying := false }

/-- The buffer-table entries that satisfy gone freed, with their pins and with the locks of tiles and drains, and
those that wait for them go on (R314, R321, R327). -/
def State.freeEntries (s : State) (gone : Nat → Entry → Bool) : State :=
  let held := s.clusters.flatMap fun x => (x.2.table.filter fun e => e.st != .free && gone x.1 e).map (x.1, ·)
  let s := { s with clusters := s.clusters.map fun x => (x.1, { x.2 with
    locks := x.2.locks.filter fun l => !held.any fun e => e.1 == x.1 && e.2.kind != .copy && e.2.op == l.owner
    table := changeIf (fun e => e.st != .free && gone x.1 e) Entry.freed x.2.table }) }
  held.foldl (fun s e => s.entryEvent e.1 e.2.idx) s

/-- The accepted matrix operations of a cluster dropped unless keep holds, and the tile and drain entries
that its sequencer's quad holds freed with their locks and pins but for those of the operations kept
(R321, R322). -/
def State.stopMatrix (s : State) (c : Nat) (keep : MxOp → Bool) : State :=
  let kept := (s.cluster c).mx.ops.filter keep
  let s := s.modCluster c fun x => { x with mx := { x.mx with ops := kept } }
  match (s.cluster c).mx.quad with
  | none => s
  | some q =>
    let s := s.freeEntries fun _ e => e.kind != .copy && e.quad == q && !kept.any (·.id == e.op)
    -- the entry of an operation that goes on is freed when that ends
    { s with clusters := s.clusters.map fun x => (x.1, { x.2 with
        table := changeIf (fun e => e.st != .free && e.kind != .copy && e.quad == q) (fun e : Entry => ({ e with dying := true } : Entry))
          x.2.table }) }

/-- A lookahead window that a trap suspends: the units of its handler do not count toward it (R68, R180). -/
def Look.suspend (l : Look) : Look := { l with live := false }

/-- A tenant-visible trap of the agent whose turn it is (R180, R189, R322, R375). CAUSE, TVAL and EPC
are written. A gang leaves its slot for a trap continuation at its handler; a firmware core goes on
at TRAPVEC in trap mode; a tile sequencer stops its stream; a launch engine's packet ends. An extension word goes to a
non-zero EMUENT whatever TRAPVEC holds, and to the pilot as 0x15 only where both are zero (R74 against R180, log 92). -/
def State.takeTrap (s : State) (cause : BitVec 8) (tval : Word) : State :=
  let a := s.cur
  let saved : Agent := { a with
    cause := cause, tval := tval, epc := a.pc, pfx := [], repi := 0, xfail := [], need := [], check := none, held := a.pri
    -- the unregistered peer store has been reported (R262)
    lost := if cause = 0x2B then none else a.lost }
  match a.prof with
  | .full =>
    let emuent : Word := match s.gridOf a.grid with
      | some g => g.emuent
      | none => 0
    let handler : Word := if cause = 0x03 && emuent != 0 then emuent else a.trapvec
    if a.trapc then s.systemFault a.id 0x16 a.tval (cause.setWidth 64)
    else if handler = 0 then s.systemFault a.id 0x15 tval (cause.setWidth 64)
    else
      let s := { s with cur := { saved with
        pc := handler, savedGuard := a.guard, savedRepi := a.repi, guard := Guard.none,
        looks := a.looks.map (fun l : Look => l.save.suspend), trapc := true, run := .ready } }
      (s.modRecord a.record fun r => { r with kind := 4, lvl := 17, wake := tval, code := handler }).enqueue a.record
  | .firmware =>
    if a.trapMode then s.haltFirmware a.id cause
    else { s with cur := { saved with
        pc := a.trapvec, trapMode := true, run := .active, looks := a.looks.map Look.suspend } }
  | .tile =>
    let s := { s with cur := { saved with run := .off } }
    let s := s.closeQueues a fun _ => true
    let s := s.stopMatrix (a.id - 64) fun _ => false
    s.systemFault a.id 0x78 tval (cause.setWidth 64)
  | .launch =>
    let s := { s with cur := { saved with run := .off } }
    s.endPacket a.packet 3 0xA7 cause tval a.pc

/-- A lookahead window that a trap suspended goes on (R68, R181). A special-function request that waited for
that is issued again, under the FPC of now (R241). -/
def Look.resume (l : Look) : Look :=
  { l with live := true, phase := if l.phase == .saved && l.word.extractLsb' 25 7 < 0x30#7 then .issued else l.phase }

/-- Return from a trap (R181, R189): the saved guard span, REP iteration and lookahead counts live
again, a gang's record is a gang record at the level it held, and the agent goes on at EPC. -/
def State.eret (s : State) : State :=
  let a := s.cur
  if a.prof == .full then
    let s := { s with cur := { a with
      trapc := false, guard := a.savedGuard, repi := a.savedRepi, savedGuard := Guard.none,
      savedRepi := 0, looks := a.looks.map Look.resume,
      pc := a.epc, pri := a.held, pfx := []
      -- its last lane has exited already (R43)
      run := if a.xm = 0xFFFFFFFF then .leaving else a.run } }
    s.modRecord a.record fun r => { r with kind := 0, lvl := a.held.setWidth 8, wake := 0 }
  else { s with cur := { a with trapMode := false, pc := a.epc, pfx := [], looks := a.looks.map Look.resume } }

end Sys2Proof.Machine
end

