-- ==== Sys2Proof/Machine/Home.lean ====
section
/-!
DEFINITION. What happens at the homes of memory (R16, R17, R116 to R132): lines of the L2 and the
seals of the channels (R391, R392, R408 to R412), revocation and ownership, reads, writes and
atomics at a home, watches (R359), manifest counters (R432), stores on their way, and acquires and
releases.
-/

namespace Sys2Proof.Machine

/-! ### The physical map (R16, R17) -/

def isHbm (pa : Nat) : Bool := pa < 2 ^ 39
def isHost (pa : Nat) : Bool := 2 ^ 47 ≤ pa && pa < 0xC00000000000
def isPeer (pa : Nat) : Bool := 0xC00000000000 ≤ pa && pa < 2 ^ 48
/-- The addressable bytes of a channel quad's window. -/
def quadBytes : Nat := 0x1DCD60000
/-- The UALink port that leads to the peer of an address. -/
def peerPortOf (pa : Nat) : Nat := Config.peerPort ((pa - 0xC00000000000) / 2 ^ 40) % 8
/-- An address at which something answers (R16, R17, R18). -/
def populated (pa : Nat) : Bool := (isHbm pa && pa % 2 ^ 33 < quadBytes) || isHost pa || isPeer pa
/-- Channel quad, slice and stack of an address (R17). -/
def quadOf (pa : Nat) : Nat := pa / 2 ^ 33
def sliceOf (pa : Nat) : Nat := 4 * quadOf pa + pa / 256 % 4
def stackOf (pa : Nat) : Nat := quadOf pa / 8
/-- An address at which something answers now: a stack that bring-up has left disabled answers nothing, as an
unpopulated range does (R18, R28, log 73). -/
def State.there (s : State) (pa : Nat) : Bool := populated pa && !(isHbm pa && s.deadStacks.getLsbD (stackOf pa))

/-- The port to the peer of an address is down (R131, R262), or the UCIe module to host memory was left disabled
(R14, R28). -/
def State.cutOff (s : State) (pa : Nat) : Bool :=
  (isPeer pa && s.deadPorts.getLsbD (peerPortOf pa)) || (isHost pa && s.deadHost.getLsbD (pa / 4096 % 2))

/-- The home that an address belongs to: granules of 256 bytes share one (R17, R126). -/
def granule (pa : Nat) : Nat := pa / 256

/-- The R190 address of a device-space register. -/
def dev (n : Nat) : Nat := 0x6000000 + n

/-! ### Keys and tensors (R411, R413, R415) -/

/-- Keys of a slot, none when it is empty, and its segment. -/
def State.slotKeys (s : State) (k : BitVec 9) : Option (BitVec 1024) := (s.keys.find? (·.slot == k)).map (·.keys)
def State.slotSeg (s : State) (k : BitVec 9) : BitVec 4 := ((s.keys.find? (·.slot == k)).map (·.seg)).getD 0

/-- A tensor entry; one that nothing has written is invalid (R415). -/
def State.tensor (s : State) (g : BitVec 4) (i : BitVec 12) : Tensor :=
  (s.tensors.find? fun t => t.seg == g && t.index == i).getD ⟨g, i, 0, 0, 0, false, false, 0⟩

/-- A tensor entry replaced. -/
def State.setTensor (s : State) (t : Tensor) : State :=
  if s.tensors.any fun x => x.seg == t.seg && x.index == t.index then
    { s with tensors := changeFirst (fun x => x.seg == t.seg && x.index == t.index) (fun _ => t) s.tensors }
  else { s with tensors := s.tensors ++ [t] }

/-- What a line written now under a key slot and tensor slot is sealed with (R411): a line that a rewrap
has not taken yet still under the version before (R418). -/
def State.sealNow (s : State) (n : Nat) (k : BitVec 9) (t : BitVec 12) : SealId :=
  let g := s.slotSeg k
  let v := (s.tensor g t).ver
  let old := s.rewraps.any fun x => x.2.1 == g && x.2.2.1 == t && x.2.2.2.contains n
  .under (s.slotKeys k) t g (if old then v - 1 else v)

/-- The tweaks of line n under a seal (R411). -/
def SealId.tweak (x : SealId) (n j : Nat) : List Byte := match x with
  | .under _ t g v => lineTweak n j t.toNat g.toNat v.toNat

/-- The keys of a seal. -/
def SealId.keys (x : SealId) : Option (BitVec 1024) := match x with
  | .under k _ _ _ => k

/-- What a line's channel holds of a plaintext under a seal: its ciphertext and its tag (R411, R412). The link ECC
beside the tag has no stated code. A slot without keys has no cipher. -/
def SealId.channel (x : SealId) (n : Nat) (line : List Byte) : Option (List Byte × List Byte) := x.keys.map fun k =>
  let ct := lineSeal k (x.tweak n) line
  (ct, lineTag k (x.tweak n 0) ct)

/-- What a reader under now gets of line n, whose plaintext was sealed under x; none where the tag fails (R412). -/
def SealId.reads (x now : SealId) (n : Nat) (line : List Byte) : Option (List Byte) :=
  if x = now then some line
  else match x.channel n line, now.keys with
    | some (ct, tag), some k => if lineTag k (now.tweak n 0) ct == tag then some (lineOpen k (now.tweak n) ct) else none
    | _, _ => none

/-! ### Requests -/

/-- Who asks at a home: berth, key slot and tensor slot of the page, and class of R432 (0 external, 1
device, 2 migration stream, 3 firmware). -/
structure Req where
  b : BitVec 4
  key : BitVec 9
  t : BitVec 12
  cls : Nat
  deriving DecidableEq, Repr

/-- Ways of the berth in the slice of an address (R391). -/
def State.waysAt (s : State) (b : BitVec 4) (pa : Nat) : BitVec 16 :=
  (s.sysreg (dev (0x2000 + 16 * sliceOf pa + b.toNat)) 0).extractLsb' 0 16

/-- A berth finds a line in a way of its own, or in one that is being taken from it (R391). -/
def State.findsWay (s : State) (b : BitVec 4) (pa way : Nat) : Bool :=
  let x := s.sysreg (dev (0x2000 + 16 * sliceOf pa + b.toNat)) 0
  x.getLsbD way || x.getLsbD (32 + way)

/-- The manifest counters raised for one request that reaches an HBM home (R432). -/
def State.count (s : State) (r : Req) (pa : Nat) (write : Bool) : State :=
  if !isHbm pa then s
  else
    { s with mancount := s.sysregs.foldl (fun acc x =>
        let n := x.1 - dev 0x1000
        let v := x.2
        if dev 0x1000 ≤ x.1 && n < 1024 && v.getLsbD 63 && bits v 26 0 ≤ pa / 2 ^ 21 && pa / 2 ^ 21 ≤ bits v 58 32 then
          let k := 64 * n + 2 * r.cls + write.toNat
          put k (min (2 ^ 32 - 1) (findD k 0 acc + 1)) acc
        else acc) s.mancount }

/-! ### The L1 and ownership (R117) -/

/-- Lines that an L1 holds: 64 KiB of 64 bytes. -/
def l1Lines : Nat := 1024

/-- A line with nothing valid in it. -/
def L1Line.empty (n : Nat) (key : BitVec 9) : L1Line := ⟨n, key, 0, 0, 0, Vector.replicate 16 0⟩

/-- The 4-byte word of a valid place of a line. -/
def L1Line.word (l : L1Line) (i : Nat) : Option (BitVec 32) :=
  if l.valid.getLsbD i then some (l.data.getD i 0) else none

/-- A word of a line made invalid. -/
def L1Line.drop (l : L1Line) (i : Nat) : L1Line :=
  { l with valid := setBit l.valid i false, owned := setBit l.owned i false }

/-- The line of a core's L1 with this number. -/
def Core.l1Line (c : Core) (n : Nat) : Option L1Line := c.l1.find? (·.line == n)

/-- The valid word of a core's L1 at word address wa, under a key. -/
def Core.l1Word (c : Core) (wa : Nat) (key : BitVec 9) : Option (BitVec 32) :=
  match c.l1Line (wa / 16) with
  | some l => if l.key == key then l.word (wa % 16) else none
  | none => none

/-- The L1 holds the unit's line under a key, with the unit's poison mark set. -/
def Core.l1Mark (c : Core) (u : Nat) (key : BitVec 9) : Bool :=
  match c.l1Line (u / 64) with
  | some l => l.key == key && l.marks.getLsbD (u / 8 % 8)
  | none => false

/-- A word made invalid in a core's L1; a line with no valid word is gone. -/
def Core.dropL1 (c : Core) (wa : Nat) : Core :=
  { c with l1 := (changeFirst (·.line == wa / 16) (·.drop (wa % 16)) c.l1).filter (·.valid != 0) }

/-- The owner of a word loses its copy, unless it is the core named (R118). The home's value is the
owner's already (log 12). -/
def State.revoke (s : State) (wa : Nat) (keep : Option Nat) : State :=
  match find? wa s.owners with
  | none => s
  | some c => if keep = some c then s else { s.modCore c (·.dropL1 wa) with owners := del wa s.owners }

/-- A line leaves a core's L1: the home has the values of the words it owned, in one write-back (R432), and no owner
of them is recorded any more (R117). -/
def State.evictL1 (s : State) (core n : Nat) : State :=
  let s := if s.owners.any fun x => x.1 / 16 == n && x.2 == core then s.count ⟨0, 0, 0, 1⟩ (64 * n) true else s
  let s := { s with owners := s.owners.filter fun x => !(x.1 / 16 == n && x.2 == core) }
  s.modCore core fun c => { c with l1 := c.l1.filter (·.line != n) }

/-- The line made present in a core's L1 under a key, in front. A line held under another key leaves, and
the line brought in longest ago leaves a full L1. -/
def State.openL1 (s : State) (core n : Nat) (key : BitVec 9) : State :=
  let s := match (s.core core).l1Line n with
    | some l => if l.key == key then s else s.evictL1 core n
    | none => s
  match (s.core core).l1Line n with
  | some _ => s
  | none =>
    let s := match (s.core core).l1.getLast? with
      | some l => if l1Lines ≤ (s.core core).l1.length then s.evictL1 core l.line else s
      | none => s
    s.modCore core fun c => { c with l1 := L1Line.empty n key :: c.l1 }

/-- Both words of the unit at u brought into a core's L1 with the mark of the unit, as the home has them at
one moment (R126); the words of own become owned, and a word that was owned stays so. -/
def State.fillUnit (s : State) (core u : Nat) (key : BitVec 9) (own : List Nat) : State :=
  let i := u / 4 % 16
  let x := s.mem.read u 8
  (s.openL1 core (u / 64) key).modCore core fun c => { c with
    l1 := changeFirst (·.line == u / 64) (fun l : L1Line => ({ l with
      valid := setBit (setBit l.valid i true) (i + 1) true
      owned := own.foldl (fun o wa => setBit o (wa % 16) true) l.owned
      marks := setBit l.marks (u / 8 % 8) (s.mem.marked u)
      data := (l.data.setIfInBounds i (BitVec.ofNat 32 x)).setIfInBounds (i + 1) (BitVec.ofNat 32 (x / 2 ^ 32)) } : L1Line)) c.l1 }

/-- The cores that own a word of the unit at u see its poison mark (R105, R106). -/
def State.syncMark (s : State) (u : Nat) : State :=
  (s.owners.filter fun x => x.1 / 2 == u / 8).foldl (fun s x => s.modCore x.2 fun c => { c with
    l1 := changeFirst (·.line == u / 64) (fun l : L1Line => ({ l with marks := setBit l.marks (u / 8 % 8) (s.mem.marked u) } : L1Line))
      c.l1 }) s

/-- Every owner of a line's words loses its copy. -/
def State.revokeLine (s : State) (line : Nat) : State :=
  (List.range 16).foldl (fun s i => s.revoke (16 * line + i) none) s

/-! ### L2 lines (R116, R391, R409) -/

/-- The line written back to its channel, sealed under its own key and the version of now (R411). No owner of its
words changes (R391). -/
def State.writeBackLine (s : State) (n : Nat) : State :=
  match s.l2.find? (·.line == n) with
  | some l =>
    if l.dirty then
      { s with
        seals := put n (s.sealNow n l.key l.t) s.seals
        l2 := changeFirst (·.line == n) (fun x : L2Line =>
          ({ x with dirty := false, chan := [], chanMarks := [], chanSeal := none } : L2Line)) s.l2 }
    else s
  | none => s

/-- The line's copy dropped as it stands. -/
def State.dropLine (s : State) (n : Nat) : State := { s with l2 := s.l2.filter (·.line != n) }

/-- A line leaves the L2 for an access of its own slice: a dirty one with the values of its owners. -/
def State.evictLine (s : State) (n : Nat) : State :=
  ((if s.l2.any fun l => l.line == n && l.dirty then s.revokeLine n else s).writeBackLine n).dropLine n

/-- The set of a slice that a line falls into: 512 KiB of 64-byte lines in 16 ways are 512 sets. A slice's
lines are the granules of its channel in order (R17, log 13). -/
def setOf (n : Nat) : Nat := (n / 16 * 4 + n % 4) % 512

/-- A line shares slice and set with line n. -/
def sameSet (n m : Nat) : Bool := sliceOf (64 * n) == sliceOf (64 * m) && setOf n == setOf m

/-- A tile's entry pins the line in its slice (R328). -/
def State.pinsLine (s : State) (n : Nat) : Bool := s.clusters.any fun c => c.2.table.any (·.pins.contains n)

/-- A way of the berth in which the line can be placed: a free one of its set, else the one whose line was
brought in longest ago and is not pinned, which leaves. -/
def State.takeWay (s : State) (b : BitVec 4) (n : Nat) : Option Nat × State :=
  let ways := (List.range 16).filter fun w => (s.waysAt b (64 * n)).getLsbD w
  let held := s.l2.filter fun l => sameSet l.line n && ways.contains l.way
  match ways.find? fun w => !held.any (·.way == w) with
  | some w => (some w, s)
  | none => match held.find? fun l => !s.pinsLine l.line with
    | some l => (some l.way, s.evictLine l.line)
    | none => (none, s)

/-- The line of the L2 placed, the line brought in last at the end; without a way it stays in the channel. -/
def State.placeLine (s : State) (r : Req) (n : Nat) : State :=
  match s.takeWay r.b n with
  | (some w, s) => { s with l2 := s.l2 ++ [⟨n, r.key, r.t, w, false, [], [], none⟩] }
  | (none, s) => s

/-- The line made present for an access, and whether its tag fails (R409, R412). A line held under
another key, or in a way that the berth does not find it in (R391), is first written back and dropped. A line of a slice in which the berth has no way stays
in the channel (R392). The pilot hears of a failing tag (R412). -/
def State.openLine (s : State) (r : Req) (pa : Nat) : State × Bool :=
  if !isHbm pa then (s, false)
  else
    let n := pa / 64
    let hit := match s.l2.find? (·.line == n) with
      | some l => l.key == r.key && s.findsWay r.b pa l.way
      | none => false
    if hit then (s, false)
    else
      let s := s.evictLine n
      let fails := (s.note 0xB9 r.b.toNat (BitVec.ofNat 64 pa), true)
      match find? n s.seals with
      | some x =>
        let now := s.sealNow n r.key r.t
        if x = now then (s.placeLine r n, false)
        else match x.reads now n (s.mem.bytes (64 * n) 64) with
          | none => fails
          -- a tag that passes by chance: the reader has what its own keys make of the ciphertext
          | some bs => (({ s with mem := s.mem.writeBytes (64 * n) bs, seals := put n now s.seals } : State).placeLine r n, false)
      | none => if s.stripped.getLsbD (quadOf pa) then fails else (s.placeLine r n, false)

/-- Line n holds what nobody can know, and every unit of it a mark. -/
def State.spoilLine (s : State) (n : Nat) : State :=
  (List.range 8).foldl (fun s i =>
    let (k, s) := s.takeFree
    ({ s with mem := (s.mem.write (64 * n + 8 * i) 8 (Config.freeWord k).toNat).mark (64 * n + 8 * i) true } : State).syncMark
      (64 * n + 8 * i)) s

/-! ### Watches (R359, R360) -/

/-- Every watch on a word ends, and its gang becomes ready. -/
def State.endWatches (s : State) (wa : Nat) : State :=
  let gs := s.watches.filter (·.pa == wa) |>.map (·.agent)
  let s := { s with watches := s.watches.filter (·.pa != wa) }
  gs.foldl State.ready s

/-! ### Reads, writes and atomics at a home -/

/-- A unit of 8 bytes read in its line: value, poison mark, and whether the line's tag fails, with which nothing of its
plaintext is read (R409). -/
def State.unitGet (s : State) (r : Req) (pa : Nat) : (Word × Bool × Bool) × State :=
  let u := pa / 8 * 8
  match s.openLine r u with
  | (s, true) => let (k, s) := s.takeFree; ((Config.freeWord k, s.mem.marked u, true), s)
  | (s, false) => (((s.mem.unit u).1, s.mem.marked u, false), s)

/-- A unit of 8 bytes read at its home, as one request. -/
def State.homeGet (s : State) (r : Req) (pa : Nat) : (Word × Bool × Bool) × State :=
  (s.count r (pa / 8 * 8) false).unitGet r pa

/-- The line of a write made dirty, with what its channel still holds kept beside it; a line written
through is sealed at once. A write to a line whose tag fails leaves its other units poisoned (R412). -/
def State.dirtyLine (s : State) (r : Req) (pa : Nat) : State :=
  let n := pa / 64
  let (s, bad) := s.openLine r pa
  if !isHbm pa then s
  else
    let shadow := s.mem.bytes (64 * n) 64
    let marks := s.mem.marks.filter fun u => u / 8 == n
    let old := find? n s.seals
    let s := if bad then s.spoilLine n else s
    -- a line whose tag failed is not held, and is placed now; without a way the write goes through
    let s := if (s.l2.find? (·.line == n)).isSome then s else s.placeLine r n
    match s.l2.find? (·.line == n) with
    | none => { s with seals := put n (s.sealNow n r.key r.t) s.seals }
    | some l => if l.dirty then s else
        { s with l2 := changeFirst (·.line == n) (fun x : L2Line =>
          ({ x with dirty := true, chan := shadow, chanMarks := marks, chanSeal := old } : L2Line)) s.l2 }

/-- The words of a unit that a write touches. -/
def wordsOf (u : Nat) (be : BitVec 8) : List Nat :=
  (if be.extractLsb' 0 4 != 0 then [u / 4] else []) ++ (if be.extractLsb' 4 4 != 0 then [u / 4 + 1] else [])

/-- A write in its line (R118, R132): the unit at u, byte enables, value and poison, and
the core that becomes owner, if any. Watches on the words end. Host memory keeps no marks: marked
bytes go there in a poisoned TLP (R106). -/
def State.unitPut (s : State) (r : Req) (u : Nat) (be : BitVec 8) (v : Word) (p : Bool) (owner : Option Nat) : State :=
  let s := s.dirtyLine r u
  let s := { s with
    mem := s.mem.store u be v (p && !isHost u)
    tlps := if p && isHost u then u :: s.tlps else s.tlps }
  (wordsOf u be).foldl (fun s wa =>
    let s := s.revoke wa owner
    let s := match owner with
      | some c => if isHbm u then { s with owners := put wa c s.owners } else s
      | none => s
    s.endWatches wa) (s.syncMark u)

/-- A write registered at its home, as one request. -/
def State.homePut (s : State) (r : Req) (u : Nat) (be : BitVec 8) (v : Word) (p : Bool) (owner : Option Nat) : State :=
  (s.count r u true).unitPut r u be v p owner

/-- Bytes written at homes from a on, one unit at a time, unmarked or with marks (R132). -/
def State.homePutBytes (s : State) (r : Req) (a : Nat) (bs : List Byte) (p : Nat → Bool) : State :=
  let lo := a / 8
  let n := (a + bs.length + 7) / 8 - lo
  if bs = [] then s
  else
    (List.range n).foldl (fun s i =>
      let u := 8 * (lo + i)
      let be := (List.range 8).foldl (fun acc j => if a ≤ u + j && u + j < a + bs.length then acc + 2 ^ j else acc) 0
      let v := ofBytes ((List.range 8).map fun j => if a ≤ u + j then bs.getD (u + j - a) 0 else 0)
      s.homePut r u (BitVec.ofNat 8 be) (BitVec.ofNat 64 v) (p u) none) s

/-- Bytes read at homes, one unit at a time, and whether some tag fails. -/
def State.homeGetBytes (s : State) (r : Req) (a n : Nat) : (List Byte × Bool) × State :=
  let lo := a / 8
  let k := (a + n + 7) / 8 - lo
  let st := (List.range k).foldl (fun (acc : (List Byte × Bool) × State) i =>
    let x := acc.2.homeGet r (8 * (lo + i))
    ((acc.1.1 ++ toBytes 8 x.1.1.toNat, acc.1.2 || x.1.2.2), x.2)) (([], false), s)
  (((st.1.1.drop (a % 8)).take n, st.1.2), st.2)

/-- The new value of an atomic of width w (R249). -/
def atomicOp (op : Nat) (w x y c : Nat) : Nat :=
  let sx := signedOf w x
  let sy := signedOf w y
  match op with
  | 0 => (x + y) % 2 ^ w
  | 1 => (x + 2 ^ w - y) % 2 ^ w
  | 2 => x &&& y
  | 3 => x ||| y
  | 4 => x ^^^ y
  | 5 => if sx ≤ sy then x else y
  | 6 => if sx ≤ sy then y else x
  | 7 => if x ≤ y then x else y
  | 8 => if x ≤ y then y else x
  | 9 => y
  | _ => if x = c then y else x

/-- An atomic at its home (R123): the old value, its mark and whether the line failed; the mark
stays (R250). An atomic whose line fails is not performed, has no old value that anybody knows, and marks its unit in
HBM. -/
def State.homeAtomic (s : State) (r : Req) (pa op w y c : Nat) (err : Bool) : (Word × Bool) × State :=
  let s := s.count r pa false
  let (s, bad) := s.openLine r pa
  let old := s.mem.read pa (w / 8)
  let marked := s.mem.marked pa
  if bad || err then
    let (k, s) := s.takeFree
    ((Config.freeWord k, true), if isHbm pa then ({ s with mem := s.mem.mark pa true } : State).syncMark (pa / 8 * 8) else s)
  else
    let s := (s.count r pa true).dirtyLine r pa
    let s := { s with mem := s.mem.write pa (w / 8) (atomicOp op w old (y % 2 ^ w) (c % 2 ^ w)) }
    let s := (List.range (w / 32)).foldl (fun s i => (s.revoke (pa / 4 + i) none).endWatches (pa / 4 + i)) s
    ((BitVec.ofNat 64 old, marked), s)

/-! ### Engine and range operations on lines (R135, R251) -/

/-- DISCARD of one whole line (R135): owners and the L2 copy dropped, and memory back at what the
channel holds. -/
def State.discardLine (s : State) (n : Nat) : State :=
  let s := s.revokeLine n
  match s.l2.find? (·.line == n) with
  | some l =>
    let s := s.dropLine n
    if l.dirty then
      { s with
        mem := { (s.mem.writeBytes (64 * n) l.chan) with
          marks := l.chanMarks.foldl (fun ms u => ins u ms) (s.mem.marks.filter fun u => u / 8 != n) } }
    else s
  | none => s

/-! ### Acquire and release (R120, R121) -/

/-- An acquire by an agent: the words its core's L1 does not own become invalid (R120). Agents
without an L1 have nothing to do. -/
def State.acquire (s : State) (g : Nat) : State :=
  match s.agent g with
  | none => s
  | some a =>
    if a.prof == .full then
      s.modCore a.core.toNat fun c => { c with
        l1 := (c.l1.map fun l : L1Line => ({ l with valid := l.valid &&& l.owned } : L1Line)).filter (·.valid != 0) }
    else s

/-- The major of a long-latency unit's word. -/
def Look.major (l : Look) : Nat := (l.word.extractLsb' 25 7).toNat

/-- The unit is a load whose data has not come back. -/
def Look.loading (l : Look) : Bool := 0x30 ≤ l.major && l.phase != .held

/-- Every earlier load and atomic of the agent has returned its data, and every earlier store, MEMOP and
write-back is registered (R121, R148, R251). A store to host memory is registered once the port has
accepted it (R130). -/
def State.released (s : State) (g : Nat) : Bool :=
  match s.agent g with
  | none => true
  | some a => !a.looks.any Look.loading && a.atom.isNone && a.wbacks.isEmpty
      && !s.pend.any (fun p => p.agent == g && !(isHost p.pa && p.registered))

end Sys2Proof.Machine
end

