-- ==== Sys2Proof/Machine/Num.lean ====
section
/-!
DEFINITION. Numbers (spec/04_numbers.md): floating-point formats, exact values, rounding, NaN
selection and the fused forms, narrow integers and block scales, residues, and the exact
fixed-point formats. Every function works on the bits of one element and answers its result with
the flags the lane raises, IV, DZ, OF, UF, IX from bit 4 down.
-/

namespace Sys2Proof.Machine

/-! ### Formats (R84, R85, R86) -/

/-- A floating-point format: fraction bits, exponent bits, and whether it is e4m3, whose specials
differ (R86). -/
structure Fmt where
  frac : Nat
  exp : Nat
  e4m3 : Bool := false
  deriving DecidableEq, Repr

def Fmt.f64 : Fmt := ⟨52, 11, false⟩
def Fmt.f32 : Fmt := ⟨23, 8, false⟩
def Fmt.f16 : Fmt := ⟨10, 5, false⟩
def Fmt.bf16 : Fmt := ⟨7, 8, false⟩
def Fmt.e5m2 : Fmt := ⟨2, 5, false⟩
def Fmt.e4m3fmt : Fmt := ⟨3, 4, true⟩

/-- Width in bits. -/
def Fmt.width (f : Fmt) : Nat := f.frac + f.exp + 1
/-- Exponent bias. -/
def Fmt.bias (f : Fmt) : Nat := 2 ^ (f.exp - 1) - 1
/-- Exponent of the smallest normal. -/
def Fmt.emin (f : Fmt) : Int := 1 - (f.bias : Int)
/-- Exponent of the least fraction bit of a subnormal. -/
def Fmt.qmin (f : Fmt) : Int := f.emin - f.frac
/-- The code of +∞, or the exponent field's all-ones pattern. -/
def Fmt.infCode (f : Fmt) : Nat := (2 ^ f.exp - 1) * 2 ^ f.frac
/-- The code of the largest finite value. -/
def Fmt.maxCode (f : Fmt) : Nat := if f.e4m3 then 0x7E else f.infCode - 1
/-- The canonical quiet NaN (R85). -/
def Fmt.qnan (f : Fmt) : Nat := if f.e4m3 then 0x7F else f.infCode + 2 ^ (f.frac - 1)
/-- The poison NaN (R85); e4m3 has none and takes its NaN. -/
def Fmt.poison (f : Fmt) : Nat := f.infCode + (2 ^ f.frac - 1)
/-- The sign bit's weight. -/
def Fmt.signBit (f : Fmt) : Nat := 2 ^ (f.width - 1)
/-- A code with a sign. -/
def Fmt.signed (f : Fmt) (neg : Bool) (code : Nat) : Nat := if neg then code + f.signBit else code

/-- The formats to which FTZ applies (R89). -/
def Fmt.flushes (f : Fmt) : Bool := f == Fmt.f32 || f == Fmt.f16 || f == Fmt.bf16

/-- What a code stands for: a NaN, an infinity, or ±m·2^e, with m = 0 for a zero. -/
inductive Fv where
  | nan (code : Nat)
  | inf (neg : Bool)
  | fin (neg : Bool) (m : Nat) (e : Int)
  deriving DecidableEq, Repr

/-- The value of a code (R84, R86). -/
def Fmt.val (f : Fmt) (x : Nat) : Fv :=
  let code := x % 2 ^ f.width
  let neg := code.testBit (f.width - 1)
  let mag := code % f.signBit
  let ef := mag / 2 ^ f.frac
  let fr := mag % 2 ^ f.frac
  if f.e4m3 && mag == 0x7F then .nan code
  else if !f.e4m3 && ef == 2 ^ f.exp - 1 then (if fr == 0 then .inf neg else .nan code)
  else if ef == 0 then .fin neg fr f.qmin
  else .fin neg (2 ^ f.frac + fr) ((ef : Int) - f.bias - f.frac)

/-- A NaN whose quiet bit is clear; e4m3 has none (R85, R86). -/
def Fmt.isSnan (f : Fmt) (code : Nat) : Bool := !f.e4m3 && !code.testBit (f.frac - 1)

/-- The NaN with its quiet bit set (R111). -/
def Fmt.quiet (f : Fmt) (code : Nat) : Nat :=
  if f.e4m3 || code.testBit (f.frac - 1) then code else code + 2 ^ (f.frac - 1)

/-- In-band poison of a floating-point format: its poison NaN of either sign, and never an e4m3 code
(R85, R107). -/
def Fmt.isPoison (f : Fmt) (x : Nat) : Bool := !f.e4m3 && x % f.signBit == f.poison

/-- A NaN carried into another format (R92): sign kept, payload cut or widened, quieted. -/
def nanTo (f g : Fmt) (code : Nat) : Nat :=
  let neg := code.testBit (f.width - 1)
  if g.e4m3 then g.signed neg 0x7F
  else
    let fr := code % 2 ^ f.frac
    let pay := if g.frac ≤ f.frac then fr >>> (f.frac - g.frac) else fr <<< (g.frac - f.frac)
    g.quiet (g.signed neg (g.infCode + pay))

/-! ### Flags and modes (R87, R88) -/

/-- IV, DZ, OF, UF, IX from bit 4 down (R88). -/
abbrev Flags := BitVec 5
def flagIV : Flags := 16
def flagDZ : Flags := 8
def flagOF : Flags := 4
def flagUF : Flags := 2
def flagIX : Flags := 1

/-- Rounding modes (R87). -/
inductive Rm where
  | rne | rtz | rup | rdn
  deriving DecidableEq, Repr

/-- The rounding mode of a code (R87). -/
def Rm.of (x : BitVec 2) : Rm := match x with
  | 0 => .rne | 1 => .rtz | 2 => .rup | _ => .rdn

/-! ### Rounding (R90, R111) -/

/-- A non-zero exact magnitude num/den with a sign. -/
structure Exact where
  neg : Bool
  num : Nat
  den : Nat
  deriving DecidableEq, Repr

/-- ±m·2^e, exactly. -/
def Exact.dyadic (neg : Bool) (m : Nat) (e : Int) : Exact :=
  if 0 ≤ e then ⟨neg, m * 2 ^ e.toNat, 1⟩ else ⟨neg, m, 2 ^ (-e).toNat⟩

/-- ⌊log2 (num/den)⌋ for a non-zero value. -/
def floorLog2 (num den : Nat) : Int :=
  let g : Int := (num.log2 : Int) - den.log2
  if 0 ≤ g then (if num < den * 2 ^ g.toNat then g - 1 else g)
  else if num * 2 ^ (-g).toNat < den then g - 1 else g

/-- The magnitude as a multiple of 2^k, rounded, and whether it changed (R111). -/
def roundMul (rm : Rm) (neg : Bool) (num den : Nat) (k : Int) : Nat × Bool :=
  let n := if 0 ≤ k then num else num * 2 ^ (-k).toNat
  let d := if 0 ≤ k then den * 2 ^ k.toNat else den
  let q := n / d
  let r := n % d
  let up : Bool := match rm with
    | .rne => if 2 * r = d then q % 2 == 1 else decide (d < 2 * r)
    | .rtz => false
    | .rup => !neg && r != 0
    | .rdn => neg && r != 0
  (if up then q + 1 else q, r != 0)

/-- The replacement of a result beyond the largest finite value (R90). -/
def Fmt.overflow (f : Fmt) (rm : Rm) (neg : Bool) : Nat :=
  let toInf : Bool := match rm with
    | .rne => true
    | .rtz => false
    | .rup => !neg
    | .rdn => neg
  f.signed neg (if toInf then (if f.e4m3 then 0x7F else f.infCode) else f.maxCode)

/-- An infinite result (R111). -/
def Fmt.infinity (f : Fmt) (neg : Bool) : Nat := f.signed neg (if f.e4m3 then 0x7F else f.infCode)

/-- The exact magnitude lies below the smallest normal (R88). -/
def Fmt.tiny (f : Fmt) (x : Exact) : Bool := decide (floorLog2 x.num x.den < f.emin)

/-- round_fp of a non-zero exact value (R111). -/
def roundFp (f : Fmt) (rm : Rm) (x : Exact) : Nat × Flags :=
  let e := max (floorLog2 x.num x.den) f.emin
  let k := e - f.frac
  let (n, inexact) := roundMul rm x.neg x.num x.den k
  -- n·2^k, where n may have reached 2^(frac+1)
  let code := n + (e - f.emin).toNat * 2 ^ f.frac
  if f.maxCode < code then (f.overflow rm x.neg, flagOF ||| flagIX)
  else
    (f.signed x.neg code,
      if inexact then (if f.tiny x then flagUF ||| flagIX else flagIX) else 0)

/-- The result with FTZ applied to the output (R89): a tiny result becomes a zero of its sign. -/
def roundFtz (f : Fmt) (rm : Rm) (ftz : Bool) (x : Exact) : Nat × Flags :=
  if ftz && f.flushes && f.tiny x then (f.signed x.neg 0, flagUF ||| flagIX) else roundFp f rm x

/-- FTZ applied to an operand (R89). -/
def Fmt.ftzIn (f : Fmt) (ftz : Bool) (x : Nat) : Nat :=
  let mag := x % f.signBit
  if ftz && f.flushes && mag / 2 ^ f.frac == 0 then x % 2 ^ f.width - mag else x

/-! ### Sums of terms (R108) -/

/-- A term of an exact sum: ±m·2^e. -/
structure Term where
  neg : Bool
  m : Nat
  e : Int
  deriving DecidableEq, Repr

/-- The exact sum of terms as an integer multiple of 2^e, e the least exponent. -/
def sumTerms (ts : List Term) : Int × Int :=
  let e := ts.foldl (fun acc t => if t.m = 0 then acc else min acc t.e) (ts.foldl (fun a t => max a t.e) 0)
  (ts.foldl (fun acc t =>
    if t.m = 0 then acc
    else
      let v : Int := (t.m : Int) * (2 ^ (t.e - e).toNat : Nat)
      if t.neg then acc - v else acc + v) 0, e)

/-- The sign of an exact zero sum (R108). -/
def zeroSign (rm : Rm) (ts : List Term) : Bool :=
  if ts.all fun t => t.m = 0 && t.neg then true
  else if ts.all fun t => t.m = 0 && !t.neg then false
  else rm == .rdn

/-- The terms summed exactly and rounded once (R108, R111). -/
def roundSum (f : Fmt) (rm : Rm) (ftz : Bool) (ts : List Term) : Nat × Flags :=
  let (v, e) := sumTerms ts
  if v = 0 then (f.signed (zeroSign rm ts) 0, 0)
  else roundFtz f rm ftz (Exact.dyadic (decide (v < 0)) v.natAbs e)

/-- The first NaN of a list of codes, quieted (R92). -/
def nanPick (f : Fmt) (xs : List Nat) : Option Nat :=
  (xs.find? fun x => match f.val x with | .nan _ => true | _ => false).map
    (fun x => f.quiet (x % 2 ^ f.width))

/-- IV when some operand is a signalling NaN (R92). -/
def snanFlag (f : Fmt) (xs : List Nat) : Flags :=
  if xs.any fun x => match f.val x with | .nan c => f.isSnan c | _ => false then flagIV else 0

/-! ### Arithmetic of one element (R209) -/

/-- Add; with neg the second operand's sign is inverted (subtract). -/
def fAdd (f : Fmt) (rm : Rm) (ftz : Bool) (a b : Nat) (neg : Bool) : Nat × Flags :=
  let a := f.ftzIn ftz a
  let b := f.ftzIn ftz b
  match nanPick f [a, b] with
  | some n => (n, snanFlag f [a, b])
  | none =>
    match f.val a, f.val b with
    | .inf s, .inf t => if s = (t != neg) then (f.infinity s, 0) else (f.qnan, flagIV)
    | .inf s, _ => (f.infinity s, 0)
    | _, .inf t => (f.infinity (t != neg), 0)
    | .fin s m e, .fin t n g => roundSum f rm ftz [⟨s, m, e⟩, ⟨t != neg, n, g⟩]
    | _, _ => (f.qnan, 0)

/-- Multiply. -/
def fMul (f : Fmt) (rm : Rm) (ftz : Bool) (a b : Nat) : Nat × Flags :=
  let a := f.ftzIn ftz a
  let b := f.ftzIn ftz b
  match nanPick f [a, b] with
  | some n => (n, snanFlag f [a, b])
  | none =>
    match f.val a, f.val b with
    | .inf s, .inf t => (f.infinity (s != t), 0)
    | .inf s, .fin t m _ => if m = 0 then (f.qnan, flagIV) else (f.infinity (s != t), 0)
    | .fin s m _, .inf t => if m = 0 then (f.qnan, flagIV) else (f.infinity (s != t), 0)
    | .fin s m e, .fin t n g =>
      if m * n = 0 then (f.signed (s != t) 0, 0)
      else roundFtz f rm ftz (Exact.dyadic (s != t) (m * n) (e + g))
    | _, _ => (f.qnan, 0)

/-- a·b ± c exactly and rounded once; negC subtracts c, negR negates the result (R93). -/
def fMa (f : Fmt) (rm : Rm) (ftz : Bool) (a b c : Nat) (negC negR : Bool) : Nat × Flags :=
  let a := f.ftzIn ftz a
  let b := f.ftzIn ftz b
  let c := f.ftzIn ftz c
  let r : Nat × Flags :=
    match nanPick f [a, b, c] with
    | some n => (n, snanFlag f [a, b, c])
    | none =>
      match f.val a, f.val b, f.val c with
      | .fin s m e, .fin t n g, .fin u k h =>
        roundSum f rm ftz [⟨s != t, m * n, e + g⟩, ⟨u != negC, k, h⟩]
      | .fin _ _ _, .fin _ _ _, .inf u => (f.infinity (u != negC), 0)
      | x, y, z =>
        let zero : Fv → Bool := fun v => match v with | .fin _ m _ => m == 0 | _ => false
        let sgn : Fv → Bool := fun v => match v with | .fin s _ _ => s | .inf s => s | .nan _ => false
        if zero x || zero y then (f.qnan, flagIV)
        else match z with
          | .inf u => if (u != negC) = (sgn x != sgn y) then (f.infinity (u != negC), 0) else (f.qnan, flagIV)
          | _ => (f.infinity (sgn x != sgn y), 0)
  (if negR then r.1 ^^^ f.signBit else r.1, r.2)

/-- Divide (R209): a finite non-zero dividend by zero raises DZ. -/
def fDiv (f : Fmt) (rm : Rm) (ftz : Bool) (a b : Nat) : Nat × Flags :=
  let a := f.ftzIn ftz a
  let b := f.ftzIn ftz b
  match nanPick f [a, b] with
  | some n => (n, snanFlag f [a, b])
  | none =>
    match f.val a, f.val b with
    | .inf _, .inf _ => (f.qnan, flagIV)
    | .inf s, .fin t _ _ => (f.infinity (s != t), 0)
    | .fin s _ _, .inf t => (f.signed (s != t) 0, 0)
    | .fin s m e, .fin t n g =>
      if n = 0 then (if m = 0 then (f.qnan, flagIV) else (f.infinity (s != t), flagDZ))
      else if m = 0 then (f.signed (s != t) 0, 0)
      else
        let x := Exact.dyadic (s != t) m (e - g)
        roundFtz f rm ftz ⟨x.neg, x.num, x.den * n⟩
    | _, _ => (f.qnan, 0)

/-- ⌊√n⌋ by bisection over the bits from k down. -/
def isqrtFrom (n : Nat) : Nat → Nat → Nat
  | 0, r => r
  | k + 1, r =>
    let t := r + 2 ^ k
    isqrtFrom n k (if t * t ≤ n then t else r)

/-- ⌊√n⌋. -/
def isqrt (n : Nat) : Nat := isqrtFrom n (n.log2 / 2 + 1) 0

/-- An exact stand-in for √(m·2^e), m > 0, that rounds as the root does in every format: the root cut
at 80 fraction bits below the value's own size, with an odd last bit when it is not exact. -/
def sqrtExact (m : Nat) (e : Int) : Exact :=
  let m' := if e % 2 = 0 then m else 2 * m
  let e' := if e % 2 = 0 then e else e - 1
  let r := isqrt (m' * 2 ^ 160)
  let odd := if r * r = m' * 2 ^ 160 then 0 else 1
  Exact.dyadic false (2 * r + odd) (e' / 2 - 81)

/-- Square root (R209). -/
def fSqrt (f : Fmt) (rm : Rm) (ftz : Bool) (a : Nat) : Nat × Flags :=
  let a := f.ftzIn ftz a
  match nanPick f [a] with
  | some n => (n, snanFlag f [a])
  | none =>
    match f.val a with
    | .inf s => if s then (f.qnan, flagIV) else (f.infinity false, 0)
    | .fin s m e =>
      if m = 0 then (f.signed s 0, 0)
      else if s then (f.qnan, flagIV)
      else roundFtz f rm ftz (sqrtExact m e)
    | .nan _ => (f.qnan, 0)

/-- Order of two non-NaN codes: less, equal or greater as −1, 0, 1, with −0 equal to +0. -/
def fOrder (f : Fmt) (a b : Nat) : Int :=
  let key : Fv → Int × Nat × Int := fun v => match v with
    | .inf s => (if s then -1 else 1, 1, 0)
    | .fin s m e => (if m = 0 then 0 else if s then -1 else 1, m, e)
    | .nan _ => (0, 0, 0)
  let mag : Nat → Nat := fun x => x % f.signBit
  let (s, _, _) := key (f.val a)
  let (t, _, _) := key (f.val b)
  if s < t then -1 else if t < s then 1
  else if s = 0 then 0
  else if mag a = mag b then 0
  else if (decide (mag a < mag b)) = decide (0 < s) then -1 else 1

/-- The pairwise tree with RNE at each node (R110). The fuel bounds the depth. Of one value, which no node adds, the
sum is that value as it stands, a subnormal under FTZ and a signalling NaN too: R110 with R89 and R92 do not settle
it (log 77). -/
def pwSum (f : Fmt) (ftz : Bool) : Nat → List Nat → Nat × Flags
  | 0, xs => (xs.headD 0, 0)
  | _ + 1, [] => (0, 0)
  | _ + 1, [x] => (x, 0)
  | n + 1, xs =>
    let h := 2 ^ ((xs.length - 1).log2)
    let l := pwSum f ftz n (xs.take h)
    let r := pwSum f ftz n (xs.drop h)
    let s := fAdd f .rne ftz l.1 r.1 false
    (s.1, l.2 ||| r.2 ||| s.2)

/-- A finite code as a term. -/
def Fmt.term (f : Fmt) (x : Nat) : Term := match f.val x with
  | .fin s m e => ⟨s, m, e⟩
  | _ => ⟨false, 0, 0⟩

/-- A code of one format rounded into another, NaNs and infinities kept (R92, R111). -/
def fConvert (f g : Fmt) (rm : Rm) (ftz : Bool) (x : Nat) : Nat × Flags :=
  let x := f.ftzIn ftz x
  match f.val x with
  | .nan c => (nanTo f g c, if f.isSnan c then flagIV else 0)
  | .inf s => (g.infinity s, 0)
  | .fin s m e => if m = 0 then (g.signed s 0, 0) else roundFtz g rm ftz (Exact.dyadic s m e)

/-- An integer multiple of 2^e rounded once (R108: an exact zero here is +0). -/
def roundInt (f : Fmt) (rm : Rm) (x : Int) (e : Int) : Nat × Flags :=
  if x = 0 then (0, 0) else roundFp f rm (Exact.dyadic (decide (x < 0)) x.natAbs e)

/-! ### Narrow integers and block scales (R94, R95) -/

/-- The value of a q code of w bits (4, 8, 12) and none for its invalid code (R94). -/
def qVal (w code : Nat) : Option Int :=
  let c := code % 2 ^ w
  if c = 2 ^ (w - 1) then none else some (signedOf w c)

/-- Bits a q element occupies (R94). -/
def qWidth (w : Nat) : Nat := if w = 12 then 16 else w

/-- The code of a value in range, sign-extended into its container (R94). -/
def qCode (w : Nat) (x : Int) : Nat := wrap (qWidth w) x

/-- The invalid code in its container (R94). -/
def qInvalid (w : Nat) : Nat := if w = 12 then 0xF800 else 2 ^ (w - 1)

/-- The largest value of a q format (R94). -/
def qMax (w : Nat) : Nat := 2 ^ (w - 1) - 1

/-- An se8 scale as (8 + m)·2^(e−18), and none for 0xFF (R95). -/
def se8Val (code : Nat) : Option (Nat × Int) :=
  let c := code % 256
  if c = 255 then none else some (8 + c % 8, (c / 8 : Nat) - 18)

/-! ### Residues (R98, R99) -/

def rxM : Nat := 1023 * 1024 * 1025
def rxPoison : Nat := 0x80000000

/-- Poison of an rx32 word (R98). -/
def rxBad (w : Nat) : Bool :=
  w.testBit 31 || w % 1024 == 1023 || decide (1024 < w / 2 ^ 20 % 2 ^ 11)

/-- The channels A, B, C of a word (R98). -/
def rxA (w : Nat) : Nat := w % 1024
def rxB (w : Nat) : Nat := w / 2 ^ 10 % 1024
def rxC (w : Nat) : Nat := w / 2 ^ 20 % 2048

/-- The word of three channels. -/
def rxWord (a b c : Nat) : Nat := a + 2 ^ 10 * b + 2 ^ 20 * c

/-- The word of an integer (R98, R111). -/
def rxFromInt (x : Int) : Nat := rxWord (x % 1023).toNat (x % 1024).toNat (x % 1025).toNat

/-- Reconstruction (R99). -/
def rxToInt (w : Nat) : Int :=
  let x := (537395200 * rxA w + 1072692225 * rxB w + 537394176 * rxC w) % rxM
  if x < 536870400 then x else (x : Int) - rxM

/-! ### xa128 and xw320 (R100, R102, R103) -/

/-- Two's complement sum of n bits and its overflow indication (R102). -/
def addOv (n : Nat) (a b : Int) : Int × Bool :=
  let s := a + b
  (signedOf n (wrap n s), decide (s < -(2 ^ (n - 1) : Nat)) || decide ((2 ^ (n - 1) : Nat) ≤ s))

/-- xa_add (R102). -/
def xaAdd (a b : BitVec 128) : BitVec 128 × Bool :=
  let r := addOv 128 a.toInt b.toInt
  (BitVec.ofInt 128 r.1, r.2)

end Sys2Proof.Machine
end

