-- ==== Sys2Proof/Machine/Operands.lean ====
section
/-!
DEFINITION. How a unit issues: what each field of an instruction word may hold (R53 to R56, R69),
the checks of a unit in the order of R77, prefixes (R59 to R65), the lanes that act (R167), the
registers, register lines and queue ports it reads and writes (R143, R164, R186), word poison
(R105, R196, R259), and what the end of a unit does (R60, R62, R67).
-/

namespace Sys2Proof.Machine

/-! ### Meanings as actions -/

/-- How a unit ends early: a tenant-visible trap with its TVAL, none where the manual gives that cause
no TVAL, or with what the trap does beside; a system fault; or a wait at issue with what starts meanwhile. -/
inductive Stop where
  | trap (cause : BitVec 8) (tval : Option Word)
  | trapWith (cause : BitVec 8) (tval : Word) (does : State → State)
  | pilot (cause : BitVec 8) (tval : Word)
  | hold (w : Wait) (starts : State → State)

/-- An action of a unit: it may change the state or stop, and a stop undoes the unit. -/
abbrev Act := StateT State (Except Stop)

def stop {α : Type} (x : Stop) : Act α := fun _ => .error x
/-- A trap with the TVAL its chapter gives. -/
def trap {α : Type} (cause : BitVec 8) (tval : Word) : Act α := stop (.trap cause (some tval))
/-- A trap whose chapter gives no TVAL. -/
def trapFree {α : Type} (cause : BitVec 8) : Act α := stop (.trap cause none)
def hold {α : Type} (w : Wait) (starts : State → State := id) : Act α := stop (.hold w starts)
def modCur (f : Agent → Agent) : Act Unit := modify fun s => { s with cur := f s.cur }

/-! ### Registers (R54, R56) -/

/-- Registers a field may name: bit 0 v, bit 1 s, bit 2 k. -/
abbrev Banks := Nat
def bankV : Banks := 1
def bankS : Banks := 2
def bankK : Banks := 4
def bankVS : Banks := 3
def bankSK : Banks := 6
def bankVSK : Banks := 7

/-- The bank of a register field. -/
def bankOfReg (n : Nat) : Banks := if n < 96 then bankV else if n < 120 then bankS else bankK

/-- The number lies in one of the banks. -/
def inBanks (n : Nat) (b : Banks) : Bool := bankOfReg n &&& b != 0

/-- What a field of an instruction word holds. -/
inductive Fld where
  /-- nothing: zero (R53) -/
  | zero
  /-- part of an immediate -/
  | imm
  /-- a small number with these bits -/
  | sel (mask : Nat)
  /-- a source register; with pass, its word poison does not trap (R105) -/
  | src (b : Banks) (pass : Bool)
  /-- a register that is only named, neither read nor written (R187) -/
  | name (b : Banks)
  /-- a destination register -/
  | dst (b : Banks)
  /-- a destination that is read before it is written (R194) -/
  | upd (b : Banks)
  /-- a special register number (R58) -/
  | spr
  deriving DecidableEq, Repr

/-- A source that traps for word poison. -/
abbrev Fld.use (b : Banks) : Fld := .src b false

/-- The field holds a register number. -/
def Fld.isReg : Fld → Bool
  | .src _ _ | .name _ | .dst _ | .upd _ => true
  | _ => false

/-- The field is read as a register. -/
def Fld.isRead : Fld → Bool
  | .src _ _ | .upd _ => true
  | _ => false

/-- The field is written as a register. -/
def Fld.isWritten : Fld → Bool
  | .dst _ | .upd _ => true
  | _ => false

/-- The form of an instruction: its fields, whether f (or L) is free, whether a vector source may go
with a scalar destination (R56), whether it acts once for the gang (R168, R259), and values of the
fields that raise 0x02 or 0x0B beside the fields' own. -/
structure Form where
  d : Fld
  a : Fld
  b : Fld
  f : Nat := 0
  narrow : Bool := false
  once : Bool := false
  bad : Nat → Nat → Nat → Nat → Bool := fun _ _ _ _ => false
  /-- registers implied by d and a that leave their bank (0x0B) -/
  worse : Nat → Nat → Bool := fun _ _ => false

/-- d, a, b of a form whose f is a function code or a number. -/
def form (d a b : Fld) : Form := { d := d, a := a, b := b, f := 15 }

/-- A form that acts once for the gang. -/
def formOnce (d a b : Fld) : Form := { d := d, a := a, b := b, f := 15, once := true }

/-- Forms of the sequencer, the context store and the scheduler: majors 0x00 to 0x0C (R155 to R187,
R355 to R363). -/
def formSeq (op d f : Nat) : Option Form :=
  match op with
  | 0x00 =>
    if f = 3 || f = 4 then some (formOnce .zero .imm .imm)
    else if f < 9 then some (formOnce .zero .zero .zero) else none
  | 0x01 | 0x02 => some {
      d := .imm, a := .imm, b := .imm, f := 15, once := true,
      -- mode 3 with a cc or a cond (R169)
      bad := fun d a _ _ => d / 32 == 3 && (d % 32 != 0 || a.testBit 6) }
  | 0x03 => match f with
    | 0 | 2 => some (formOnce .zero (.use bankVS) .zero)
    -- the target in a lane's register goes with a scalar link (R171, log 77)
    | 1 => some { formOnce (.dst bankS) (.use bankVS) .zero with narrow := true }
    | _ => none
  | 0x04 => match f with
    | 0 | 4 => some (formOnce (.dst bankS) (.sel 3) (.sel 15))
    | 1 => some (formOnce (.dst bankS) (.use bankS) .zero)
    | 2 => some (formOnce .zero (.use bankS) .zero)
    | 3 => some { formOnce (.dst bankS) (.use bankV) .zero with narrow := true }
    | _ => none
  | 0x05 => match f with
    | 0 => some (form (.dst bankVS) .spr .zero)
    | 1 => some (formOnce .spr (.use bankS) .zero)
    | _ => none
  | 0x06 => some { d := .sel 1, a := if d = 1 then .use bankS else .zero, b := .imm, f := 15, once := true }
  | 0x07 => some { d := .name bankV, a := .zero, b := .imm, f := 15, once := true }
  | 0x08 =>
    if f = 0 then
      some (if d = 1 then formOnce (.sel 1) .zero .zero else formOnce (.sel 1) (.name bankV) (.name bankV))
    else if f < 4 then some (formOnce .zero (.name bankV) (.name bankV)) else none
  | 0x09 => match f with
    | 0 | 1 => some (formOnce .zero .zero .zero)
    | 2 => some (formOnce (.dst bankS) (.use bankS) .zero)
    | _ => none
  | 0x0A => match f with
    | 0 => some { formOnce (.dst bankS) (.use bankS) .zero with worse := fun _ a => decide (116 < a) }
    | 1 => some (formOnce (.dst bankS) (.use bankS) .zero)
    | 2 => some (formOnce (.sel 1) (.use bankS) (if d = 1 then .use bankS else .zero))
    | 3 => some (formOnce .zero (.use bankS) .zero)
    | 4 => some (formOnce .zero .zero .zero)
    | _ => none
  | 0x0B =>
    if f = 0 then some { formOnce (.dst bankS) .zero .zero with worse := fun d _ => decide (116 < d) } else none
  | 0x0C => match f with
    | 0 => some (formOnce (.name bankK) (.use bankS) .zero)
    | 1 => some (formOnce (.dst bankS) (.name bankK) .zero)
    | 2 => some (formOnce (.name bankK) .zero .zero)
    | _ => none
  | _ => none

/-- Forms of the lane engine and the special function unit: majors 0x10 to 0x2E (R175, R176, R194 to
R240). full is false on a scalar-profile agent. A destination to which the manual gives no bank of its own names a
v or s register, or a k register where it is not read: the vd of DOT, RESID, QNTV and XCONV (R217), and the results of
VOTE and of the reductions (R228), which go to the queue (log 77). -/
def formLane (full : Bool) (op b f : Nat) : Option Form :=
  let vsk : Fld := .use bankVSK
  let lane : Fld := .dst (if full then bankV else bankS)
  match op with
  | 0x10 | 0x11 | 0x12 | 0x13 =>
    if f = 15 then some (form (.dst bankVSK) (.src bankVSK true) .zero)
    else some (form (.dst bankVSK) vsk vsk)
  | 0x14 =>
    if f = 3 || f = 7 then some (form (.upd bankVS) vsk vsk) else some (form (.dst bankVSK) vsk vsk)
  | 0x15 => some { form (.sel 15) vsk vsk with bad := fun _ _ _ f => f == 15 }
  | 0x17 | 0x1A => some (form (.dst bankVSK) vsk .imm)
  | 0x19 => some { form (.dst bankVSK) vsk .imm with
      bad := fun _ _ b f => b.testBit 4 || decide (64 >>> (b / 4 % 4) ≤ (b * 16 + f) % 64) }
  | 0x18 => some (form (.dst bankVSK) .zero .imm)
  -- the scalar profile names scalars alone (R176)
  | 0x1B => if full then some (form lane vsk vsk) else some (form lane (.use bankS) (.use bankS))
  | 0x1C => match f with
    | 0 => some (form (.sel 3) (.sel 3) .zero)
    | 1 | 2 => some (form (.sel 3) (.sel 63) (.sel 63))
    | 3 => some (form lane (.sel 3) .zero)
    | 4 => some (form (.sel 3) vsk .zero)
    | _ => none
  | 0x1D =>
    if f < 5 then some (form (.dst bankVSK) vsk .zero)
    else if f = 5 then some (form (.dst bankVSK) vsk vsk)
    else if f = 6 then some (form (.upd bankVS) vsk vsk) else none
  | 0x1E => if f = 0 then some (form (.dst bankVSK) vsk vsk) else none
  | 0x1F =>
    if f < 6 then some (form (.dst bankVSK) vsk .zero)
    else if f < 9 then some (form (.dst bankVSK) vsk vsk)
    else if f < 12 then some (form (.dst bankVSK) vsk (.sel 3)) else none
  | 0x20 | 0x21 | 0x22 | 0x23 =>
    if f < 3 || f = 7 || f = 8 || f = 11 || f = 12 then some (form (.dst bankVSK) vsk vsk)
    else if f < 7 then some (form (.upd bankVS) vsk vsk)
    else if f = 14 then
      some { form (.dst bankVSK) vsk (.sel 15) with
        bad := fun _ _ b _ => decide (1 ≤ b % 8) && decide (b % 8 ≤ 3) }
    else if f = 15 then some (form (.dst bankVSK) (.src bankVSK true) .zero)
    else some (form (.dst bankVSK) vsk .zero)
  | 0x24 => some { form (.sel 15) vsk vsk with bad := fun _ _ _ f => f == 15 }
  | 0x25 =>
    -- equal types, or both integer: no such function (R70)
    if b / 16 % 8 = b / 2 % 8 || (4 ≤ b / 16 % 8 && 4 ≤ b / 2 % 8) then none
    else some { d := .dst bankVSK, a := vsk, b := .sel 127,
                bad := fun _ _ b _ => b % 2 == 1 && decide (b / 16 % 8 < 4) && decide (b / 2 % 8 < 4) }
  | 0x26 => if f < 6 then some (form (.upd bankVS) vsk vsk) else none
  | 0x27 =>
    if f < 3 || f = 5 then some (form (.dst bankVSK) vsk vsk)
    else if f = 3 then some (form (.upd bankVS) vsk vsk)
    else if f = 4 then some (form (.dst bankVSK) vsk .zero) else none
  | 0x28 => match f with
    | 0 => some (form (.upd bankVS) vsk vsk)
    | 1 => some (form (.dst bankVSK) vsk vsk)
    | 2 | 5 => some (form (.dst bankVSK) vsk .zero)
    | 3 => some (form (.dst bankVSK) vsk (.sel 3))
    | 4 => some (form (.dst bankVSK) vsk (.sel 1))
    | 6 => some { form (.dst bankVSK) vsk (.sel 3) with bad := fun _ _ b _ => b == 3 }
    | _ => none
  | 0x29 =>
    if b = 2 || b = 3 then some (form (.upd bankVS) vsk .imm)
    else if b < 6 then some (form (.dst bankVSK) vsk .imm) else none
  | 0x2A =>
    if f < 3 then some (form (.dst bankV) (.src bankV true) vsk)
    else if f = 3 then some (form (.dst bankV) (.src bankV true) (.use bankS))
    else if f = 4 then some (form (.dst bankV) (.src bankV true) (.sel 3)) else none
  | 0x2B =>
    if f = 0 then some (form (.dst bankVSK) (.sel 3) (.sel 15))
    else if f < 11 then some { form (.dst bankVSK) (.use bankV) .zero with narrow := true }
    else if f < 15 then some (form (.dst bankV) (.use bankV) .zero) else none
  | 0x2C | 0x2D | 0x2E => if b < 12 then some (form (.dst bankVSK) vsk .imm) else none
  | _ => none

/-- Forms of the load-store engine: majors 0x30 to 0x3F (R122, R245, R249, R251). -/
def formMem (op f : Nat) : Option Form :=
  match op with
  | 0x30 | 0x31 | 0x32 | 0x33 | 0x3A => some (form (.dst bankVSK) (.use bankVS) .imm)
  | 0x34 => some (form (.dst bankV) (.use bankS) .imm)
  | 0x35 | 0x36 | 0x37 | 0x38 | 0x3B => some { d := .src bankVSK true, a := .use bankVS, b := .imm }
  | 0x39 => some { d := .src bankV true, a := .use bankS, b := .imm }
  | 0x3C | 0x3D =>
    if f = 10 then some (form (.upd bankVS) (.use bankVS) (.use bankVSK))
    else if f < 10 then some (form (.dst bankVS) (.use bankVS) (.use bankVSK))
    else none
  | 0x3E => if f < 5 then some (formOnce .zero .zero .zero) else none
  | 0x3F =>
    -- PREF never faults for what its operands hold (R251)
    if f = 0 then some (formOnce (.sel 1) (.src bankS true) (.src bankS true))
    else if f < 4 then some (formOnce .zero (.use bankS) (.use bankS)) else none
  | _ => none

/-- Forms of the carry chain: majors 0x40 to 0x43 (R269, R276, R277, R279). LTOF32, LTOF64 and LTOXA take a vector
alone, as R279 writes va and R271 lets a name s too (log 77). -/
def formChain (op f : Nat) : Option Form :=
  let g : Fld := .use bankVS
  let d : Fld := .dst bankV
  match op with
  | 0x40 => some (formOnce .zero .zero .imm)
  | 0x41 =>
    if f = 0 || f = 2 || (6 ≤ f && f < 9) then some (form d g g)
    else if f = 1 || f = 3 then some (form d g (.sel 3))
    else if f = 4 || f = 9 then some (form d g .zero)
    else if f = 5 then some (form (.sel 3) g g) else none
  | 0x42 =>
    if f = 1 then some (form (.upd bankV) g g) else if f < 4 then some (form d g g) else none
  | 0x43 => match f with
    | 0 => some (form (.upd bankV) g .zero)
    | 1 | 2 => some { form d (.use bankV) (.sel 3) with bad := fun _ _ b _ => b == 3 }
    | 3 => some (form d g g)
    | 4 => some (form d (.use bankV) (.sel 1))
    | 5 => some (form d g .zero)
    | _ => none
  | _ => none

/-- Forms of the copy engine, handles and the lath: majors 0x44 to 0x47 and 0x4C (R301, R311, R314,
R315, R290). -/
def formEngine (op f : Nat) : Option Form :=
  let s : Fld := .use bankS
  match op with
  | 0x44 => if f = 0 then
      some { formOnce (.name bankS) (.src bankS true) (.src bankS true) with worse := fun d _ => decide (118 < d) } else none
  | 0x45 => match f with
    | 0 | 2 => some (formOnce (.dst bankS) .zero .zero)
    | 1 => some (formOnce .zero s .zero)
    | _ => none
  | 0x46 => match f with
    | 0 | 1 => some (formOnce .zero s .zero)
    | 2 => some (formOnce (.dst bankS) s .zero)
    | _ => none
  | 0x47 => if f = 0 then some (formOnce (.src bankS true) (.src bankS true) (.src bankS true)) else none
  | 0x4C =>
    if f = 0 || f = 6 then some (formOnce (.sel 3) .zero s)
    else if f < 4 then some { formOnce (.sel 31) s s with worse := fun d a => decide (119 < a + d / 4 % 4) }
    else if f = 4 then some { formOnce (.sel 19) s s with worse := fun _ a => decide (119 < a + 1) }
    else if f = 5 then some (formOnce (.dst bankS) (.sel 3) .zero)
    else none
  | _ => none

/-- Forms of the matrix engine, the launch engine and the firmware cores: majors 0x48 to 0x4A and 0x4D to
0x4F (R190, R327, R329, R337, R376, R419). -/
def formMatrix (op d f : Nat) : Option Form :=
  let s : Fld := .use bankS
  match op with
  | 0x48 => some (formOnce (.sel 63) s s)
  | 0x49 => match f with
    | 0 => some (formOnce .zero s .zero)
    | 1 => some (formOnce (.sel 1) .zero .zero)
    | 2 => some { formOnce (if 120 ≤ d then .name bankK else .src bankS false) s .zero with worse := fun d _ => d == 119 }
    | 3 => some { formOnce (.dst bankS) .zero (.sel 3) with bad := fun _ _ b _ => b == 0 }
    | 4 => some (formOnce .zero .zero .zero)
    | _ => none
  | 0x4A => match f with
    | 0 => some (formOnce (.dst bankS) s .zero)
    | 1 => some (formOnce .zero s .zero)
    | _ => none
  | 0x4D => if f < 3 then some (formOnce .zero s .zero) else none
  | 0x4E => match f with
    | 0 => some (formOnce .zero s s)
    | 1 | 4 | 7 => some (formOnce (.dst bankS) s s)
    | 2 | 3 => some (formOnce (.dst bankS) s .zero)
    | 5 => some (formOnce (.dst bankS) .zero .zero)
    | 6 => some (formOnce (.upd bankS) s s)
    | _ => none
  | 0x4F => match f with
    | 0 => some (formOnce (.dst bankS) s .zero)
    | 1 | 2 => some (formOnce .zero s s)
    | 3 => some (formOnce .zero s .zero)
    | _ => none
  | _ => none

/-- The form of a word's instruction; none where its function code or major is not listed (R69). -/
def formOf (full : Bool) (op d b f : Nat) : Option Form :=
  if op < 0x10 then formSeq op d f
  else if op < 0x30 then formLane full op b f
  else if op < 0x40 then formMem op f
  else if op < 0x44 then formChain op f
  else if op < 0x48 || op = 0x4C then formEngine op f
  else formMatrix op d f

/-! ### Agents and prefixes (R57, R59, R65, R69) -/

/-- The major is legal on the agent (R69). -/
def legal (p : Profile) (op : Nat) : Bool :=
  match p with
  | .full => op != 0x48 && op != 0x49 && op != 0x4A && decide (op < 0x4D)
  | _ =>
    op < 4 || op == 5 || (0x10 ≤ op && op < 0x20) || (0x30 ≤ op && op < 0x40 && op != 0x34 && op != 0x39)
      || (p == .tile && (op == 0x0C || op == 0x46 || (0x48 ≤ op && op < 0x4B)))
      || (p == .launch && op == 0x4D) || (p == .firmware && (op == 0x4E || op == 0x4F))

/-- The major takes the GUARD prefix (R65). -/
def guardable (op : Nat) : Bool := 0x10 ≤ op && op < 0x40 && op != 0x16 && op != 0x2F

/-- The major is in I or M format, whose immediate IMMX widens (R61). -/
def immFormat (op : Nat) : Bool :=
  op == 6 || op == 7 || (0x17 ≤ op && op < 0x1B) || op == 0x40 || (0x30 ≤ op && op < 0x3C)

/-- The major takes the REP prefix (R65). -/
def repable (op : Nat) : Bool :=
  (0x10 ≤ op && op < 0x16) || op == 0x1B || op == 0x1D || (0x1F ≤ op && op < 0x25)
    || (0x26 ≤ op && op < 0x29) || op == 0x2A || op == 0x41 || op == 0x42

/-- The major takes the FLAGS prefix (R65). -/
def flaggable (op : Nat) : Bool :=
  (0x10 ≤ op && op < 0x15) || op == 0x17 || op == 0x1D || (0x20 ≤ op && op < 0x24) || op == 0x41 || op == 0x42

/-- The instruction takes a carry in: ADD, SUB, ADDI, LADD and LSUB (R63). -/
def carries (op f : Nat) : Bool :=
  (0x10 ≤ op && op < 0x14 && f < 2) || op == 0x17 || (op == 0x41 && (f == 0 || f == 2))

/-- The instruction takes the SCL prefix: the q forms of DOT, and QNTV but SCALEOF (R65, R217, R218,
R224). -/
def scalable (op f : Nat) : Bool := (op == 0x26 && (2 ≤ f && f < 5)) || (op == 0x28 && f < 6)

/-- Type of a prefix word (R51). -/
def ptype (w : IWord) : Nat := (w.extractLsb' 22 3).toNat
/-- Payload of a prefix word, from bit lo, len bits. -/
def pay (w : IWord) (lo len : Nat) : Nat := (w.extractLsb' lo len).toNat

/-- The prefix of a type in a unit. -/
def prefixOf (pfx : List IWord) (ty : Nat) : Option IWord := pfx.find? fun w => ptype w == ty

/-- The first prefix, in address order, that repeats a type, or is a third IMMX (R59). -/
def dupPrefix : List IWord → List IWord → Option IWord
  | _, [] => none
  | before, w :: ws =>
    let n := (before.filter fun x => ptype x == ptype w).length
    if n ≥ (if ptype w = 1 then 2 else 1) then some w else dupPrefix (w :: before) ws

/-- Payload bits that the prefix does not define are set (R59 to R64). -/
def payloadBad (w : IWord) : Bool :=
  match ptype w with
  | 0 => pay w 0 13 != 0
  | 2 => pay w 0 4 != 0
  | 3 => pay w 0 19 != 0
  | 4 => pay w 0 2 != 0
  | _ => false

/-- The prefix is accepted by the instruction (R63, R65). -/
def accepted (op f : Nat) (w : IWord) : Bool :=
  match ptype w with
  | 0 => guardable op
  | 1 => immFormat op
  | 2 => repable op
  -- R63 ranks a carry-in on LCMP before the field fault of R276 (log 25)
  | 3 => flaggable op && (pay w 19 1 == 0 || carries op f)
  | _ => scalable op f

/-- A signed 4-bit step of REP (R62). -/
def repStep (w : IWord) (lo : Nat) : Int := signedOf 4 (pay w lo 4)

/-- Iterations of REP (R62). -/
def repCount (pfx : List IWord) : Nat :=
  match prefixOf pfx 2 with
  | some w => if pay w 16 6 = 0 then 64 else pay w 16 6
  | none => 1

/-- A stepped field at iteration i (R62). -/
def stepped (n : Nat) (st : Int) (i : Nat) : Int := (n : Int) + st * i

/-- The immediate of an I- or M-format word, widened by IMMX (R61). -/
def immOf (pfx : List IWord) (op : Nat) (w : IWord) : Int :=
  let wd := if 0x30 ≤ op then 7 else 11
  let field := if 0x30 ≤ op && op != 0x40 then (w.extractLsb' 4 7).toNat else (w.extractLsb' 0 11).toNat
  let wd := if op = 0x40 then 11 else wd
  match pfx.filter fun p => ptype p == 1 with
  | [] => signedOf wd field
  | [p] => signedOf (22 + wd) (pay p 0 22 * 2 ^ wd + field)
  | p :: q :: _ => signedOf (44 + wd) ((pay p 0 22 * 2 ^ 22 + pay q 0 22) * 2 ^ wd + field)

/-! ### The lanes that act (R60, R66, R167) -/

/-- The truth of a condition on N, Z, C, V in bits 3 to 0 (R66). -/
def condHolds (k : Nat) (c : Nat) : Bool :=
  let n := c.testBit 3
  let z := c.testBit 2
  let cy := c.testBit 1
  let v := c.testBit 0
  match k with
  | 0 => z
  | 1 => !z
  | 2 => cy
  | 3 => !cy
  | 4 => n
  | 5 => !n
  | 6 => v
  | 7 => !v
  | 8 => cy && !z
  | 9 => !cy || z
  | 10 => n == v
  | 11 => n != v
  | 12 => !z && n == v
  | 13 => z || n != v
  | 14 => true
  | _ => false

/-- N, Z, C, V of condition register n of lane l (R137). -/
def ccOf (a : Agent) (l n : Nat) : Nat := (a.cc.getD l 0).toNat >>> (4 * n) % 16

/-- Lanes that EM and XM leave active; the one lane of a scalar-profile agent (R167, R188). -/
def Agent.live (a : Agent) : Mask := if a.prof == .full then a.em &&& ~~~a.xm else 1

/-- The guard that a unit issues under (R60): its own prefix, or the live span. -/
def guardOf (a : Agent) : Guard :=
  match prefixOf a.pfx 0 with
  | some w => ⟨true, w.extractLsb' 16 4, w.extractLsb' 20 2, 0⟩
  | none => a.guard

/-- The lanes whose guard condition holds, or all where the unit is not guarded (R60). -/
def guardMask (a : Agent) (op : Nat) : Mask :=
  let g := guardOf a
  if a.prof == .full && guardable op && g.live then
    maskOf fun l => condHolds g.cond.toNat (ccOf a l g.cc.toNat)
  else 0xFFFFFFFF

/-- The active set (R167). -/
def activeSet (a : Agent) (op : Nat) : Mask := a.live &&& guardMask a op

/-! ### The checks of a unit (R77) -/

/-- A field breaks R53: a number where zero or a smaller number must stand. -/
def fieldBad (x : Fld) (n : Nat) : Bool :=
  match x with
  | .zero => n != 0
  | .sel mask => n &&& (127 - mask) != 0
  | _ => false

/-- A register field names a bank it may not name (R56, R57). -/
def bankBad (full : Bool) (x : Fld) (n : Nat) : Bool :=
  let b : Option Banks := match x with
    | .src b _ | .name b | .dst b | .upd b => some b
    | _ => none
  match b with
  | some b => !inBanks n b || (!full && n < 96)
  | none => false

/-- The first fault of a unit in the order of R77, with its TVAL: the offending word (R76). The fetch
faults come before it, and 0x0A after it, in the instruction's own meaning. Two forms whose own rules let a scalar go
with a vector operand are no mixed units of R56: CALLR through a vector (R171), and ATOM with a scalar destination and
a scalar address while at most one lane is active (R249, log 77). -/
def unitFault (a : Agent) (w : IWord) (priv : Bool) : Option (BitVec 8 × Word) :=
  let full := a.prof == .full
  let op := (w.extractLsb' 25 7).toNat
  let d := (w.extractLsb' 18 7).toNat
  let ra := (w.extractLsb' 11 7).toNat
  let rb := (w.extractLsb' 4 7).toNat
  let f := (w.extractLsb' 0 4).toNat
  let word : Word := w.setWidth 64
  let tv := fun (x : IWord) => (x.setWidth 64 : Word)
  match a.pfx.find? (fun x => 5 ≤ ptype x) with
  | some p => some (0x07, tv p)
  | none =>
  match dupPrefix [] a.pfx with
  | some p => some (0x06, tv p)
  | none =>
  if 0x50 ≤ op && op < 0x7F then some (0x03, word) else
  match formOf full op d rb f with
  | none => some (0x01, word)
  | some fm =>
  if !legal a.prof op || (op == 0 && f == 7 && a.prof != .firmware) then some (0x04, word) else
  match (if full then none else a.pfx.find? fun x => ptype x == 0 || ptype x == 2 || ptype x == 4) with
  | some p => some (0x04, tv p)
  | none =>
  if priv || (op == 0 && f == 5 && !(full && a.trapc) && a.prof != .firmware) then some (0x05, word) else
  match a.pfx.find? (fun x => !accepted op f x) with
  | some p => some (0x08, tv p)
  | none =>
  match a.pfx.find? payloadBad with
  | some p => some (0x02, tv p)
  | none =>
  let rep := prefixOf a.pfx 2
  let sd := match rep with | some p => repStep p 12 | none => 0
  let sa := match rep with | some p => repStep p 8 | none => 0
  let sb := match rep with | some p => repStep p 4 | none => 0
  if fieldBad fm.d d || fieldBad fm.a ra || fieldBad fm.b rb || f &&& (15 - fm.f) != 0 || fm.bad d ra rb f then
    some (0x02, word) else
  let imm := immOf a.pfx op w
  if op == 0x19 && (prefixOf a.pfx 1).isSome && (decide (imm < 0) || decide (2047 < imm)) then some (0x02, word) else
  let cmp := if op == 0x41 && f == 5 then prefixOf a.pfx 3 else none
  if cmp.any fun p => pay p 20 2 != d then some (0x02, tv (cmp.getD 0)) else
  if (sd != 0 && !fm.d.isReg) || (sa != 0 && !fm.a.isReg) || (sb != 0 && !fm.b.isReg) then
    some (0x02, tv (rep.getD 0)) else
  let scl := prefixOf a.pfx 4
  let sclRegs := match scl with | some p => (pay p 15 7, pay p 8 7) | none => (0, 0)
  if scl.isSome && op == 0x28 && (sclRegs.2 != 0 || pay (scl.getD 0) 2 3 != 0) then
    some (0x02, tv (scl.getD 0)) else
  let n := repCount a.pfx
  let regs := [(fm.d, d, sd), (fm.a, ra, sa), (fm.b, rb, sb)]
  -- a number that has left its bank is no port (0x09)
  let ks := fun (i : Nat) => ((regs.filter fun r => r.1.isReg && 120 ≤ r.2.1).map fun r => stepped r.2.1 r.2.2 i).filter
    fun x => decide (120 ≤ x) && decide (x ≤ 127)
  let dupK := (List.range n).any fun i => !(ks i).Nodup
  let srcV := (fm.d.isRead && d < 96) || (fm.a.isRead && ra < 96) || (fm.b.isRead && rb < 96)
    || (scl.isSome && (sclRegs.1 < 96 || (op == 0x26 && sclRegs.2 < 96)))
  let mixed := srcV && fm.d.isWritten && bankOfReg d == bankS && !fm.narrow
    && !((op == 0x3C || op == 0x3D) && 96 ≤ ra && (lanesIn (activeSet a op)).length ≤ 1)
  if bankBad full fm.d d || bankBad full fm.a ra || bankBad full fm.b rb || dupK || mixed || fm.worse d ra
      || (full && op == 0x05 && f == 0 && ra == 11 && 96 ≤ d) then some (0x0B, word) else
  if scl.isSome && (120 ≤ sclRegs.1 || 120 ≤ sclRegs.2) then some (0x0B, tv (scl.getD 0)) else
  if (fm.d == .spr && 25 ≤ d) || (fm.a == .spr && 25 ≤ ra) then some (0x0C, word) else
  let leaves := fun (r : Fld × Nat × Int) => r.1.isReg && (List.range n).any fun i =>
    let x := stepped r.2.1 r.2.2 i
    decide (x < 0) || decide (127 < x) || bankOfReg x.toNat != bankOfReg r.2.1
  if regs.any leaves then some (0x09, tv (rep.getD 0)) else none

/-! ### A unit at issue -/

/-- A unit at issue: its word and stepped fields, the lanes that act, its sources with their word
poison, its immediate, its FLAGS target and carry-in enable, its SCL bytes, the iteration, and its
addresses. -/
structure U where
  w : IWord
  op : Nat
  d : Nat
  a : Nat
  b : Nat
  f : Nat
  act : Mask
  vd : Lanes
  va : Lanes
  vb : Lanes
  pd : Mask
  pa : Mask
  pb : Mask
  imm : Int
  flags : Option (Nat × Bool)
  scl : Option (Lanes × Lanes)
  iter : Nat
  count : Nat
  at_ : Word
  here : Word
  next : Word
  full : Bool
  form : Form

/-- Lanes per group of a binding as LS gives it, none when unbound (R268). -/
def groupOf (ls : BitVec 8) : Option Nat := if ls.getLsbD 7 then some (2 ^ (ls.toNat % 8)) else none

/-- Lanes per bound group of an agent. -/
def groupSize (a : Agent) : Option Nat := groupOf a.ls

/-- The lanes of every group of n lanes in which a mask is not uniform (R273). -/
def splitBy (n : Nat) (x : Mask) : Mask := maskOf fun l =>
  let ls := (List.range n).map (l / n * n + ·)
  !(ls.all (has x)) && ls.any (has x)

/-- The lanes of the bound groups that a mask would split. -/
def splitLanes (a : Agent) (x : Mask) : Mask :=
  match groupSize a with
  | none => 0
  | some n => splitBy n x

/-- The lanes of every bound group that EM, XM or a live guard condition splits (R167, R273). -/
def splitAt (a : Agent) (op : Nat) : Mask :=
  if a.prof == .full then splitLanes a a.em ||| splitLanes a a.xm ||| splitLanes a (guardMask a op) else 0

/-- Checks before word poison: for the carry chain 0x52 when not bound and 0x53 for a limb count other
than 8 (R271, R279); for the lath 0x80 for a channel the grid does not hold (R292). -/
def earlyCheck (s : State) (a : Agent) (op d ra f b : Nat) : Option (BitVec 8 × Option Word) :=
  if op = 0x4C then
    let n := (if f = 5 then ra else d) % 4
    match s.gridOf a.grid with
    | some g => if n < g.lath.length then none else some (0x80, some (BitVec.ofNat 64 n))
    | none => some (0x80, some (BitVec.ofNat 64 n))
  else if op < 0x41 || 0x43 < op then none
  else if (groupSize a).isNone then some (0x52, none)
  else if op = 0x43 && (f = 0 || ((f = 1 || f = 2) && b = 1)) && groupSize a != some 8 then
    some (0x53, some (a.ls.setWidth 64))
  else none

/-- The lanes of d, a and b that a form reads: the carry chain reads limb 0 alone of a 64-bit operand,
and limbs 0 to 5 of an accumulator, as a destination and as the source of LTOF (R271, R276 to R282). A scalar that
stands for a 64-bit operand is poisoned in those limb-0 lanes (log 77). -/
def readLimbs (a : Agent) (op f b : Nat) : Mask × Mask × Mask :=
  let n := (groupSize a).getD 1
  let all : Mask := 0xFFFFFFFF
  let zero := maskOf fun l => l % n == 0
  if op = 0x41 && 6 ≤ f && f ≤ 8 then (all, all, zero)
  else if op = 0x42 && f < 2 then (all, all, zero)
  else if op = 0x43 && f = 0 then (maskOf fun l => l % 8 < 6, all, all)
  else if op = 0x43 && (f = 1 || f = 2) && b = 1 then (all, maskOf fun l => l % 8 < 6, all)
  else if op = 0x43 && (f = 3 || f = 5) then (all, zero, zero)
  else (all, all, all)

/-! ### Queue ports (R185, R186, R187) -/

/-- The team and queue a port names now, or the cause its use raises. -/
def portOf (s : State) (a : Agent) (n : Nat) (push : Bool) : Except (BitVec 8) (Team × Nat) :=
  let k := a.kbyte n
  if !k.getLsbD 7 then .error 0x90
  else if k.getLsbD 6 != push then .error 0x91
  else match s.portTeam a (a.kcore.extractLsb' (2 * n) 2).toNat with
    | some t => .ok (t, k.toNat % 64)
    | none => .error 0x8F

/-- HEAD, TAIL and CLOSED of a queue (R185). -/
def qHead (m : Mem) (q : Nat) : Nat := m.read (4096 * q) 8
def qTail (m : Mem) (q : Nat) : Nat := m.read (4096 * q + 8) 8
def qClosed (m : Mem) (q : Nat) : Bool := (m.byte (4096 * q + 0x10)).getLsbD 0
/-- Entries held, modulo 2^64. -/
def qCount (m : Mem) (q : Nat) : Nat := (qTail m q + 2 ^ 64 - qHead m q) % 2 ^ 64
/-- The address of the entry of count n. -/
def qEntry (q n : Nat) : Nat := 4096 * q + 0x100 + 256 * (n % 15)

/-- The lanes of an entry with their marks. -/
def entryRead (m : Mem) (at_ : Nat) : Lanes × Mask :=
  (lanesOf fun l => BitVec.ofNat 64 (m.read (at_ + 8 * l) 8), maskOf fun l => m.marked (at_ + 8 * l))

/-- An entry of 256 bytes written with its marks. -/
def entryWrite (m : Mem) (at_ : Nat) (v : Lanes) (p : Mask) : Mem :=
  (List.range 32).foldl (fun acc l => acc.store (at_ + 8 * l) 0xFF (lane v l) (has p l)) m

/-- One entry pushed into a queue with room (R186). -/
def State.push (s : State) (team q : Nat) (v : Lanes) (p : Mask) : State :=
  (s.modTeam team fun t =>
    let n := qTail t.scratch q
    { t with scratch := (entryWrite t.scratch (qEntry q n) v p).write (4096 * q + 8) 8 ((n + 1) % 2 ^ 64) }).queueEvent
      team q

/-- The next entry popped (R186). What it shows of an engine operation's end is observed here, so the pop is an
acquire (R127, R132). -/
def popPort (n : Nat) : Act (Lanes × Mask) := fun s =>
  match portOf s s.cur n false with
  | .error c => .error (.trap c none)
  | .ok (t, q) =>
    if qCount t.scratch q = 0 then
      (if qClosed t.scratch q then .error (.trap 0x92 none) else .error (.hold (.queue t.id q false) id))
    else
      let h := qHead t.scratch q
      let e := entryRead t.scratch (qEntry q h)
      .ok (e, ((s.modTeam t.id fun t =>
        { t with scratch := t.scratch.write (4096 * q) 8 ((h + 1) % 2 ^ 64) }).queueEvent t.id q).acquire s.cur.id)

/-- The checks of a push at issue, and the queue it goes to (R186, R187). -/
def checkPush (n : Nat) : Act (Nat × Nat) := fun s =>
  match portOf s s.cur n true with
  | .error c => .error (.trap c none)
  | .ok (t, q) => if qClosed t.scratch q then .error (.trap 0x92 none) else .ok ((t.id, q), s)

/-- An entry pushed at the end of a unit; a full queue holds it (R186). The port's own causes come after every other
of the unit, which no rule orders (log 26). -/
def pushPort (n : Nat) (v : Lanes) (p : Mask) : Act Unit := do
  let (t, q) ← checkPush n
  let s ← get
  match s.teamOf t with
  | some x => if qCount x.scratch q ≥ 15 then hold (.queue t q true) else set (s.push t q v p)
  | none => pure ()

/-! ### Reading and writing registers -/

/-- The register a field names, as a place a held write may go to. -/
def regRef (a : Agent) (n : Nat) : Option LookDest :=
  if n < 96 then some (.slot (a.wb.toNat + n)) else if n < 120 then some (.scalar (n - 96)) else none

/-- A register's value in every lane with its word poison; a scalar is broadcast (R56). -/
def readReg (a : Agent) (n : Nat) : Lanes × Mask :=
  if n < 96 then a.slot (a.wb.toNat + n)
  else if n < 120 then
    (splat (a.sreg.getD (n - 96) 0), if a.spois.getLsbD (n - 96) then 0xFFFFFFFF else 0)
  else (splat 0, 0)

/-- A scalar written with its poison. -/
def Agent.setScalar (a : Agent) (n : Nat) (v : Word) (p : Bool) : Agent :=
  { a with sreg := a.sreg.setIfInBounds n v, spois := setBit a.spois n p }

/-- A scalar's value. -/
def Agent.scalar (a : Agent) (n : Nat) : Word := a.sreg.getD n 0

/-- Writes a unit's result (R195): the active lanes of a vector register, a scalar when some lane is
active, or an entry of a queue, whose inactive lanes are zero (R186). A scalar takes the result of the lowest active
lane where the lanes' results differ, of which R195 does not speak (log 77). -/
def writeReg (u : U) (n : Nat) (v : Lanes) (p : Mask) : Act Unit := do
  if n < 96 then modCur fun a => a.setSlot (a.wb.toNat + n) u.act v p
  else if n < 120 then
    match lanesIn u.act with
    | [] => pure ()
    | l :: _ => modCur fun a => a.setScalar (n - 96) (lane v l) (has p l)
  else pushPort (n - 120) (lanesOf fun l => if has u.act l then lane v l else 0) (p &&& u.act)

/-- Writes scalar n once, whatever lanes are active (R168). -/
def writeScalar (n : Nat) (v : Word) : Act Unit := modCur fun a => a.setScalar n v false

/-- Writes condition register n of every lane of a mask. -/
def writeCc (n : Nat) (m : Mask) (f : Nat → Nat) : Act Unit := modCur fun a =>
  { a with cc := Vector.ofFn fun i : Fin 32 =>
      let old := (a.cc.getD i.val 0).toNat
      if has m i.val then BitVec.ofNat 16 (old - (old >>> (4 * n) % 16) <<< (4 * n) + (f i.val % 16) <<< (4 * n))
      else a.cc.getD i.val 0 }

/-- A register is the destination of an atomic on its way, or of a long-latency unit whose window has
ended (R67, R164, R265). -/
def regBusy (a : Agent) (r : LookDest) : Bool :=
  (match a.atom with | some x => x.dest == r | none => false)
    || a.looks.any fun l => l.dest == r && l.lrem == 0

/-- Slots of a unit whose lines must be resident (R143). -/
def slotsOf (rs : List LookDest) : List Nat := rs.filterMap fun r => match r with
  | .slot i => some i
  | _ => none

/-- A line of those awaited that is absent from a bank with too few lines free for all of them (R141). -/
def crowded (s : State) (ns : List Nat) : Option Nat :=
  let new := ns.eraseDups.filter fun n => (s.cur.line n).isNone
  new.find? fun n =>
    s.bankFree s.cur.core.toNat (bankOf s.cur n) < (new.filter fun m => bankOf s.cur m == bankOf s.cur n).length

/-- Waits until every register is free of pending writes and every line is resident (R143, R164). No victim
search takes the lines that it waits for (R149). -/
def needRegs (rs : List LookDest) : Act Unit := do
  let s ← get
  if rs.any (regBusy s.cur) then hold .operand
  let ns := (slotsOf rs).map lineOf
  let core := s.cur.core.toNat
  let awaits := fun (a : Agent) => { a with need := (a.need ++ ns).eraseDups }
  match crowded s ns with
  | some n => hold .lines fun s => ({ s with cur := awaits s.cur } : State).makeRoom core (bankOf s.cur n)
  | none => pure ()
  if ns.any (lineWaits s s.cur) then
    hold .lines fun s => { s with cur := awaits (ns.foldl Agent.startFill s.cur) }
  modify fun s => (slotsOf rs).foldl (fun s i =>
    ({ s with cur :=
      let a := { s.cur with hot := setBit s.cur.hot i true }
      if (a.line (lineOf i)).isSome then a else a.putLine (RegLine.zero (lineOf i)) } : State).useLine s.cur.id (lineOf i)) s

/-- Another unit of the core waits for the SFU port, which keeps the side place (R242). -/
def sidePlaceTaken (s : State) (core : Nat) : Bool :=
  ((s.gangsOn core).filter Agent.inSlot).any fun a => (a.looks ++ a.check.toList).any (·.phase == .issued)

/-- Majors that take the side place of a core (R165). -/
def sideMajor (op : Nat) : Bool := (0x2A ≤ op && op ≤ 0x2E) || (0x40 ≤ op && op ≤ 0x43)

/-- One source operand, popped from its queue where it names a port. With quiet, a port that would fault gives
zeros: the sources of a unit that writes a scalar raise no fault while no lane is active (R195). -/
def readOperand (x : Fld) (n : Nat) (quiet : Bool) : Act (Lanes × Mask) := do
  if x.isRead then
    if 120 ≤ n then
      if quiet then fun s => match popPort (n - 120) s with
        | .error (.trap _ _) => .ok ((splat 0, 0), s)
        | r => r
      else popPort (n - 120)
    else return readReg (← get).cur n
  else return (splat 0, 0)

/-- The active lanes whose operand is word-poisoned, over the operands that trap for it (R196, R259). -/
def poisonUse (u : U) (sclP : Mask) : Mask :=
  let one := fun (x : Fld) (p : Mask) => match x with
    | .src _ pass => if pass then 0 else p
    | .upd _ => p
    | _ => 0
  u.act &&& (one u.form.d u.pd ||| one u.form.a u.pa ||| one u.form.b u.pb ||| sclP)

/-- A unit read at issue: its registers free and resident, its ports popped, its operands clear of
word poison (R143, R164, R186, R197). Under REP every iteration issues anew, and so evaluates its guard anew, of which
R60 does not speak (log 77). A header that a pilot has rewritten so that it splits a group is reported by the gang's
first unit, BIND 0 among them (R273 against R269, log 26). -/
def issue (w : IWord) : Act U := do
  let s ← get
  let a := s.cur
  let op := (w.extractLsb' 25 7).toNat
  let f := (w.extractLsb' 0 4).toNat
  let d0 := (w.extractLsb' 18 7).toNat
  let b0 := (w.extractLsb' 4 7).toNat
  let full := a.prof == .full
  let fm := (formOf full op d0 b0 f).getD (form .zero .zero .zero)
  let i := a.repi.toNat
  let rep := prefixOf a.pfx 2
  let st := fun (lo n : Nat) => match rep with
    | some p => (stepped n (repStep p lo) i).toNat
    | none => n
  let d := st 12 d0
  let ra := st 8 (w.extractLsb' 11 7).toNat
  let rb := st 4 b0
  let scl := prefixOf a.pfx 4
  let sclRegs := match scl with
    | some p => if op = 0x26 then [pay p 15 7, pay p 8 7] else [pay p 15 7]
    | none => []
  let named := ((if fm.d.isRead || fm.d.isWritten then [d] else [])
    ++ (if fm.a.isRead then [ra] else []) ++ (if fm.b.isRead then [rb] else [])
    ++ sclRegs).filterMap (regRef a)
  needRegs named
  let act := activeSet a op
  let split := splitAt a op
  if split != 0 then trap 0x50 (split.setWidth 64)
  match earlyCheck s a op d0 (w.extractLsb' 11 7).toNat f b0 with
  | some (c, some v) => trap c v
  | some (c, none) => trapFree c
  | none => pure ()
  -- a side-pipe unit waits behind one that the SFU has not accepted (R242)
  if full && sideMajor op && a.check.isNone && sidePlaceTaken s a.core.toNat then hold .results
  let quiet := act == 0 && fm.d.isWritten && bankOfReg d0 == bankS
  let vd ← readOperand fm.d d quiet
  let va ← readOperand fm.a ra quiet
  let vb ← readOperand fm.b rb quiet
  let sA := match sclRegs with | n :: _ => readReg a n | [] => (splat 0, 0)
  let sB := match sclRegs with | _ :: n :: _ => readReg a n | _ => (splat 0, 0)
  let byte := fun (v : Lanes) (sel : Nat) => lanesOf fun l => BitVec.ofNat 64 (el 8 (lane v l) sel)
  let here := a.pc + BitVec.ofNat 64 (4 * a.pfx.length)
  let u : U := {
    w := w, op := op, d := d, a := ra, b := rb, f := f, act := act
    vd := vd.1, va := va.1, vb := vb.1, pd := vd.2, pa := va.2, pb := vb.2
    imm := immOf a.pfx op w
    flags := (prefixOf a.pfx 3).map fun p => (pay p 20 2, pay p 19 1 == 1)
    scl := scl.map fun p => (byte sA.1 (pay p 5 3), byte sB.1 (pay p 2 3))
    iter := i, count := repCount a.pfx, at_ := a.pc, here := here, next := here + 4
    full := full, form := fm }
  let limbs := readLimbs a op f b0
  let bad := poisonUse { u with pd := u.pd &&& limbs.1, pa := u.pa &&& limbs.2.1, pb := u.pb &&& limbs.2.2 } (sA.2 ||| sB.2)
  let read := fun (x : Fld) (n : Nat) (p : Mask) => (match x with
    | .src _ pass => !pass
    | _ => x.isRead) && (if n < 96 then p &&& act else p) != 0
  -- these act when some lane is active (R122, R251, R301, R311, R314, R315)
  let idle := act == 0 && 0x3E ≤ op && op < 0x48
  let gangBad := fm.once && !idle && (read fm.a ra u.pa || read fm.b rb u.pb)
  if gangBad then trap 0x28 1
  if bad != 0 then trap 0x28 (bad.setWidth 64)
  return u

/-! ### Held writes (R67, R139, R186) -/

/-- A result cannot be written to a line now: it waits, or is absent from a full bank (R141). -/
def State.lineBlocked (s : State) (a : Agent) (n : Nat) : Bool :=
  lineWaits s a n || ((a.line n).isNone && !s.bankRoom a.core.toNat (bankOf a n))

/-- Whether a held result can be written now, and the state after it: its line resident, or room in
its queue. A push whose member is gone is dropped (R187). -/
def landLook (s : State) (g : Nat) (l : Look) : Option State :=
  match s.agent g with
  | none => none
  | some a =>
    let flags := fun (s : State) => s.modAgent g fun a => { a with fpc := a.fpc ||| (l.flg.setWidth 32 <<< 8) }
    match l.dest with
    | .slot i =>
      if s.lineBlocked a (lineOf i) then none
      else some (flags ((s.modAgent g fun a => a.setSlot i l.lanes l.val l.poison).useLine g (lineOf i)))
    | .scalar n =>
      match lanesIn l.lanes with
      | [] => some (flags s)
      | x :: _ => some (flags (s.modAgent g fun a => a.setScalar n (lane l.val x) (has l.poison x)))
    | .port _ kb core =>
      match s.portTeam a core.toNat with
      | none => some (flags s)
      | some t =>
        let q := kb.toNat % 64
        if qCount t.scratch q ≥ 15 then none
        else some (flags (s.push t.id q (lanesOf fun i => if has l.lanes i then lane l.val i else 0) (l.poison &&& l.lanes)))

/-- Lands every held result whose window has ended, in program order for one register (R67). before
holds the destinations of the earlier results still waiting. -/
def landFrom (g : Nat) : List Look → List Look → State → State
  | kept, [], s => s.modAgent g fun a => { a with looks := if a.prof == .full && !a.inSlot then kept.map Look.save else kept }
  | kept, l :: ls, s =>
    if l.phase == .held && l.lrem == 0 && !kept.any (·.dest == l.dest) then
      let s := match l.dest with
        -- a gang that leaves needs its registers no more
        | .slot i => if (s.agent g).any (·.run == .leaving) then s else s.fillLine g (lineOf i)
        | _ => s
      -- room for a line may have cost the gang its slot
      match (if (s.agent g).any fun a => a.prof == .full && !a.inSlot then none else landLook s g l) with
      | some s' => landFrom g kept ls s'
      | none => landFrom g (kept ++ [l]) ls s
    else landFrom g (kept ++ [l]) ls s

/-- The push of a load into a queue is still to be made: its data is there and its window has ended (R67, R186). -/
def Look.pushing (l : Look) : Bool := l.phase == .held && l.lrem == 0 && match l.dest with
  | .port _ _ _ => true
  | _ => false

/-- Held results written where they can be, and the agent's waits for them ended. -/
def State.land (s : State) (g : Nat) : State :=
  match s.agent g with
  | none => s
  | some a =>
    match a.run with
    | .active | .holding _ _ | .leaving =>
      let s' := landFrom g [] a.looks s
      match s'.agent g with
      | some b => if b.looks.length < a.looks.length then
          (match b.run with
           | .holding .operand _ => s'.ready g
           | _ => s')
        else s'
      | none => s'
    | _ => s

/-! ### The end of a unit (R52, R60, R62, R67) -/

/-- The debug step of R138 after a unit: the pilot receives 0x12. A gang that the unit itself parked, or that
yielded, stops when it would go on, its own wait done (log 78); one whose EXIT filled XM retires once it goes on. -/
def State.stepped (s : State) (a : Agent) : State :=
  if a.step && a.prof == .full then
    match a.run with
    | .active | .leaving => s.systemFault a.id 0x12 0 0
    | .parked _ _ | .ready => s.modAgent a.id fun a => { a with dues := some (0x12, 0) }
    | _ => s
  else s

/-- The end of a unit whose body changed s0 into s: the next iteration of REP, or the next unit, with
the guard span, the lookahead windows, the hot slots and the debug step of R138. -/
def finish (u : U) (jump : Option Word) (s0 s : State) : State :=
  if u.iter + 1 < u.count && jump.isNone then
    { s with cur := { s.cur with repi := BitVec.ofNat 6 (u.iter + 1) } }
  else
    let a := s.cur
    let n0 := s0.cur.looks.length
    let span : Guard := match prefixOf a.pfx 0 with
      | some w =>
        let n := pay w 13 3
        if n = 0 then Guard.none else ⟨true, w.extractLsb' 16 4, w.extractLsb' 20 2, BitVec.ofNat 3 n⟩
      | none =>
        if a.guard.live then
          (if a.guard.rem ≤ 1 then Guard.none else { a.guard with rem := a.guard.rem - 1 })
        else Guard.none
    let tick := fun (l : Look) => if l.live && l.lrem != 0 then { l with lrem := l.lrem - 1 } else l
    let a := { a with
      pc := jump.getD u.next, pfx := [], repi := 0, guard := span,
      looks := (a.looks.take n0).map tick ++ a.looks.drop n0, units := a.units + 1, xfail := [], need := [] }
    -- what walks have brought for the unit of an agent without a TLB
    let s : State := if a.prof == .launch || a.prof == .firmware then { s with tlb := s.tlb.filter (·.level != .unit a.id) } else s
    let s := ({ s with cur := a }).land a.id
    let s := if a.run == .active then s else s.modRecord a.record fun r => { r with code := a.pc }
    s.stepped a

/-- What a stop makes of the state before the unit (R180, R182, R186). -/
def onStop (x : Stop) (s : State) : State :=
  match x with
  | .trap c (some v) => s.takeTrap c v
  | .trap c none => let (n, s) := s.takeFree; s.takeTrap c (Config.freeWord n)
  | .trapWith c v does => (does s).takeTrap c v
  | .pilot c v => s.systemFault s.cur.id c v v
  | .hold w starts =>
    let s := starts s
    { s with cur := { s.cur with run := match s.cur.run with
        | .holding w' since => .holding w (if w' = w then since else s.clk)
        | .active => .holding w s.clk
        -- demoted meanwhile (R150)
        | r => r } }

/-- A unit from its instruction word: the checks of R77 with the privilege check of its own, its
operands, its effect, and its end. The effect answers the address of the next unit where it is not
the next word. -/
def unitWith (w : IWord) (priv : State → Bool) (body : U → Act (Option Word)) (s : State) :
    Host.Outcome State Fault Refusal :=
  match unitFault s.cur w (priv s) with
  | some (c, v) => .next (s.takeTrap c v)
  | none =>
    match (do let u ← issue w; let j ← body u; pure (u, j) : Act (U × Option Word)) s with
    | .ok ((u, j), s') => .next (finish u j s s')
    | .error x => .next (onStop x s)

/-- A unit that goes on at the next word. -/
def unit (w : IWord) (body : U → Act Unit) (s : State) : Host.Outcome State Fault Refusal :=
  unitWith w (fun _ => false) (fun u => do body u; pure none) s

/-- A unit that may change the program counter. -/
def unitJump (w : IWord) (body : U → Act (Option Word)) (s : State) : Host.Outcome State Fault Refusal :=
  unitWith w (fun _ => false) body s

/-- A prefix word joins the unit being assembled; the seventh of a run cannot (R52, R59). -/
def addPrefix (w : IWord) (s : State) : Host.Outcome State Fault Refusal :=
  let s' := { s with cur := { s.cur with pfx := s.cur.pfx ++ [w] } }
  if s.cur.pfx.length < 6 then .next s'
  else match unitFault s'.cur 0 false with
    | some (c, v) => .next (s.takeTrap c v)
    | none => .next s'

end Sys2Proof.Machine
end

