-- ==== Sys2Proof/Machine/Xlate.lean ====
section
/-!
DEFINITION. Addresses: the apertures of an agent (R112, R153, R320, R375, R439), the two-stage walk
(R253 to R255), cached translations and walks (R256, R257), and the checks of a memory unit in the
order of R258.
-/

namespace Sys2Proof.Machine

/-! ### Trees (R253, R254) -/

/-- Why a walk fails: stage 1, stage 2, a key slot not owned, or a table read that met a mark, with the
address of the table entry. -/
inductive XErr where
  | s1
  | s2
  | key
  | table (pa : Nat)
  deriving DecidableEq, Repr

/-- A page's translation: frame address of its 64 KiB, key slot, tensor slot and permissions. -/
structure Page where
  pa : Nat
  key : BitVec 9
  t : BitVec 12
  r : Bool
  w : Bool
  x : Bool
  deriving DecidableEq, Repr

/-- A leaf's address for va at a level whose page is 2^sh bytes, with the leaf. -/
def leafAddr (e : Word) (sh va : Nat) : Nat := bits e 42 11 * 2 ^ 16 / 2 ^ sh * 2 ^ sh + va % 2 ^ sh

/-- An entry fails at a level (R254): invalid, a reserved bit or an address bit below the page size
set, a leaf at level 0, a table entry at level 3, or CONT above level 3. Stage 2 has no TSLOT and
KEYID. -/
def entryBad (stage2 : Bool) (lvl : Nat) (e : Word) : Bool :=
  let sh := 46 - 10 * lvl
  if !e.getLsbD 0 then true
  else if e.getLsbD 1 then
    lvl == 0 || bits e 10 6 != 0 || bits e 42 11 * 2 ^ 16 % 2 ^ sh != 0 || (e.getLsbD 5 && lvl != 3)
      || (stage2 && bits e 63 43 != 0)
  else lvl == 3 || bits e 63 48 != 0 || bits e 12 2 != 0

/-- A walk from a table at level lvl on: the leaf and the size of its page as a power of two. fetch
reads an entry. -/
def walkFrom (fetch : Nat → Except XErr Word) (stage2 : Bool) (va : Nat) : Nat → Nat → Nat → Except XErr (Word × Nat)
  | 0, _, _ => .error (if stage2 then .s2 else .s1)
  | n + 1, lvl, table =>
    let sh := 46 - 10 * lvl
    match fetch (table + 8 * (va / 2 ^ sh % 1024)) with
    | .error x => .error x
    | .ok e =>
      if entryBad stage2 lvl e then .error (if stage2 then .s2 else .s1)
      else if e.getLsbD 1 then .ok (e, sh)
      else walkFrom fetch stage2 va n (lvl + 1) (bits e 47 13 * 2 ^ 13)

/-- The tag of a line in its channel fails under the key it was sealed under: its keys are in no slot any
more, or its tensor entry has another version. A walker, which has no KEYID of its own, reads tables so
(R412, log 74). -/
def State.tagStale (s : State) (n : Nat) : Bool :=
  isHbm (64 * n) && !(s.l2.any (·.line == n)) && match find? n s.seals with
    | some (.under k t g v) => !(s.keys.any fun x => some x.keys == k && s.sealNow n x.slot t == .under k t g v)
        && k.isSome
    | none => s.stripped.getLsbD (quadOf (64 * n))

/-- A table entry read at its home (R253, R254). A port or module that is down answers with an error that persists. -/
def tableEntry (s : State) (pa : Nat) : Except XErr Word :=
  if !s.there pa then .error .s2
  else if s.cutOff pa || s.mem.marked pa || s.tagStale (pa / 64) then .error (.table pa)
  else .ok (BitVec.ofNat 64 (s.mem.read pa 8))

/-- Stage 2 of a berth: the leaf's address for an intermediate address, with R, W and X (R253, R389). -/
def walk2 (s : State) (b : BitVec 4) (ia : Nat) : Except XErr (Nat × Bool × Bool × Bool) :=
  let root := bits (s.sysreg (dev (0x680 + b.toNat)) 0) 47 13 * 2 ^ 13
  match walkFrom (tableEntry s) true ia 4 0 root with
  | .error x => .error x
  | .ok (e, sh) =>
    let pa := leafAddr e sh ia
    let conf := (s.sysreg (dev (0x380 + b.toNat)) 0).getLsbD 2
    -- a frame of a peer behind an unsecured link is refused to a confidential berth (R410)
    if conf && isPeer pa && !s.securePorts.getLsbD (peerPortOf pa) then .error .s2
    else .ok (pa, e.getLsbD 2, e.getLsbD 3, e.getLsbD 4)

/-- The root of a stage-1 tree, none when its PASID entry is invalid (R382, R383). -/
def stage1Root (s : State) (c : Stage1) : Option Nat :=
  let entry := fun (x : Word) => if x.getLsbD 63 then some (bits x 47 13 * 2 ^ 13) else none
  match c with
  | .vf v p => if p.toNat < 1024 then entry (findD (1024 * v.toNat + p.toNat) 0 s.pasids) else none
  | .qi i p => if p.toNat < 1024 then entry (findD (1024 * i.toNat + p.toNat) 0 s.qiPasids) else none
  | .root r => some r.toNat
  | .none => none

/-- An entry of a stage-1 table, which lies at an intermediate address (R253). -/
def stage1Entry (s : State) (b : BitVec 4) (ia : Nat) : Except XErr Word := match walk2 s b ia with
  | .error x => .error x
  | .ok (pa, _, _, _) => tableEntry s pa

/-- Key slot k belongs to the berth and is not empty (R254, R389, R414). -/
def State.ownsKey (s : State) (b : BitVec 4) (k : BitVec 9) : Bool :=
  (s.sysreg (dev (0x700 + 8 * b.toNat + k.toNat / 64)) 0).getLsbD (k.toNat % 64) && (s.slotKeys k).isSome

/-- Both stages for a page (R253, R254). Without stage 1 the address is intermediate, and key and
tensor slot are the ones given (R439). -/
def walkPage (s : State) (b : BitVec 4) (c : Stage1) (key : BitVec 9) (t : BitVec 12) (vpn : Nat) : Except XErr Page :=
  match c with
  | .none =>
    match walk2 s b (vpn * 2 ^ 16) with
    | .error x => .error x
    | .ok (pa, r, w, x) => .ok ⟨pa, key, t, r, w, x⟩
  | _ =>
    match stage1Root s c with
    | none => .error .s1
    | some root =>
      match walkFrom (stage1Entry s b) false (vpn * 2 ^ 16) 4 0 root with
      | .error x => .error x
      | .ok (e, sh) =>
        let k : BitVec 9 := e.extractLsb' 43 9
        let ts : BitVec 12 := e.extractLsb' 52 12
        match walk2 s b (leafAddr e sh (vpn * 2 ^ 16)) with
        | .error x => .error x
        | .ok (pa, r, w, x) =>
          let te := s.tensor (s.slotSeg k) ts
          if !s.ownsKey b k || !te.v || te.kslot != k then .error .key
          else .ok ⟨pa, k, ts, r && e.getLsbD 2, w && e.getLsbD 3, x && e.getLsbD 4⟩

/-- The addresses of the entries that a walk from a table on reads, in order. -/
def readsFrom (fetch : Nat → Except XErr Word) (stage2 : Bool) (va : Nat) : Nat → Nat → Nat → List Nat
  | 0, _, _ => []
  | n + 1, lvl, table =>
    let at_ := table + 8 * (va / 2 ^ (46 - 10 * lvl) % 1024)
    at_ :: match fetch at_ with
      | .error _ => []
      | .ok e => if entryBad stage2 lvl e || e.getLsbD 1 then [] else readsFrom fetch stage2 va n (lvl + 1) (bits e 47 13 * 2 ^ 13)

/-- The table reads of stage 2 for an intermediate address. -/
def reads2 (s : State) (b : BitVec 4) (ia : Nat) : List Nat :=
  readsFrom (tableEntry s) true ia 4 0 (bits (s.sysreg (dev (0x680 + b.toNat)) 0) 47 13 * 2 ^ 13)

/-- The physical addresses of the table reads of a walk of both stages (R256): each read of stage 1 with those of
stage 2 that translate it, and those of the final intermediate address. -/
def tableReads (s : State) (b : BitVec 4) (c : Stage1) (vpn : Nat) : List Nat :=
  let va := vpn * 2 ^ 16
  match c with
  | .none => reads2 s b va
  | _ => match stage1Root s c with
    | none => []
    | some root =>
      ((readsFrom (stage1Entry s b) false va 4 0 root).flatMap fun ia => reads2 s b ia ++ match walk2 s b ia with
        | .ok (pa, _, _, _) => [pa]
        | .error _ => [])
      ++ match walkFrom (stage1Entry s b) false va 4 0 root with
        | .ok (e, sh) => reads2 s b (leafAddr e sh va)
        | .error _ => []

/-! ### Who translates under what (R253, R320, R375, R439) -/

/-- The core whose L1 and TLB an agent uses: gangs only. Others get a number no core has. -/
def Agent.l1Core (a : Agent) : Nat := if a.prof == .full then a.core.toNat else 100000 + a.id

/-- The cluster whose units an agent shares: a gang's core's, and a tile sequencer's own. -/
def Agent.cluster (a : Agent) : Option Nat :=
  match a.prof with
  | .full => some (clusterOf a.core.toNat)
  | .tile => some (a.id - 64)
  | _ => none

/-- FWXLATE of a firmware core (R439). The harbourmaster and the standby reset to MODE 0, a pilot
core to MODE 1 with the berth of its VF. -/
def State.fwxlate (s : State) (n : Nat) : Word :=
  let berth := (List.range 16).find? fun b => (s.sysreg (dev (0x380 + b)) 0).getLsbD (16 + n)
  s.sysreg (dev (0xA40 + n)) (if 16 ≤ n then 0 else BitVec.ofNat 64 (16 * berth.getD 0 + 1))

/-- The berth and tree of an agent's global addresses. -/
def State.treeOf (s : State) (a : Agent) : BitVec 4 × Stage1 :=
  match a.prof with
  | .launch =>
    match s.packetOf a.packet with
    | some p => (p.berth, match p.owner with
        | .vf v => .vf v ((p.words[0]).extractLsb' 24 20)
        | .qi i => .qi i ((p.words[0]).extractLsb' 24 20))
    | none => (a.berth, .none)
  | .firmware =>
    let x := s.fwxlate a.id
    (x.extractLsb' 4 4, if bits x 1 0 = 2 then .root (BitVec.ofNat 48 (bits x 42 8 * 2 ^ 13)) else .none)
  | _ =>
    match s.gridOf a.grid with
    | some g => (a.berth, g.ctx)
    | none => (a.berth, .none)

/-- Class of an agent's requests (R432). -/
def Agent.cls (a : Agent) : Nat := if a.prof == .firmware then 3 else 1

/-! ### Page walkers (R257) -/

/-- Walkers of a die, a berth's quota on a die, and the most that a berth holds there (R257). -/
def walkersPerDie : Nat := 128
def walkQuota : Nat := 4
def walkLimit : Nat := 64

/-- The berth owns a cluster of the die. -/
def State.berthOnDie (s : State) (b : BitVec 4) (d : Nat) : Bool :=
  (List.range 32).any fun i => (s.sysreg (dev (0x400 + b.toNat)) 0).getLsbD (32 * d + i)

/-- Walks on a die that run on a walker of a quota, or of no quota. -/
def State.walkersOf (s : State) (d : Nat) (q : Option (BitVec 4)) : Nat :=
  (s.walks.filter fun w => w.die == d && w.granted && w.lender == q).length

/-- The walker that a walk of a berth takes on a die: of its own quota, outside every quota, or lent by a
berth that has no walk waiting there. -/
def State.freeWalker (s : State) (b : BitVec 4) (d : Nat) : Option (Option (BitVec 4)) :=
  let bs := (List.range 16).map (BitVec.ofNat 4)
  let quotas := (bs.filter fun x => s.berthOnDie x d).length
  if walkLimit ≤ (s.walks.filter fun w => w.die == d && w.granted && w.berth == b).length then none
  else if s.berthOnDie b d && s.walkersOf d (some b) < walkQuota then some (some b)
  else if s.walkersOf d none + walkQuota * quotas < walkersPerDie then some none
  else (bs.find? fun x => x != b && s.berthOnDie x d && s.walkersOf d (some x) < walkQuota
      && !s.walks.any fun w => w.die == d && !w.granted && w.berth == x).map some

/-- The die whose walkers an agent uses: that of its cluster, and die 0 for agents at the top stage. -/
def Agent.die (a : Agent) : Nat := (a.cluster.map dieOf).getD 0

/-! ### Cached translations (R256) -/

/-- The levels an agent's translations are cached at; those of an agent without a TLB serve its unit at issue alone. -/
def Agent.tlbLevels (a : Agent) : List TlbLevel :=
  match a.prof with
  | .full => [.core a.core.toNat, .cluster (clusterOf a.core.toNat), .die (dieOf (clusterOf a.core.toNat))]
  | .tile => [.cluster (a.id - 64), .die (dieOf (a.id - 64))]
  | _ => [.unit a.id]

/-- Entries of a level (R256). -/
def TlbLevel.size : TlbLevel → Nat
  | .core _ | .unit _ => 64
  | .cluster _ => 1024
  | .die _ => 8192

/-- The entries of a list but for those of a level beyond its first n. -/
def trimLevel (l : TlbLevel) : Nat → List Tlb → List Tlb
  | _, [] => []
  | n, x :: xs =>
    if x.level != l then x :: trimLevel l n xs
    else match n with
      | 0 => trimLevel l 0 xs
      | n + 1 => x :: trimLevel l n xs

/-- A translation put into a level of the TLB in place of what it held of the page; the one put in longest
ago leaves a full level. -/
def State.fillTlb (s : State) (l : TlbLevel) (b : BitVec 4) (c : Stage1) (vpn : Nat) (p : Page) : State :=
  { s with tlb := ⟨l, b, c, vpn, p.pa / 2 ^ 16, p.key, p.t, p.r, p.w, p.x⟩ ::
      trimLevel l (l.size - 1) (s.tlb.filter fun x => !(x.level == l && x.berth == b && x.ctx == c && x.vpn == vpn)) }

/-- A walk's translation put into every level of its agent. -/
def State.fillLevels (s : State) (a : Agent) (b : BitVec 4) (c : Stage1) (vpn : Nat) (p : Page) : State :=
  a.tlbLevels.foldl (fun s l => s.fillTlb l b c vpn p) s

/-- A firmware core in MODE 0: its addresses are physical (R439). -/
def State.physical (s : State) (a : Agent) : Bool := a.prof == .firmware && bits (s.fwxlate a.id) 1 0 = 0

/-- A translation the agent has at hand: a cached one, or in MODE 0 the address itself with the keys of FWXLATE (R439). -/
def State.tlbHit (s : State) (a : Agent) (vpn : Nat) : Option Page :=
  let (b, c) := s.treeOf a
  if s.physical a then
    let x := s.fwxlate a.id
    some ⟨vpn * 2 ^ 16, x.extractLsb' 43 9, x.extractLsb' 52 12, true, true, true⟩
  else (s.tlb.find? fun x => a.tlbLevels.contains x.level && x.berth == b && x.ctx == c && x.vpn == vpn).map fun x =>
    ⟨x.pfn * 2 ^ 16, x.key, x.t, x.r, x.w, x.x⟩

/-- The cause of a failed walk, and the address its TVAL gives when it is not the access's own. -/
def XErr.cause : XErr → BitVec 8
  | .s1 => 0x22
  | .s2 => 0x25
  | .key => 0x26
  | .table _ => 0x29
def XErr.addr : XErr → Word
  | .table pa => BitVec.ofNat 64 pa
  | _ => 0

/-- TVAL of a failed walk for an access at va (R254). -/
def XErr.tval (e : XErr) (va : Word) : Word := match e with
  | .table pa => BitVec.ofNat 64 pa
  | _ => va

/-- A failed walk again, from its cause and address. -/
def XErr.of (c : BitVec 8) (w : Word) : XErr :=
  if c = 0x22 then .s1 else if c = 0x25 then .s2 else if c = 0x26 then .key else .table w.toNat

/-- What a walk of a page in a tree gives an agent. A firmware core in MODE 1 acts under the key slot of FWXLATE. For
a pilot core it stands in for the leaf's and must still be its berth's; the harbourmaster and the standby may name any
(R254, R439, log 15). -/
def State.walkFor (s : State) (a : Agent) (b : BitVec 4) (c : Stage1) (vpn : Nat) : Except XErr Page :=
  if a.prof == .firmware then
    let x := s.fwxlate a.id
    match walkPage s b c (x.extractLsb' 43 9) (x.extractLsb' 52 12) vpn with
    | .error e => .error e
    | .ok p => if c == .none && a.id < 16 && isHbm p.pa && !s.ownsKey b p.key then .error .key else .ok p
  else walkPage s b c 0 0 vpn

/-- The failure of a walk that an agent has still to meet: its cause and address. Causes of a fetch are not among
them. -/
def Agent.failed (a : Agent) (vpn : Nat) : Option (BitVec 8 × Word) :=
  (a.xfail.find? fun x => x.1 == vpn && x.2.1 != 0x0E && x.2.1 != 0x0F).map (·.2)

/-- What is known of a page for an agent's access: its translation, its failure, or nothing yet. -/
def State.pageOf (s : State) (a : Agent) (vpn : Nat) : Option (Except (BitVec 8 × Word) Page) :=
  match s.tlbHit a vpn with
  | some p => some (.ok p)
  | none => (a.failed vpn).map .error

/-- A walk asked for by an agent, once (R257). -/
def State.askWalkOf (s : State) (a : Agent) (vpn : Nat) : State :=
  if s.walks.any fun w => w.agent == a.id && w.vpn == vpn then s
  else
    let (b, c) := s.treeOf a
    { s with walks := s.walks ++ [⟨a.id, b, c, vpn, a.die, false, none⟩] }

/-- What is known of a page, or nothing yet, with its walk asked for (R256, R257). -/
def State.translate (s : State) (a : Agent) (vpn : Nat) : Option (Except XErr Page) × State :=
  match s.pageOf a vpn with
  | some (.ok p) => (some (.ok p), s)
  | some (.error e) => (some (.error (.of e.1 e.2)), s)
  | none => (none, s.askWalkOf a vpn)

/-- The failures of a page's walk met by an access that is no unit's: the next one walks again. -/
def State.forget (s : State) (g vpn : Nat) : State := s.modAgent g fun a => { a with xfail := a.xfail.filter (·.1 != vpn) }

/-- A walk asked for by the agent whose turn it is. -/
def State.askWalk (s : State) (vpn : Nat) : State := s.askWalkOf s.cur vpn

/-! ### Apertures (R112, R153, R154, R187) -/

/-- Where an address leads: global memory, the own context at an offset, a team's scratchpad at an
offset, a firmware core's SRAM at an offset, or nowhere. -/
inductive Place where
  | glob (va : Nat)
  | own (off : Nat)
  | pad (team : Nat) (core : BitVec 8) (off : Nat)
  | sram (off : Nat)
  | bad
  deriving DecidableEq, Repr

/-- Base of a firmware core's SRAM window (R24). -/
def sramBase : Nat := 0xFDFFFFFFFC0000

/-- The aperture of an address for an agent (R112, R320, R375, R439). -/
def placeOf (s : State) (a : Agent) (va : Word) : Place :=
  let x := va.toNat
  if a.prof == .firmware then
    if sramBase ≤ x && x < sramBase + 2 ^ 18 then .sram (x - sramBase)
    else
      let m := bits (s.fwxlate a.id) 1 0
      if m = 3 then .bad
      else if m = 2 then (if x < 0xFE000000000000 then .glob x else .bad)
      else if x < 2 ^ 48 then .glob x else .bad
  else if x < 0xFE000000000000 then .glob x
  else if a.prof != .full || 2 ^ 56 ≤ x then .bad
  else
    let off := x % 2 ^ 48
    let size := match s.gridOf a.grid with
      | some g => g.scratch
      | none => 0
    if x < 0xFF000000000000 then (if off < 0x1000 + 256 * a.nslots.toNat then .own off else .bad)
    else if off < 0x400000000000 then
      (if off < size then .pad a.team a.core off else .bad)
    else
      let c := (off - 0x400000000000) / 2 ^ 20
      let o := off % 2 ^ 20
      let quad := match s.gridOf a.grid with
        | some g => g.quad
        | none => false
      if 4 ≤ c || !quad || size ≤ o then .bad
      else match s.member a.team c with
        | some t => .pad t.id (BitVec.ofNat 8 (4 * clusterOf a.core.toNat + c)) o
        | none => .bad

/-! ### Range locks (R133, R310) -/

/-- A range of accessed bytes meets a lock of the agent's cluster. -/
def locked (s : State) (a : Agent) (p : Place) (size : Nat) (write : Bool) : Bool :=
  match a.cluster with
  | none => false
  | some c =>
    let meets := fun (l : RangeLock) (sp : LockSpace) (lo : Nat) =>
      (l.dst || write) && l.space == sp && l.lo < lo + size && lo ≤ l.hi
    match p with
    | .glob va =>
      let (b, x) := s.treeOf a
      (s.cluster c).locks.any fun l => meets l (.global b x) va
    | .pad _ core off => (s.cluster c).locks.any fun l => meets l (.scratch core) off
    | _ => false

/-! ### The checks of a memory unit (R252, R258, R259) -/

/-- What a unit does with memory. -/
inductive Access where
  | read
  | write
  /-- an atomic of this operation -/
  | atomic (op : Nat)
  deriving DecidableEq, Repr

def Access.reads : Access → Bool
  | .write => false
  | _ => true
def Access.writes : Access → Bool
  | .read => false
  | _ => true

/-- TVAL of a memory fault: the address in [55:0] and the lane in [60:56] (R259). A firmware core gives the
whole address (R439). -/
def memTval (a : Agent) (va : Word) (l : Nat) : Word :=
  if a.prof == .firmware then va else BitVec.ofNat 64 (va.toNat % 2 ^ 56 + l * 2 ^ 56)

/-- The header offset is open to the access (R137, R154): the fields up to KBIND are for loads, the
scalars and condition registers for both. -/
def headerOpen (off : Nat) (k : Access) : Bool :=
  (off < 0x40 && k == .read) || (0x280 ≤ off && off < 0x380)

/-- The first lane, in lane order, with a cause. -/
def firstCause (xs : List (Nat × Word)) (f : Nat × Word → Option (BitVec 8)) : Option (BitVec 8 × Nat × Word) :=
  match xs with
  | [] => none
  | x :: xs => match f x with
    | some c => some (c, x.1, x.2)
    | none => firstCause xs f

/-- A lane's access once checked: lane, address, place, and for global memory the physical address with
its key and tensor slots. -/
structure Target where
  lane : Nat
  va : Word
  place : Place
  pa : Nat
  key : BitVec 9
  t : BitVec 12
  deriving DecidableEq, Repr

/-- What the checks of a unit give: the places of its accesses; pages that are not translated yet; a
cause of the unit with its TVAL; or a system fault that the pilot serves (R258). -/
inductive Checked where
  | ok (ts : List Target)
  | miss (vs : List Nat)
  | trap (cause : BitVec 8) (tval : Word)
  | system (cause : BitVec 8) (tval : Word)
  deriving DecidableEq, Repr

/-- The first class, in order, that some lane meets, with the lowest such lane (R258, R259). -/
def firstClass (xs : List (Nat × Word)) (fs : List (Nat × Word → Option (BitVec 8))) : Option (BitVec 8 × Nat × Word) :=
  fs.findSome? (firstCause xs)

/-- A writer may not write a tensor that is sealed (R416). A firmware core writes under a leaf in MODE 2 only. -/
def sealedFor (s : State) (a : Agent) (p : Page) : Bool :=
  (a.prof != .firmware || bits (s.fwxlate a.id) 1 0 = 2) && (s.tensor (s.slotSeg p.key) p.t).shut

/-- Pages that an access of n bytes at va touches. -/
def pagesOf (va n : Nat) : List Nat :=
  if (va + n - 1) / 2 ^ 16 = va / 2 ^ 16 then [va / 2 ^ 16] else [va / 2 ^ 16, va / 2 ^ 16 + 1]

/-- The classes 2 and 3 of R258: an access outside its aperture or past its end, an atomic on the own
context, and alignment. -/
def placeClasses (s : State) (a : Agent) (k : Access) (size : Nat) (vec : Bool) :
    List (Nat × Word → Option (BitVec 8)) :=
  let isAtomic := match k with | .atomic _ => true | _ => false
  [fun x => match placeOf s a x.2 with
    | .bad => some 0x20
    | .own off => if isAtomic || 0x1000 + 256 * a.nslots.toNat < off + size then some 0x20 else none
    | .glob va => if a.prof != .firmware && 0xFE000000000000 < va + size then some 0x20 else none
    | .pad _ _ off => match s.gridOf a.grid with
      | some g => if g.scratch < off + size then some 0x20 else none
      | none => some 0x20
    | .sram off => if 2 ^ 18 < off + size then some 0x20 else none,
  fun x => match placeOf s a x.2 with
    | .own off =>
      if off % size != 0 || (vec && ((off : Int) - 8 * x.1) % 256 != 0) then some 0x43
      else if off < 0x1000 && !((List.range ((size + 7) / 8)).all fun i => headerOpen (off + 8 * i) k) then some 0x42
      else none
    | _ => if x.2.toNat % size != 0 then some 0x21 else none]

/-- A lane whose address is global. -/
def isGlob (s : State) (a : Agent) (x : Nat × Word) : Bool := match placeOf s a x.2 with | .glob _ => true | _ => false

/-- What is known of the pages of a lane's access. -/
def knownPages (s : State) (a : Agent) (size : Nat) (x : Nat × Word) : List (Except (BitVec 8 × Word) Page) :=
  if isGlob s a x then (pagesOf x.2.toNat size).filterMap (s.pageOf a) else []

/-- Physical address of a byte whose page is translated. -/
def paOf (s : State) (a : Agent) (va : Nat) : Option (Nat × Page) := match s.pageOf a (va / 2 ^ 16) with
  | some (.ok p) => some (p.pa + va % 2 ^ 16, p)
  | _ => none

/-- The classes 4 to 8 of R258 on accesses whose pages are known. -/
def pageClasses (s : State) (a : Agent) (k : Access) (size : Nat) : List (Nat × Word → Option (BitVec 8)) :=
  let each := fun (f : Except (BitVec 8 × Word) Page → Option (BitVec 8)) (x : Nat × Word) => (knownPages s a size x).findSome? f
  [each fun e => match e with | .error (c, _) => if c = 0x22 then some c else none | _ => none,
  each fun e => match e with
    | .ok p => if k.reads && !p.r then some 0x23 else if k.writes && !p.w then some 0x24 else none
    | _ => none,
  fun x => match k, isGlob s a x, paOf s a x.2.toNat with
    | .atomic op, true, some (pa, _) => if isHost pa && op != 0 && op != 9 && op != 10 then some 0x2A else none
    | _, _, _ => none,
  each fun e => match e with | .ok p => if k.writes && sealedFor s a p then some 0xB8 else none | _ => none,
  fun x => if locked s a (placeOf s a x.2) size k.writes then some 0x60 else none]

/-- Class 9 of R258 for one lane: a walk that failed, or a physical address that nothing answers at (R18),
with the address of the table entry where the cause is 0x29. -/
def systemClass (s : State) (a : Agent) (size : Nat) (x : Nat × Word) : Option (BitVec 8 × Word) :=
  if !isGlob s a x then none
  else match (knownPages s a size x).findSome? fun e => match e with | .error e => some e | _ => none with
    | some e => some e
    | none => match paOf s a x.2.toNat, paOf s a (x.2.toNat + size - 1) with
      | some (p, _), some (q, _) => if s.there p && s.there q then none else some (0x25, 0)
      | _, _ => none

/-- The checks of R258 on the accesses of a unit: lanes with their addresses, the size of each access,
and whether they are the lanes of LDV or STV, whose base has its own alignment (R252, R153). -/
def checkUnit (s : State) (a : Agent) (xs : List (Nat × Word)) (k : Access) (size : Nat) (vec : Bool) : Checked :=
  match firstClass xs (placeClasses s a k size vec) with
  | some (c, l, va) => .trap c (memTval a va l)
  | none =>
    let missing := ((xs.filter (isGlob s a)).flatMap fun x => pagesOf x.2.toNat size).filter fun v => (s.pageOf a v).isNone
    if missing ≠ [] then .miss missing
    else match firstClass xs (pageClasses s a k size) with
      | some (c, l, va) => .trap c (memTval a va l)
      | none => match xs.findSome? (fun x => (systemClass s a size x).map fun e => (e, x)) with
        | some ((e, w), x) =>
          let tv := if e = 0x29 then w else memTval a x.2 x.1
          -- a firmware core traps itself (R439)
          if a.prof == .firmware then .trap e tv else .system e tv
        | none => .ok (xs.map fun x => match isGlob s a x, paOf s a x.2.toNat with
            | true, some (pa, p) => ⟨x.1, x.2, placeOf s a x.2, pa, p.key, p.t⟩
            | _, _ => ⟨x.1, x.2, placeOf s a x.2, 0, 0, 0⟩)

/-- The checks of a unit at issue: it waits for walks, traps, or is held for the pilot. -/
def checkAccesses (xs : List (Nat × Word)) (k : Access) (size : Nat) (vec : Bool) : Act (List Target) := do
  let s ← get
  match checkUnit s s.cur xs k size vec with
  | .ok ts => return ts
  | .miss vs => hold (.walk (vs.headD 0)) fun s => vs.foldl State.askWalk s
  | .trap c tv => trap c tv
  | .system c tv => stop (.pilot c tv)

end Sys2Proof.Machine
end

