-- ==== Sys2Proof/Machine/Frames.lean ====
section
/-!
DEFINITION. What the command processor and the scheduler keep in berth memory: pages at intermediate
addresses (R367, R371), team frames (R41), and the record array of a grid (R34, R45, R46).
-/

namespace Sys2Proof.Machine

/-! ### Physical access at intermediate addresses (R367, R371) -/

/-- Physical address of an intermediate address under a berth's stage 2. -/
def State.iaOf (s : State) (b : BitVec 4) (ia : Nat) : Option Nat :=
  match walk2 s b (ia / 2 ^ 16 * 2 ^ 16) with
  | .ok (pa, _, _, _) => if s.there (pa + ia % 2 ^ 16) then some (pa + ia % 2 ^ 16) else none
  | .error _ => none

/-- Key slot and tensor slot of the queue a packet came through (R367). -/
def State.packetKey (s : State) (p : Nat) : BitVec 9 × BitVec 12 :=
  match s.packetOf p with
  | none => (0, 0)
  | some x => match s.queues.find? fun q => q.owner == x.owner && q.nidx == x.nidx with
    | some q => (q.key, q.tslot)
    | none => (0, 0)

/-- An access of the berth's own units at an intermediate address that stage 2 does not serve: a stage-2 fault to the
pilot core, and nothing reaches memory (R18). -/
def State.iaFault (s : State) (b : BitVec 4) (ia : Nat) : State := s.ask b 0x25 (BitVec.ofNat 64 ia) (BitVec.ofNat 64 ia)

/-- Bytes written at an intermediate address, page by page; the pilot hears of a page that is not served. -/
def State.iaPut (s : State) (b : BitVec 4) (k : BitVec 9 × BitVec 12) (ia : Nat) (bs : List Byte) (p : Nat → Bool) : State :=
  (List.range ((bs.length + 4095) / 4096)).foldl (fun s i =>
    match s.iaOf b (ia + 4096 * i) with
    | some pa => s.homePutBytes ⟨b, k.1, k.2, 1⟩ pa ((bs.drop (4096 * i)).take 4096)
        (fun u => p (u - pa + 4096 * i))
    | none => s.iaFault b (ia + 4096 * i)) s

/-! ### Team frames (R41) -/

/-- Where a team was placed last, and whether it is placed (R41). -/
def Team.placeWord (x : Team) (quad : Bool) : Nat :=
  let core := x.lastCore.toNat
  (if x.placed.isSome then 2 ^ 63 else 0) + (if quad then 2 ^ 62 else 0) + core / 4 * 256 + core % 4

/-- The CB of gang i of a team, 0 where it has none (R31, R41). -/
def State.cbOf (s : State) (x : Team) (i : Nat) : Nat :=
  match x.gangs.filterMap s.agent |>.find? fun a => bits a.tid 39 32 == i with
  | some a => a.cb.toNat
  | none => 0

/-- The fields of a team frame before its reserved part: 0x120 bytes (R41). The frame of a quad's lowest-indexed
member counts the arrivals at the quad's barrier with its own (R183). -/
def State.frameHead (s : State) (g : Grid) (x : Team) : List Byte :=
  toBytes 8 g.scratch ++ toBytes 8 (x.gen.toNat * 2 ^ 32 + (x.arrived.length + x.qarrived.length))
    ++ toBytes 8 (x.placeWord g.quad) ++ toBytes 8 (x.count.toNat + (if x.signalled then 256 else 0))
    ++ (List.range 32).flatMap fun i => toBytes 8 (s.cbOf x i)

/-- Bytes of a team's frame written, with what a function of its grid and team gives. -/
def State.putFrame (s : State) (t : Nat) (off : Nat) (f : Grid → Team → List Byte) (p : Team → Nat → Bool) : State :=
  match s.teamOf t with
  | none => s
  | some x => match s.gridOf x.grid with
    | none => s
    | some g => s.iaPut g.berth (s.packetKey g.packet) (x.frame + off) (f g x) (p x)

/-- The fields of a team frame written as they now are (R41, R183). -/
def State.saveHead (s : State) (t : Nat) : State := s.putFrame t 0 s.frameHead fun _ _ => false

/-- The pages of a team's scratchpad image, of 4 KiB, that stage 2 does not serve (R18). -/
def State.framePages (s : State) (t : Nat) : List Nat :=
  match s.teamOf t with
  | none => []
  | some x => match s.gridOf x.grid with
    | none => []
    | some g => (List.range ((g.scratch + 4095) / 4096)).filter fun i => (s.iaOf g.berth (x.frame + 0x1000 + 4096 * i)).isNone

/-- The fields of a team frame with its reserved part, and its scratchpad image where asked, written in memory. What a
page does not take stays with the team (log 31). -/
def State.saveFrame (s : State) (t : Nat) (image : Bool) : State :=
  let s := s.putFrame t 0 (fun g x => s.frameHead g x ++ List.replicate 0xEE0 0) fun _ _ => false
  if image then
    let out := s.framePages t
    (s.putFrame t 0x1000 (fun g x => x.scratch.bytes 0 g.scratch) fun x u => x.scratch.marked u).modTeam t fun x => { x with unsaved := out }
  else s

/-- The saved image of a scratchpad read back from the frame. A page that is not served, of which the pilot hears, and
one that took nothing keep what was saved. -/
def State.loadFrame (s : State) (t : Nat) : State :=
  match s.teamOf t with
  | none => s
  | some x => match s.gridOf x.grid with
    | none => s
    | some g =>
      let k := s.packetKey g.packet
      ((List.range ((g.scratch + 4095) / 4096)).filter fun i => !x.unsaved.contains i).foldl (fun s i =>
        match s.iaOf g.berth (x.frame + 0x1000 + 4096 * i) with
        | none => s.iaFault g.berth (x.frame + 0x1000 + 4096 * i)
        | some pa =>
          let n := min 4096 (g.scratch - 4096 * i)
          let ((bs, bad), s) := s.homeGetBytes ⟨g.berth, k.1, k.2, 1⟩ pa n
          s.modTeam t fun x =>
            let m := (List.range (n / 8 + 1)).foldl (fun (m : Mem) (j : Nat) =>
              if 8 * j < n then m.mark (4096 * i + 8 * j) (bad || s.mem.marked (pa + 8 * j)) else m)
              (x.scratch.writeBytes (4096 * i) bs)
            { x with scratch := m }) s

/-! ### The record array of a grid (R34, R45, R46) -/

/-- Bytes of the record array (R371): the area begins with it. -/
def Grid.arrayBytes (g : Grid) : Nat := g.frames - g.area

/-- The 32 bytes of a record (R45). -/
def Record.bytes (r : Record) : List Byte :=
  toBytes 8 r.code.toNat ++ toBytes 8 r.frame.toNat
    ++ toBytes 8 (r.join.toNat + r.lvl.toNat * 2 ^ 32 + r.kind.toNat * 2 ^ 40 + r.stg.toNat * 2 ^ 48) ++ toBytes 8 r.wake.toNat

/-- A record written in its entry of 64 bytes of its grid's array (R371, log 84). -/
def State.storeRecord (s : State) (r : Nat) : State :=
  match s.recordOf r with
  | none => s
  | some x => match s.gridOf x.grid with
    | none => s
    | some g =>
      let s := s.modRecord r fun x => { x with stored := x.bytes }
      if g.arrayBytes < 64 * x.index + 64 then s
      else s.iaPut g.berth (s.packetKey g.packet) (g.area + 64 * x.index) x.bytes fun _ => false

end Sys2Proof.Machine
end

