-- ==== Sys2Proof/Machine/Flags.lean ====
section
/-!
DEFINITION. The flags a unit writes: N, Z, C, V of integer forms (R200), of floating-point forms
(R213, R214) and the boolean form (R175); and the floating-point flags and their trap (R88).
-/

namespace Sys2Proof.Machine

/-- N, Z, C, V packed from bit 3 down (R137). -/
def nzcv (n z c v : Bool) : Nat := n.toNat * 8 + z.toNat * 4 + c.toNat * 2 + v.toNat

/-- The boolean form of a truth value (R175). -/
def boolForm (r : Bool) : Nat := nzcv false r r false

/-- Flags of a result with C and V given (R200). -/
def intFlags (w r : Nat) (c v : Bool) : Nat := nzcv (r.testBit (w - 1)) (r % 2 ^ w == 0) c v

/-- A sum of two w-bit numbers with its flags (R200). -/
def addWith (w x y : Nat) (c : Bool) : Nat × Nat :=
  let full := x + y + c.toNat
  let r := full % 2 ^ w
  let exact : Int := signedOf w x + signedOf w y + c.toNat
  (r, intFlags w r (decide (2 ^ w ≤ full)) (decide (signedOf w r ≠ exact)))

/-- A difference of two w-bit numbers with its flags; C is 1 when there is no borrow (R200). -/
def subWith (w x y : Nat) (c : Bool) : Nat × Nat :=
  let bin := 1 - c.toNat
  let r := (x + 2 ^ w - y % 2 ^ w + 2 ^ w - bin) % 2 ^ w
  let exact : Int := signedOf w x - signedOf w y - bin
  (r, intFlags w r (decide (y % 2 ^ w + bin ≤ x % 2 ^ w)) (decide (signedOf w r ≠ exact)))

/-- Shift left with its flags (R199, R200). -/
def shlWith (w x n : Nat) : Nat × Nat :=
  let r := if n ≥ w then 0 else x <<< n % 2 ^ w
  (r, intFlags w r (n != 0 && n ≤ w && x.testBit (w - n)) false)

/-- Logical shift right with its flags (R199, R200). -/
def shrWith (w x n : Nat) : Nat × Nat :=
  let r := if n ≥ w then 0 else x >>> n
  (r, intFlags w r (n != 0 && n ≤ w && x.testBit (n - 1)) false)

/-- Arithmetic shift right with its flags (R199, R200). -/
def sarWith (w x n : Nat) : Nat × Nat :=
  let r := wrap w (signedOf w x / (2 ^ min n w : Nat))
  (r, intFlags w r (n != 0 && x.testBit (if n ≤ w then n - 1 else w - 1)) false)

/-- Rotate left with its flags (R199, R200). -/
def rolWith (w x n : Nat) : Nat × Nat :=
  let k := n % w
  let r := (x <<< k ||| x >>> (w - k)) % 2 ^ w
  (r, intFlags w r (k != 0 && r.testBit 0) false)

/-- Flags of the first sub-element of a floating-point result (R213). -/
def fpFlags (f : Fmt) (r : Nat) : Nat :=
  let isNan := match f.val r with | .nan _ => true | _ => false
  nzcv (r.testBit (f.width - 1)) (r % f.signBit == 0) false isNan

/-- Flags of a floating-point comparison, and whether a signalling NaN took part (R214). -/
def fcmpFlags (f : Fmt) (a b : Nat) : Nat × Flags :=
  match nanPick f [a, b] with
  | some _ => (nzcv false false true true, snanFlag f [a, b])
  | none =>
    let o := fOrder f a b
    (if o < 0 then nzcv true false false false
     else if o = 0 then nzcv false true true false else nzcv false false true false, 0)

/-- The flags written under FLAGS into the target of each active lane (R63): the lane's own, or those of the one
result that a scalar destination gets, which is the lowest active lane's (R195). -/
def writeFlags (u : U) (f : Nat → Nat) : Act Unit :=
  let one := u.form.d.isWritten && 96 ≤ u.d && u.d < 120
  match u.flags with
  | some (c, _) => writeCc c u.act fun l => f (if one then (lanesIn u.act).headD 0 else l)
  | none => pure ()

/-- The carry in of a lane under FLAGS with carry-in, else the default (R200); the carry chain asks for that of a
group's limb-0 lane (R276, log 77). -/
def carryIn (u : U) (a : Agent) (dflt : Bool) (l : Nat) : Bool :=
  match u.flags with
  | some (c, true) => (ccOf a l c).testBit 1
  | _ => dflt

/-- Bits of FPC that are not reserved (R87). -/
def fpcMask : BitVec 32 := 0x001F1F07

/-- FTZ and RM of FPC (R87). -/
def ftzOf (a : Agent) : Bool := a.fpc.getLsbD 2
def rmOf (a : Agent) : Rm := Rm.of (a.fpc.extractLsb' 0 2)

/-- Floating-point flags of the lanes of a mask raised: entered into FPC, or the trap of an enabled one
with the lanes that raised it and the unit's flags in TVAL (R88). -/
def raiseFp (m : Mask) (fl : Nat → Flags) : Act Unit := do
  let all := (lanesIn m).foldl (fun acc l => acc ||| fl l) (0 : Flags)
  let en : Flags := (← get).cur.fpc.extractLsb' 16 5
  if all &&& en != 0 then
    trap 0x18 (BitVec.ofNat 64 ((m &&& maskOf fun l => fl l &&& en != 0).toNat + all.toNat * 2 ^ 40))
  else modCur fun a => { a with fpc := a.fpc ||| (all.setWidth 32 <<< 8) }

end Sys2Proof.Machine
end

