-- ==== Sys2Proof/Machine/Context.lean ====
section
/-!
DEFINITION. The context store (spec/06_context_store.md): the context header in memory form (R137 to
R139), write-backs of register lines (R148), pins and regions (R156, R160), and the instructions
that move the window and steer the lines (R155 to R160).
-/

namespace Sys2Proof.Machine

/-! ### The header (R137, R138, R139) -/

/-- The slot, scalar or port of a descriptor, as its DQ, DSCAL and DEST fields (R139). -/
def lookWord0 (l : Look) : Nat :=
  let state := match l.phase with | .held => 2 | _ => 1
  let dest := match l.dest with
    | .slot i => i
    | .scalar n => 2 ^ 10 + n
    | .port n _ _ => 2 ^ 11 + n
  l.word.toNat + dest % 2 ^ 12 * 2 ^ 32 + l.lrem.toNat * 2 ^ 48 + l.flg.toNat * 2 ^ 57 + state * 2 ^ 62

/-- LANES, and the binding byte of a port (R139). -/
def lookWord1 (l : Look) : Nat := l.lanes.toNat + match l.dest with
  | .port _ kb _ => kb.toNat * 2 ^ 32
  | _ => 0

/-- The resume word (R138). While a handler runs it holds the span and the iteration of the interrupted program
(R180); those of the handler itself, for which the header has no field, stay with the gang (log 87). -/
def Agent.resumeWord (a : Agent) : Nat :=
  let g := if a.trapc then a.savedGuard else a.guard
  let r := if a.trapc then a.savedRepi else a.repi
  r.toNat + g.rem.toNat * 2 ^ 8 + g.cc.toNat * 2 ^ 12 + g.cond.toNat * 2 ^ 16 + g.live.toNat * 2 ^ 20
    + a.trapc.toNat * 2 ^ 21 + a.evt.toNat * 2 ^ 22 + a.step.toNat * 2 ^ 23

/-- The 8-byte word at a header offset (R137), from the gang's registers. -/
def Agent.headerWord (a : Agent) (off : Nat) : Word :=
  let j := (off - 0x80) / 16
  BitVec.ofNat 64 <|
    if off = 0x000 then a.pc.toNat
    else if off = 0x008 then a.em.toNat + a.xm.toNat * 2 ^ 32
    else if off = 0x010 then a.wb.toNat + a.nslots.toNat * 2 ^ 16 + a.ls.toNat * 2 ^ 32
    else if off = 0x018 then a.fpc.toNat + a.cause.toNat * 2 ^ 32
    else if off = 0x020 then a.tval.toNat
    else if off = 0x028 then a.epc.toNat
    else if off = 0x030 then a.trapvec.toNat
    else if off = 0x038 then a.kbind.toNat
    else if off = 0x040 then a.resumeWord
    else if off = 0x048 then a.regionFirst.toNat + a.regionCount.toNat * 2 ^ 16
    else if 0x080 ≤ off && off < 0x0C0 then
      match a.looks[j]? with
      | some l => if off % 16 = 0 then lookWord0 l else lookWord1 l
      | none => 0
    else if 0x100 ≤ off && off < 0x180 then a.hot.toNat >>> (8 * (off - 0x100)) % 2 ^ 64
    else if 0x180 ≤ off && off < 0x200 then a.written.toNat >>> (8 * (off - 0x180)) % 2 ^ 64
    else if 0x200 ≤ off && off < 0x280 then a.pin.toNat >>> (8 * (off - 0x200)) % 2 ^ 64
    else if 0x280 ≤ off && off < 0x340 then (a.scalar ((off - 0x280) / 8)).toNat
    else if 0x340 ≤ off && off < 0x380 then
      joinEls 16 ((List.range 4).map fun k => (a.cc.getD ((off - 0x340) / 2 + k) 0).toNat)
    else if 0x400 ≤ off && off < 0x800 then
      match a.looks[(off - 0x400) / 256]? with
      | some l => (lane (if l.phase == .held then l.val else l.req) ((off - 0x400) % 256 / 8)).toNat
      | none => 0
    else 0

/-- Header line n as the gang's registers make it (R146). Held values carry their poison. -/
def Agent.headerLine (a : Agent) (n : Nat) : RegLine :=
  { n := n, st := .resident, dirty := true, inFlight := false
    data := lanesOf fun l => a.headerWord (256 * n + 8 * l)
    poison := if 4 ≤ n then (match a.looks[n - 4]? with | some l => l.poison | none => 0)
      else if n = 2 then maskOf fun l => 16 ≤ l && a.spois.getLsbD (l - 16)
      else if n = 3 then maskOf fun l => l < 8 && a.spois.getLsbD (l + 16) else 0
    used := match a.line n with | some l => l.used | none => 0
    stuck := match a.line n with | some l => l.stuck | none => false }

/-- The header lines that hold something: 0 to 3, and one for each descriptor (R145). -/
def Agent.headerLines (a : Agent) : List Nat := [0, 1, 2, 3] ++ (List.range (min 4 a.looks.length)).map (4 + ·)

/-- The gang's header written into its lines in the ULS (R146). -/
def Agent.saveHeader (a : Agent) : Agent := a.headerLines.foldl (fun x n => x.putLine (a.headerLine n)) a

/-- A gang outside its slot with its header in its lines (R146). -/
def Agent.settle (a : Agent) : Agent :=
  if a.inSlot || a.fresh || a.run == .off then a
  else { a.saveHeader with fresh := true, evt := false, late := [] }

/-- A word of the header lines held in the ULS. -/
def Agent.heldWord (a : Agent) (off : Nat) : Nat := match a.line (off / 256) with
  | some l => (lane l.data (off % 256 / 8)).toNat
  | none => 0

/-- A held descriptor read back (R139). The request of STATE 1 is issued again (R147). -/
def Agent.heldLook (a : Agent) (j : Nat) (live : Bool) : Option Look :=
  let w0 := a.heldWord (0x80 + 16 * j)
  let w1 := a.heldWord (0x88 + 16 * j)
  let st := w0 / 2 ^ 62
  if st = 0 then none
  else
    let word := BitVec.ofNat 32 w0
    let n := w0 / 2 ^ 32 % 2 ^ 10
    let dest : LookDest :=
      if w0.testBit 43 then .port n (BitVec.ofNat 8 (w1 / 2 ^ 32)) 0
      else if w0.testBit 42 then .scalar n else .slot n
    let vals := match a.line (4 + j) with | some l => (l.data, l.poison) | none => (splat 0, 0)
    let old := a.looks[j]?
    some {
      word := word, dest := dest, lanes := BitVec.ofNat 32 w1, lrem := BitVec.ofNat 4 (w0 / 2 ^ 48)
      phase := if st = 2 then .held else .saved
      req := if st = 2 then splat 0 else vals.1, got := 0, homes := []
      val := if st = 2 then vals.1 else splat 0, poison := if st = 2 then vals.2 else 0
      flg := BitVec.ofNat 5 (w0 / 2 ^ 57), live := live
      ord := match old with | some l => l.ord | none => 0
      ls := match old with | some l => l.ls | none => a.ls }

/-- The gang's registers read from its header lines (R145): what a pilot has written there counts, a byte of LS with
reserved bits or a LOGL that no BIND gives among it, which is taken as it stands (R268, log 94). -/
def Agent.loadHeader (a : Agent) : Agent :=
  let w := fun off => a.heldWord off
  let rs := w 0x40
  let g : Guard := ⟨rs.testBit 20, BitVec.ofNat 4 (rs / 2 ^ 16), BitVec.ofNat 2 (rs / 2 ^ 12), BitVec.ofNat 3 (rs / 2 ^ 8)⟩
  let trapc := rs.testBit 21
  let map := fun off => BitVec.ofNat 1024 (joinEls 64 ((List.range 16).map fun k => w (off + 8 * k)))
  let lps := (match a.line 2 with | some l => l.poison.toNat / 2 ^ 16 | none => 0)
    + (match a.line 3 with | some l => l.poison.toNat % 2 ^ 8 * 2 ^ 16 | none => 0)
  { a with
    pc := BitVec.ofNat 64 (w 0), em := BitVec.ofNat 32 (w 8), xm := BitVec.ofNat 32 (w 8 / 2 ^ 32)
    wb := BitVec.ofNat 10 (w 0x10), nslots := BitVec.ofNat 11 (w 0x10 / 2 ^ 16), ls := BitVec.ofNat 8 (w 0x10 / 2 ^ 32)
    fpc := BitVec.ofNat 32 (w 0x18) &&& fpcMask, cause := BitVec.ofNat 8 (w 0x18 / 2 ^ 32)
    tval := BitVec.ofNat 64 (w 0x20), epc := BitVec.ofNat 64 (w 0x28), trapvec := BitVec.ofNat 64 (w 0x30) &&& ~~~3#64
    kbind := BitVec.ofNat 64 (w 0x38)
    guard := if !trapc then g else if a.trapc then a.guard else Guard.none, savedGuard := if trapc then g else Guard.none
    repi := if !trapc then BitVec.ofNat 6 rs else if a.trapc then a.repi else 0
    savedRepi := if trapc then BitVec.ofNat 6 rs else 0
    trapc := trapc, evt := rs.testBit 22 || a.evt, step := rs.testBit 23
    regionFirst := BitVec.ofNat 10 (w 0x48), regionCount := BitVec.ofNat 7 (w 0x48 / 2 ^ 16)
    looks := (List.range 4).filterMap fun j =>
      a.heldLook j (match a.looks[j]? with | some l => l.live | none => true)
    hot := map 0x100, written := map 0x180, pin := map 0x200
    sreg := a.late.foldl (fun (v : Vector Word 24) x => v.setIfInBounds x.1 x.2)
      (Vector.ofFn fun i : Fin 24 => BitVec.ofNat 64 (w (0x280 + 8 * i.val)))
    spois := a.late.foldl (fun (p : BitVec 24) x => setBit p x.1 false) (BitVec.ofNat 24 lps)
    late := []
    cc := Vector.ofFn fun i : Fin 32 => BitVec.ofNat 16 (w (0x340 + 8 * (i.val / 4)) >>> (16 * (i.val % 4)))
    fresh := false }

/-! ### Write-back, pins, fills -/

/-- Distinct pinned slots. -/
def Agent.pins (a : Agent) : Nat := ((List.range 1024).filter a.pinned).length

/-- Fills of absent slots started in the background (R145, R156, R160). -/
def State.fillSlots (s : State) (g : Nat) (is : List Nat) : State := is.foldl (fun s i => s.fillSpare g (lineOf i)) s

/-- Slots lo to hi. -/
def slotRange (lo hi : Nat) : List Nat := (List.range (hi + 1 - lo)).map (lo + ·)

/-! ### WBASE and REGION (R155, R156) -/

/-- The window moved to an exact new base, or 0x0A (R55). A scalar base is a signed number (log 77). -/
def moveWindow (u : U) (n : Int) : Act Unit := do
  let a := (← get).cur
  if n < 0 || (a.nslots.toNat : Int) - 96 < n then trap 0x0A (u.w.setWidth 64)
  modCur fun a => { a with wb := BitVec.ofInt 10 n }

def execWbase (i : BitVec 11) (s : State) : Host.Outcome State Fault Refusal :=
  unit (wordI 6 0 0 i) (fun u => moveWindow u (s.cur.wb.toNat + u.imm)) s

def execWbaseS (a : Reg) (i : BitVec 11) (s : State) : Host.Outcome State Fault Refusal :=
  unit (wordI 6 1 a i) (fun u => moveWindow u ((lane u.va 0).toInt + u.imm)) s

def execRegion (d : Reg) (i : BitVec 11) (s : State) : Host.Outcome State Fault Refusal :=
  unit (wordI 7 d 0 i) (fun u => do
    if u.imm < 0 || 96 < u.imm || 96 < (u.d : Int) + u.imm then trapFree 0x45
    let a := (← get).cur
    let b := { a with regionFirst := BitVec.ofNat 10 (a.wb.toNat + u.d), regionCount := BitVec.ofInt 7 u.imm }
    if 128 < b.pins then trapFree 0x46
    modify fun s => ({ s with cur := b } : State).fillSlots b.id ((slotRange 0 1023).filter b.inRegion)) s

/-! ### CTX (R157 to R160) -/

/-- The covered slots, or 0x44 (R157). -/
def covered (u : U) : Act (List Nat) := do
  let a := (← get).cur
  if u.b < u.a then trapFree 0x44
  return slotRange (a.wb.toNat + u.a) (a.wb.toNat + u.b)

/-- A slot written back: a slot never written as zeros, a dirty line from its snapshot (R158). -/
def Agent.cwbSlot (a : Agent) (i : Nat) : Agent :=
  if a.isWritten i then a.writeBack (lineOf i)
  else
    { a with written := setBit a.written i true, wbacks := a.wbacks ++ [(lineOf i, splat 0, 0)] }

/-- Header lines 0 to 3 written back as the gang's registers make them (R158). -/
def Agent.cwbHeader (a : Agent) : Agent :=
  { a with wbacks := a.wbacks ++ [0, 1, 2, 3].map fun n => (n, (a.headerLine n).data, (a.headerLine n).poison) }

def execCwb (x : BitVec 1) (a b : Reg) (s : State) : Host.Outcome State Fault Refusal :=
  unit (wordT 8 (0#6 ++ x) a b 0) (fun u => do
    if x = 1 then
      modCur fun a => ((List.range a.nslots.toNat).foldl Agent.cwbSlot a).cwbHeader
    else
      let is ← covered u
      modCur fun a => is.foldl Agent.cwbSlot a) s

def execCdrop (a b : Reg) (s : State) : Host.Outcome State Fault Refusal :=
  unit (wordT 8 0 a b 1) (fun u => do
    let is ← covered u
    let s ← get
    if is.any fun i => regBusy s.cur (.slot i) then hold .operand
    modCur fun a => is.foldl (fun a i =>
      { a.dropLine (lineOf i) with written := setBit a.written i false, pin := setBit a.pin i false }) a) s

def execCpin (a b : Reg) (s : State) : Host.Outcome State Fault Refusal :=
  unit (wordT 8 0 a b 2) (fun u => do
    let is ← covered u
    let a := (← get).cur
    let b := { a with pin := is.foldl (fun m i => setBit m i true) a.pin }
    if 128 < b.pins then trapFree 0x46
    modify fun s => ({ s with cur := b } : State).fillSlots b.id is) s

def execCunpin (a b : Reg) (s : State) : Host.Outcome State Fault Refusal :=
  unit (wordT 8 0 a b 3) (fun u => do
    let is ← covered u
    modCur fun a => { a with pin := is.foldl (fun m i => setBit m i false) a.pin }) s

end Sys2Proof.Machine
end

