-- ==== Sys2Proof/Machine/Seq.lean ====
section
/-!
DEFINITION. The gang sequencer (spec/07_sequencer.md): prefixes, SYS, branches and calls, masks,
special registers, barriers and queue ports.
-/

namespace Sys2Proof.Machine

/-! ### Prefixes (R59 to R64) -/

def execGuard (c : BitVec 2) (k : BitVec 4) (n : BitVec 3) (s : State) : Host.Outcome State Fault Refusal :=
  addPrefix (wordP 0 (c ++ k ++ n ++ 0#13)) s
def execImmx (p : BitVec 22) (s : State) : Host.Outcome State Fault Refusal := addPrefix (wordP 1 p) s
def execRep (n : BitVec 6) (d a b : BitVec 4) (s : State) : Host.Outcome State Fault Refusal :=
  addPrefix (wordP 2 (n ++ d ++ a ++ b ++ 0#4)) s
def execFlags (c : BitVec 2) (x : BitVec 1) (s : State) : Host.Outcome State Fault Refusal :=
  addPrefix (wordP 3 (c ++ x ++ 0#19)) s
def execScl (a b : Reg) (x y : BitVec 3) (s : State) : Host.Outcome State Fault Refusal :=
  addPrefix (wordP 4 (a ++ b ++ x ++ y ++ 0#2)) s

/-! ### Waiting inside a unit -/

/-- Waits at issue for a release of the agent to be done (R121); a peer store that was never
registered traps (R262). -/
def release : Act Unit := do
  let s ← get
  if s.released s.cur.id then
    match s.cur.lost with
    | some va => trap 0x2B va
    | none => pure ()
  else hold .release

/-- An acquire by the agent (R120). -/
def acquireNow : Act Unit := modify fun s => s.acquire s.cur.id

/-- The agent parks once the unit is done, with the wait as its wake condition. -/
def parkAfter (w : Wait) : Act Unit := modify fun s => s.park s.cur.id w

/-- A prologue that ends without a launch (R375, R376): the packet ends CANCELLED with a code at its
first run, or DONE at a re-run. -/
def State.cancelPrologue (s : State) (code : BitVec 8) : State :=
  let a := s.cur
  let s := { s with cur := { a with run := .off } }
  if a.rerun = 0 then s.endPacket a.packet 3 code 0 0 0 else s.endPacket a.packet 1 0 0 0 0

/-! ### SYS (R177 to R181) -/

def execNop (s : State) : Host.Outcome State Fault Refusal := unit (wordT 0 0 0 0 0) (fun _ => pure ()) s

/-- YIELD (R179): a gang leaves its slot and its record enters the queue of the level it re-enters at (R348); any
other agent goes on. -/
def execYield (s : State) : Host.Outcome State Fault Refusal :=
  unit (wordT 0 0 0 0 1) (fun _ => modify fun s =>
    if s.cur.prof == .full then s.leaveSlot s.cur.id false else s) s

/-- EXIT (R42, R177): active lanes leave, and a gang with no lane left waits to retire. On a tile
sequencer the stream closes (R321); on a launch engine it is PCANCEL with code 0 (R375); a firmware
core, whose program does not end, goes on. -/
def execExit (s : State) : Host.Outcome State Fault Refusal :=
  unit (wordT 0 0 0 0 2) (fun u => do
    let a := (← get).cur
    match a.prof with
    | .full =>
      let split := splitLanes a u.act
      if split != 0 then trap 0x50 (split.setWidth 64)
      modCur fun a => { a with
        em := a.em &&& ~~~u.act, xm := a.xm ||| u.act
        run := if a.xm ||| u.act = 0xFFFFFFFF then .leaving else a.run }
    | .tile => modCur fun a => { a with run := .closing }
    | .launch => do
      release
      modify (·.cancelPrologue 0)
    | .firmware => pure ()) s

def execTrap (n : BitVec 14) (s : State) : Host.Outcome State Fault Refusal :=
  unit (wordN 0 0 n 3) (fun _ => trap 0x10 (n.setWidth 64)) s
def execBrk (n : BitVec 14) (s : State) : Host.Outcome State Fault Refusal :=
  unit (wordN 0 0 n 4) (fun _ => trap 0x11 (n.setWidth 64)) s

/-- ERET (R181, R189). -/
def execEret (s : State) : Host.Outcome State Fault Refusal :=
  match unitFault s.cur (wordT 0 0 0 0 5) false with
  | some (c, v) => .next (s.takeTrap c v)
  | none =>
    let split := splitAt s.cur 0
    if split != 0 then .next (s.takeTrap 0x50 (split.setWidth 64))
    else if s.cur.epc.extractLsb' 0 2 != 0 then .next (s.takeTrap 0x0D s.cur.epc)
    else
      let s' := s.eret.land s.cur.id
      .next (if s'.cur.step && s'.cur.prof == .full then s'.systemFault s'.cur.id 0x12 0 0 else s')

/-- WFE (R178, R320, R375). -/
def execWfe (s : State) : Host.Outcome State Fault Refusal :=
  unit (wordT 0 0 0 0 6) (fun _ => do
    let a := (← get).cur
    if a.prof == .launch then pure ()
    else if a.evt then modCur fun a => { a with evt := false }
    else parkAfter .event) s

/-- HALT (R177): a firmware core waits for its doorbell. -/
def execHalt (s : State) : Host.Outcome State Fault Refusal :=
  unit (wordT 0 0 0 0 7) (fun _ => parkAfter .doorbell) s

/-- The event bit of an agent set; an agent that waits for it goes on with the bit clear (R178). -/
def State.setEvent (s : State) (g : Nat) : State :=
  match s.agent g with
  | some a => if a.waits = some .event then s.ready g else s.modAgent g fun a => { a with evt := true }
  | none => s

/-- SEV (R178): every gang of the team, or every firmware core. A launch engine has no team. -/
def execSev (s : State) : Host.Outcome State Fault Refusal :=
  unit (wordT 0 0 0 0 8) (fun _ => modify fun s =>
    let a := s.cur
    let ids := match a.prof with
      | .firmware => List.range 18
      | .launch => []
      | _ => match s.teamOf a.team with
        | some t => t.gangs
        | none => []
    ids.foldl State.setEvent s) s

/-! ### Branches, calls and returns (R169 to R171) -/

/-- The branch is taken, for the lanes where the condition holds among the active ones (R169). -/
def taken (a : Agent) (act : Mask) (m : BitVec 2) (c : BitVec 2) (k : BitVec 4) : Bool :=
  let t := act &&& maskOf fun l => condHolds k.toNat (ccOf a l c.toNat)
  match m.toNat with
  | 0 => t != 0
  | 1 => t == act
  | 2 => t == 0
  | _ => true

/-- The target of a branch: its own address and a signed distance in words (R169). -/
def branchTo (u : U) (p : BitVec 17) : Word := u.here + BitVec.ofInt 64 (4 * p.toInt)

def execBra (m c : BitVec 2) (k : BitVec 4) (p : BitVec 17) (s : State) : Host.Outcome State Fault Refusal :=
  unitJump (wordB 1 (m ++ c ++ k ++ p)) (fun u => do
    let a := (← get).cur
    return if taken a u.act m c k then some (branchTo u p) else none) s

def execCall (m c : BitVec 2) (k : BitVec 4) (p : BitVec 17) (s : State) : Host.Outcome State Fault Refusal :=
  unitJump (wordB 2 (m ++ c ++ k ++ p)) (fun u => do
    let a := (← get).cur
    if taken a u.act m c k then
      needRegs [.scalar 23]
      writeScalar 23 u.next
      return some (branchTo u p)
    else return none) s

/-- The target of JR (R171): a scalar, or a vector that agrees in every active lane. -/
def jumpTarget (u : U) : Act Word := do
  let ls := lanesIn u.act
  if u.a < 96 && (ls = [] || !ls.all fun l => lane u.va l == lane u.va (ls.headD 0)) then trapFree 0x14
  let t := if u.a < 96 then lane u.va (ls.headD 0) else lane u.va 0
  if t.extractLsb' 0 2 != 0 then trap 0x0D t
  return t

def execJmpr (a : Reg) (s : State) : Host.Outcome State Fault Refusal :=
  unitJump (wordT 3 0 a 0 0) (fun u => return some (← jumpTarget u)) s
def execCallr (d a : Reg) (s : State) : Host.Outcome State Fault Refusal :=
  unitJump (wordT 3 d a 0 1) (fun u => do
    let t ← jumpTarget u
    writeScalar (u.d - 96) u.next
    return some t) s
def execRet (a : Reg) (s : State) : Host.Outcome State Fault Refusal :=
  unitJump (wordT 3 0 a 0 2) (fun u => return some (← jumpTarget u)) s

/-! ### Masks (R172, R173) -/

/-- The old EM into a scalar and a new EM without exited lanes, uniform while the gang is bound. -/
def setMask (d : Option Nat) (m : Mask) : Act Unit := do
  let a := (← get).cur
  let em := m &&& ~~~a.xm
  let split := splitLanes a em
  if split != 0 then trap 0x50 (split.setWidth 64)
  match d with
  | some n => writeScalar (n - 96) (a.em.setWidth 64)
  | none => pure ()
  modCur fun a => { a with em := em }

/-- The lanes of EM whose condition holds (R172). -/
def condMask (a : Agent) (n : BitVec 2) (k : BitVec 4) : Mask :=
  a.em &&& maskOf fun l => condHolds k.toNat (ccOf a l n.toNat)

def execMaskc (d : Reg) (n : BitVec 2) (k : BitVec 4) (s : State) : Host.Outcome State Fault Refusal :=
  unit (wordT 4 d (0#5 ++ n) (0#3 ++ k) 0) (fun u => do
    let a := (← get).cur
    setMask (some u.d) (condMask a n k)) s
def execMaskn (d a : Reg) (s : State) : Host.Outcome State Fault Refusal :=
  unit (wordT 4 d a 0 1) (fun u => do
    let g := (← get).cur
    setMask (some u.d) ((lane u.va 0).setWidth 32 &&& ~~~g.em)) s
def execMasks (a : Reg) (s : State) : Host.Outcome State Fault Refusal :=
  unit (wordT 4 0 a 0 2) (fun u => setMask none ((lane u.va 0).setWidth 32)) s
def execMaskg (d a : Reg) (s : State) : Host.Outcome State Fault Refusal :=
  unit (wordT 4 d a 0 3) (fun u => do
    let g := (← get).cur
    setMask (some u.d) (g.em &&& maskOf fun l => lane u.va l != 0)) s
def execMaskx (d : Reg) (n : BitVec 2) (k : BitVec 4) (s : State) : Host.Outcome State Fault Refusal :=
  unit (wordT 4 d (0#5 ++ n) (0#3 ++ k) 4) (fun u => do
    let a := (← get).cur
    setMask (some u.d) (a.em &&& ~~~(condMask a n k))) s

/-! ### Special registers (R58, R174) -/

/-- Floating-point flags of earlier long-latency results not yet written (R91). -/
def Agent.heldFlags (a : Agent) : BitVec 32 :=
  a.looks.foldl (fun (acc : BitVec 32) (l : Look) =>
    if l.phase == .held then acc ||| ((l.flg.setWidth 32 : BitVec 32) <<< (8 : Nat)) else acc) 0

/-- The value of a gang-uniform special register (R58). -/
def sprValue (s : State) (a : Agent) (n : Nat) : Word :=
  let full := a.prof == .full
  let tile := a.prof == .tile
  match n with
  | 0 => if full then a.em.setWidth 64 else 0
  | 1 => if full then a.xm.setWidth 64 else 0
  | 2 => if full then a.wb.setWidth 64 else 0
  | 3 => if full then a.cb else 0
  | 4 => if full then a.nslots.setWidth 64 else 0
  | 5 => if full then a.ls.setWidth 64 else 0
  | 6 => ((a.fpc ||| a.heldFlags) &&& fpcMask).setWidth 64
  | 7 => a.gid
  | 8 => a.tid
  | 9 => a.tcoord
  | 10 => a.stage.setWidth 64
  | 12 => BitVec.ofNat 64 s.clk
  | 13 => BitVec.ofNat 64 s.time
  | 14 => a.pri.setWidth 64
  | 15 => a.cause.setWidth 64
  | 16 => a.tval
  | 17 => a.epc
  | 18 => if full then a.batch.setWidth 64 else 0
  | 19 => if full || tile then a.kbind else 0
  | 20 => if full then BitVec.ofNat 64 (a.core.toNat % 4) else 0
  | 21 => if full then BitVec.ofNat 64 (a.core.toNat / 4) else if tile then BitVec.ofNat 64 (a.id - 64) else 0
  | 22 => a.berth.setWidth 64
  | 23 => a.trapvec &&& ~~~3#64
  | 24 => if tile then a.kcore.setWidth 64 else 0
  | _ => 0

/-- Waits until every earlier unit has computed its flags (R91). -/
def flagsKnown : Act Unit := do
  let a := (← get).cur
  -- one saved by a trap is issued again under the FPC that its handler leaves (R241)
  if a.looks.any fun l => 0x29 ≤ l.major && l.major < 0x30 && l.phase != .held && l.phase != .saved then hold .results

def execMfs (d a : Reg) (s : State) : Host.Outcome State Fault Refusal :=
  unit (wordT 5 d a 0 0) (fun u => do
    if u.a = 6 then flagsKnown
    let s ← get
    if u.a = 11 then writeReg u u.d (lanesOf fun l => if u.full then BitVec.ofNat 64 l else 0) 0
    else if u.d < 96 then writeReg u u.d (splat (sprValue s s.cur u.a)) 0
    else writeScalar (u.d - 96) (sprValue s s.cur u.a)) s

def execMts (d a : Reg) (s : State) : Host.Outcome State Fault Refusal :=
  unit (wordT 5 d a 0 1) (fun u => do
    let g := (← get).cur
    let v := lane u.va 0
    match u.d with
    | 0 => if u.full then setMask none (v.setWidth 32)
    | 2 =>
      if u.full then
        if g.nslots.toNat - 96 < v.toNat then trap 0x0A (u.w.setWidth 64)
        modCur fun a => { a with wb := v.setWidth 10 }
    | 6 => do
      -- results under way were asked for under the old mode (R240)
      flagsKnown
      modCur fun a => { a with fpc := v.setWidth 32 &&& fpcMask }
    | 15 => modCur fun a => { a with cause := v.setWidth 8 }
    | 16 => modCur fun a => { a with tval := v }
    | 17 => modCur fun a => { a with epc := v }
    | 23 => modCur fun a => { a with trapvec := v &&& ~~~3#64 }
    | _ => pure ()) s

/-! ### Barriers (R183, R184) -/

/-- The barrier of a quad has its state apart from that of its lowest-indexed member (R183). -/
def State.sepBar (s : State) (t : Team) (quad : Bool) : Bool :=
  quad && (match s.gridOf t.grid with | some g => g.quad | none => false)

/-- The gangs that have arrived at a barrier. -/
def State.arrivedAt (s : State) (t : Team) (quad : Bool) : List Nat :=
  let home := s.barHome t quad
  if s.sepBar t quad then home.qarrived else home.arrived

/-- The gang waits in a BARTO whose time has passed before this aclk (R184). -/
def State.overdue (s : State) (g : Nat) : Bool := match s.agent g with
  | some a => match a.waits with
    | some (.barto _ until_ _) => clkOf until_ < s.clk
    | _ => false
  | none => false

/-- The arrivals of overdue BARTOs withdrawn, and their gangs ready (R184). -/
def State.withdraw (s : State) (t : Team) : State :=
  let late := t.arrived.filter s.overdue
  if late = [] then s
  else late.foldl State.ready ((s.modTeam t.id fun y => { y with arrived := y.arrived.filter (!late.contains ·) }).saveHead t.id)

/-- An instance completes when every gang of its scope that has not retired has arrived: the
generation advances and every waiting gang becomes ready, a BARTO with 0 in its scalar. The frame shows it (R41). -/
def State.barComplete (s : State) (t : Nat) (quad : Bool) : State :=
  match s.teamOf t with
  | none => s
  | some x =>
    let s := s.withdraw x
    let home := s.barHome x quad
    let sep := s.sepBar x quad
    let arrived := s.arrivedAt x quad
    let n := ((s.barTeams x quad).map fun y => (s.countedGangs y).length).foldl (· + ·) 0
    if arrived ≠ [] && n ≤ arrived.length then
      let s := (s.modTeam home.id fun y =>
        if sep then { y with gen := y.gen + 1, qwaitSince := none, qarrived := [], blocked := false }
        else { y with gen := y.gen + 1, waitSince := none, arrived := [], blocked := false }).saveHead home.id
      arrived.foldl (fun s g =>
        match s.agent g with
        | some a =>
          let s := match a.waits with
            | some (.barto _ _ sd) => s.modAgent g fun a => a.postScalar sd 0
            | _ => s
          s.ready g
        | none => s) s
    else s

/-- Arrival of the gang at a barrier, after the check of its lanes and a release (R127), and its park (R183). -/
def arrive (quad : Bool) (w : BitVec 32 → Wait) (swaps : Bool) : Act Unit := do
  let a := (← get).cur
  if a.em != ~~~a.xm then trapFree 0x13
  release
  modify fun s =>
    match s.teamOf a.team with
    | none => s
    | some t =>
      let home := s.barHome t quad
      let s := s.park a.id (w home.gen)
      let first := fun (x : Option Nat) => if swaps && x.isNone then some s.clk else x
      let s := s.modTeam home.id fun y =>
        if s.sepBar t quad then { y with qwaitSince := first y.qwaitSince, qarrived := y.qarrived ++ [a.id] }
        else { y with waitSince := first y.waitSince, arrived := y.arrived ++ [a.id] }
      (s.saveHead home.id).barComplete a.team quad

def execBarT (s : State) : Host.Outcome State Fault Refusal :=
  unit (wordT 9 0 0 0 0) (fun _ => arrive false .barrier true) s
def execBarQ (s : State) : Host.Outcome State Fault Refusal :=
  unit (wordT 9 0 0 0 1) (fun _ => arrive true .barrier true) s

/-- BARTO (R184): with no time to wait, a gang that does not complete the instance withdraws at once.
The wait ends at the swap threshold of the berth where that is not 0. -/
def execBarto (d a : Reg) (s : State) : Host.Outcome State Fault Refusal :=
  unit (wordT 9 d a 0 2) (fun u => do
    let s ← get
    let g := s.cur
    if g.em != ~~~g.xm then trapFree 0x13
    let th := bits (s.sysreg (dev (0x200 + g.berth.toNat)) 0x0000001400000000) 47 32
    let n := (lane u.va 0).toNat
    let wait := if th = 0 then n else min n (1000 * th)
    let last := match s.teamOf g.team with
      | some t => (s.countedGangs t).length ≤ (t.arrived.filter (!s.overdue ·)).length + 1
      | none => true
    writeScalar (u.d - 96) 1
    if wait = 0 && !last then pure ()
    else arrive false (fun gen => .barto gen (s.time + wait) (u.d - 96)) false) s

/-! ### Queue ports (R187) -/

/-- The queue's block lies within the scratch size of the launch. -/
def queueFits (s : State) (a : Agent) (q : Nat) : Bool :=
  match s.gridOf a.grid with
  | some g => 4096 * q + 4096 ≤ g.scratch
  | none => false

/-- A byte of a word replaced. -/
def setByteOf (x : Word) (n : Nat) (v : Nat) : Word := setBits x (8 * n) 8 v

def execQbind (d a : Reg) (s : State) : Host.Outcome State Fault Refusal :=
  unit (wordT 12 d a 0 0) (fun u => do
    let s ← get
    let g := s.cur
    let v := (lane u.va 0).toNat
    let n := u.d - 120
    let tile := g.prof == .tile
    if 2 ^ (if tile then 10 else 8) ≤ v then trap 0x02 (u.w.setWidth 64)
    let bound := v.testBit 7
    let core := if bound then v / 2 ^ 8 % 4 else 0
    if bound && (!queueFits s g (v % 64) || (tile && (s.member g.team core).isNone)) then trapFree 0x8F
    modCur fun a => { a with
      kbind := setByteOf a.kbind n (v % 2 ^ 8)
      kcore := if tile then BitVec.ofNat 16 (a.kcore.toNat - (a.kcore.toNat >>> (2 * n) % 4) <<< (2 * n) + core <<< (2 * n))
        else a.kcore }) s

def execQstat (d a : Reg) (s : State) : Host.Outcome State Fault Refusal :=
  unit (wordT 12 d a 0 1) (fun u => do
    let s ← get
    let g := s.cur
    let n := u.a - 120
    let k := g.kbyte n
    if !k.getLsbD 7 then writeScalar (u.d - 96) 0
    else match s.portTeam g (g.kcore.extractLsb' (2 * n) 2).toNat with
      | none => trapFree 0x8F
      | some t =>
        let q := k.toNat % 64
        writeScalar (u.d - 96) (BitVec.ofNat 64 (qCount t.scratch q % 16 + (qClosed t.scratch q).toNat * 2 ^ 8
          + 2 ^ 16 + (k.getLsbD 6).toNat * 2 ^ 17))) s

def execQclose (d : Reg) (s : State) : Host.Outcome State Fault Refusal :=
  unit (wordT 12 d 0 0 2) (fun u => do
    let s ← get
    let g := s.cur
    let n := u.d - 120
    let k := g.kbyte n
    if !k.getLsbD 7 then trapFree 0x90
    match s.portTeam g (g.kcore.extractLsb' (2 * n) 2).toNat with
    | none => trapFree 0x8F
    | some t =>
      let q := k.toNat % 64
      set ((s.modTeam t.id fun t => { t with scratch := t.scratch.setByte (4096 * q + 0x10) 1 }).queueEvent t.id q)) s

end Sys2Proof.Machine
end

