-- ==== Sys2Proof/Machine/Lane.lean ====
section
/-!
DEFINITION. The lane engine (spec/08_lane_engine.md): what each form computes in a lane. A form is a
function of the lane's operands that answers its result and flags; the shared operations below read
the operands, raise the form's faults over all lanes at once (R197), and write.
-/

namespace Sys2Proof.Machine

/-! ### Shared operations -/

/-- A unit that writes in each active lane the value f gives, and its flags under FLAGS (R195). -/
def laneForm (f : Agent → U → Nat → Word × Nat) (u : U) : Act Unit := do
  let a := (← get).cur
  let v := lanesOf fun l => (f a u l).1
  writeReg u u.d v 0
  writeFlags u fun l => (f a u l).2

/-- A packed integer form of width w with no fault (R193, R198): op gives result and flags of the
sub-elements of a, b and d; flags come from sub-element 0. -/
def packed (w : Nat) (op : Bool → Nat → Nat → Nat → Nat × Nat) (dflt : Bool) (u : U) : Act Unit :=
  laneForm (fun a u l =>
    let x := lane u.va l
    let y := lane u.vb l
    let z := lane u.vd l
    let c := carryIn u a dflt l
    (packEls w fun j => (op (if j = 0 then c else dflt) (el w x j) (el w y j) (el w z j)).1,
     (op c (el w x 0) (el w y 0) (el w z 0)).2)) u

/-- A result whose C and V are 0 (R200). -/
def plain (w r : Nat) : Nat × Nat := (r % 2 ^ w, intFlags w (r % 2 ^ w) false false)

/-- Width of an IALU type code (R198). -/
def iwidth (t : BitVec 2) : Nat := 64 >>> t.toNat

/-- A register copied with its word poison (R196). -/
def copyForm (flags : Word → Nat) (u : U) : Act Unit := do
  writeReg u u.d u.va u.pa
  writeFlags u fun l => flags (lane u.va l)

/-! ### IALU (R198, R199, R200) -/

def execAdd (t : BitVec 2) (d a b : Reg) (s : State) : Host.Outcome State Fault Refusal :=
  unit (wordT (4#5 ++ t) d a b 0) (packed (iwidth t) (fun c x y _ => addWith (iwidth t) x y c) false) s

def execSub (t : BitVec 2) (d a b : Reg) (s : State) : Host.Outcome State Fault Refusal :=
  unit (wordT (4#5 ++ t) d a b 1) (packed (iwidth t) (fun c x y _ => subWith (iwidth t) x y c) true) s

def execAnd (t : BitVec 2) (d a b : Reg) (s : State) : Host.Outcome State Fault Refusal :=
  unit (wordT (4#5 ++ t) d a b 2) (packed (iwidth t) (fun _ x y _ => plain (iwidth t) (x &&& y)) false) s

def execOr (t : BitVec 2) (d a b : Reg) (s : State) : Host.Outcome State Fault Refusal :=
  unit (wordT (4#5 ++ t) d a b 3) (packed (iwidth t) (fun _ x y _ => plain (iwidth t) (x ||| y)) false) s

def execXor (t : BitVec 2) (d a b : Reg) (s : State) : Host.Outcome State Fault Refusal :=
  unit (wordT (4#5 ++ t) d a b 4) (packed (iwidth t) (fun _ x y _ => plain (iwidth t) (x ^^^ y)) false) s

def execAndn (t : BitVec 2) (d a b : Reg) (s : State) : Host.Outcome State Fault Refusal :=
  unit (wordT (4#5 ++ t) d a b 5)
    (packed (iwidth t) (fun _ x y _ => plain (iwidth t) (x &&& (2 ^ iwidth t - 1 - y))) false) s

def execShl (t : BitVec 2) (d a b : Reg) (s : State) : Host.Outcome State Fault Refusal :=
  unit (wordT (4#5 ++ t) d a b 6) (packed (iwidth t) (fun _ x y _ => shlWith (iwidth t) x y) false) s

def execShr (t : BitVec 2) (d a b : Reg) (s : State) : Host.Outcome State Fault Refusal :=
  unit (wordT (4#5 ++ t) d a b 7) (packed (iwidth t) (fun _ x y _ => shrWith (iwidth t) x y) false) s

def execSar (t : BitVec 2) (d a b : Reg) (s : State) : Host.Outcome State Fault Refusal :=
  unit (wordT (4#5 ++ t) d a b 8) (packed (iwidth t) (fun _ x y _ => sarWith (iwidth t) x y) false) s

def execRol (t : BitVec 2) (d a b : Reg) (s : State) : Host.Outcome State Fault Refusal :=
  unit (wordT (4#5 ++ t) d a b 9) (packed (iwidth t) (fun _ x y _ => rolWith (iwidth t) x y) false) s

/-- The smaller or larger of two numbers, read as signed or unsigned. -/
def pick (w : Nat) (signed larger : Bool) (x y : Nat) : Nat :=
  let lt := if signed then decide (signedOf w x < signedOf w y) else decide (x < y)
  if lt = larger then y else x

def execMin (t : BitVec 2) (d a b : Reg) (s : State) : Host.Outcome State Fault Refusal :=
  unit (wordT (4#5 ++ t) d a b 10)
    (packed (iwidth t) (fun _ x y _ => plain (iwidth t) (pick (iwidth t) true false x y)) false) s

def execMax (t : BitVec 2) (d a b : Reg) (s : State) : Host.Outcome State Fault Refusal :=
  unit (wordT (4#5 ++ t) d a b 11)
    (packed (iwidth t) (fun _ x y _ => plain (iwidth t) (pick (iwidth t) true true x y)) false) s

def execMinu (t : BitVec 2) (d a b : Reg) (s : State) : Host.Outcome State Fault Refusal :=
  unit (wordT (4#5 ++ t) d a b 12)
    (packed (iwidth t) (fun _ x y _ => plain (iwidth t) (pick (iwidth t) false false x y)) false) s

def execMaxu (t : BitVec 2) (d a b : Reg) (s : State) : Host.Outcome State Fault Refusal :=
  unit (wordT (4#5 ++ t) d a b 13)
    (packed (iwidth t) (fun _ x y _ => plain (iwidth t) (pick (iwidth t) false true x y)) false) s

def execAbsd (t : BitVec 2) (d a b : Reg) (s : State) : Host.Outcome State Fault Refusal :=
  unit (wordT (4#5 ++ t) d a b 14)
    (packed (iwidth t) (fun _ x y _ =>
      plain (iwidth t) (signedOf (iwidth t) x - signedOf (iwidth t) y).natAbs) false) s

def execMov (t : BitVec 2) (d a : Reg) (s : State) : Host.Outcome State Fault Refusal :=
  unit (wordT (4#5 ++ t) d a 0 15)
    (copyForm fun x => intFlags (iwidth t) (el (iwidth t) x 0) false false) s

/-! ### IMUL (R201, R202) -/

/-- A packed division form: 0x19 when a sub-element of b is zero in an active lane, over all lanes at
once (R197, R202). -/
def packedDiv (w : Nat) (op : Nat → Nat → Nat) (u : U) : Act Unit := do
  let bad := u.act &&& maskOf fun l => (List.range (64 / w)).any fun j => el w (lane u.vb l) j == 0
  if bad != 0 then trap 0x19 (bad.setWidth 64)
  packed w (fun _ x y _ => plain w (op x y)) false u

/-- Signed quotient truncated toward zero, and its remainder (R201, R202). -/
def idivOf (w x y : Nat) : Nat := wrap w ((signedOf w x).tdiv (signedOf w y))
def iremOf (w x y : Nat) : Nat := wrap w ((signedOf w x).tmod (signedOf w y))

def execMulI64 (d a b : Reg) (s : State) : Host.Outcome State Fault Refusal :=
  unit (wordT 20 d a b 0) (packed 64 (fun _ x y _ => plain 64 (x * y)) false) s
def execMulhiI64 (d a b : Reg) (s : State) : Host.Outcome State Fault Refusal :=
  unit (wordT 20 d a b 1) (packed 64 (fun _ x y _ => plain 64 (x * y / 2 ^ 64)) false) s
def execMulhisI64 (d a b : Reg) (s : State) : Host.Outcome State Fault Refusal :=
  unit (wordT 20 d a b 2)
    (packed 64 (fun _ x y _ => plain 64 (wrap 64 (signedOf 64 x * signedOf 64 y / (2 ^ 64 : Nat)))) false) s
def execMadI64 (d a b : Reg) (s : State) : Host.Outcome State Fault Refusal :=
  unit (wordT 20 d a b 3) (packed 64 (fun _ x y z => plain 64 (z + x * y)) false) s
def execMulI32 (d a b : Reg) (s : State) : Host.Outcome State Fault Refusal :=
  unit (wordT 20 d a b 4) (packed 32 (fun _ x y _ => plain 32 (x * y)) false) s
def execMulhiI32 (d a b : Reg) (s : State) : Host.Outcome State Fault Refusal :=
  unit (wordT 20 d a b 5) (packed 32 (fun _ x y _ => plain 32 (x * y / 2 ^ 32)) false) s
def execMulhisI32 (d a b : Reg) (s : State) : Host.Outcome State Fault Refusal :=
  unit (wordT 20 d a b 6)
    (packed 32 (fun _ x y _ => plain 32 (wrap 32 (signedOf 32 x * signedOf 32 y / (2 ^ 32 : Nat)))) false) s
def execMadI32 (d a b : Reg) (s : State) : Host.Outcome State Fault Refusal :=
  unit (wordT 20 d a b 7) (packed 32 (fun _ x y z => plain 32 (z + x * y)) false) s
def execDivI64 (d a b : Reg) (s : State) : Host.Outcome State Fault Refusal :=
  unit (wordT 20 d a b 8) (packedDiv 64 fun x y => x / y) s
def execIdivI64 (d a b : Reg) (s : State) : Host.Outcome State Fault Refusal :=
  unit (wordT 20 d a b 9) (packedDiv 64 (idivOf 64)) s
def execRemI64 (d a b : Reg) (s : State) : Host.Outcome State Fault Refusal :=
  unit (wordT 20 d a b 10) (packedDiv 64 fun x y => x % y) s
def execIremI64 (d a b : Reg) (s : State) : Host.Outcome State Fault Refusal :=
  unit (wordT 20 d a b 11) (packedDiv 64 (iremOf 64)) s
def execDivI32 (d a b : Reg) (s : State) : Host.Outcome State Fault Refusal :=
  unit (wordT 20 d a b 12) (packedDiv 32 fun x y => x / y) s
def execIdivI32 (d a b : Reg) (s : State) : Host.Outcome State Fault Refusal :=
  unit (wordT 20 d a b 13) (packedDiv 32 (idivOf 32)) s
def execRemI32 (d a b : Reg) (s : State) : Host.Outcome State Fault Refusal :=
  unit (wordT 20 d a b 14) (packedDiv 32 fun x y => x % y) s
def execIremI32 (d a b : Reg) (s : State) : Host.Outcome State Fault Refusal :=
  unit (wordT 20 d a b 15) (packedDiv 32 (iremOf 32)) s

/-! ### Compares, immediates and selection (R176, R203, R204, R205) -/

/-- Writes a compare's flags, or the boolean form of its condition, in each active lane (R203, R214). -/
def writeCompare (u : U) (c k : Nat) (fl : Nat → Nat) : Act Unit :=
  writeCc c u.act fun l => if k = 14 then fl l else boolForm (condHolds k (fl l))

def execIcmp (t : BitVec 2) (c : BitVec 2) (a b : Reg) (k : BitVec 4) (s : State) :
    Host.Outcome State Fault Refusal :=
  unit (wordT 21 (0#3 ++ t ++ c) a b k) (fun u =>
    writeCompare u c.toNat k.toNat fun l =>
      (subWith (iwidth t) (el (iwidth t) (lane u.va l) 0) (el (iwidth t) (lane u.vb l) 0) true).2) s

/-- The immediate as a 64-bit value (R204). -/
def U.immWord (u : U) : Word := BitVec.ofInt 64 u.imm

def execAddi (d a : Reg) (i : BitVec 11) (s : State) : Host.Outcome State Fault Refusal :=
  unit (wordI 23 d a i)
    (laneForm fun ag u l =>
      let r := addWith 64 (lane u.va l).toNat u.immWord.toNat (carryIn u ag false l)
      (BitVec.ofNat 64 r.1, r.2)) s

def execMovi (d : Reg) (i : BitVec 11) (s : State) : Host.Outcome State Fault Refusal :=
  unit (wordI 24 d 0 i) (laneForm fun _ u _ => (u.immWord, 0)) s

def execAndi (d a : Reg) (i : BitVec 11) (s : State) : Host.Outcome State Fault Refusal :=
  unit (wordI 26 d a i) (laneForm fun _ u l => (lane u.va l &&& u.immWord, 0)) s

def execShfi (d a : Reg) (k w : BitVec 2) (n : BitVec 6) (s : State) : Host.Outcome State Fault Refusal :=
  unit (wordI 25 d a (k ++ 0#1 ++ w ++ n)) (fun u => do
    let i := (u.imm % 2048).toNat
    let wd := 64 >>> (i / 64 % 4)
    let m := i % 64
    let op : Nat → Nat := fun x => match i / 512 with
      | 0 => (shlWith wd x m).1
      | 1 => (shrWith wd x m).1
      | 2 => (sarWith wd x m).1
      | _ => (rolWith wd x m).1
    laneForm (fun _ u l => (packEls wd fun j => op (el wd (lane u.va l) j), 0)) u) s

def execSel (d a b : Reg) (n t : BitVec 2) (s : State) : Host.Outcome State Fault Refusal :=
  unit (wordT 27 d a b (n ++ t)) (laneForm fun ag u l =>
    let k := match t with | 0 => 0 | 1 => 1 | 2 => 11 | _ => 10
    (if condHolds k (ccOf ag l n.toNat) then lane u.va l else lane u.vb l, 0)) s

/-! ### CCOP (R175) -/

def execCcmov (d a : BitVec 2) (s : State) : Host.Outcome State Fault Refusal :=
  unit (wordT 28 (0#5 ++ d) (0#5 ++ a) 0 0) (fun u => do
    let ag := (← get).cur
    writeCc d.toNat u.act fun l => ccOf ag l a.toNat) s

def execCcand (d : BitVec 2) (x : BitVec 4) (a : BitVec 2) (y : BitVec 4) (b : BitVec 2) (s : State) :
    Host.Outcome State Fault Refusal :=
  unit (wordT 28 (0#5 ++ d) (0#1 ++ x ++ a) (0#1 ++ y ++ b) 1) (fun u => do
    let ag := (← get).cur
    writeCc d.toNat u.act fun l => boolForm
      (condHolds x.toNat (ccOf ag l a.toNat) && condHolds y.toNat (ccOf ag l b.toNat))) s

def execCcor (d : BitVec 2) (x : BitVec 4) (a : BitVec 2) (y : BitVec 4) (b : BitVec 2) (s : State) :
    Host.Outcome State Fault Refusal :=
  unit (wordT 28 (0#5 ++ d) (0#1 ++ x ++ a) (0#1 ++ y ++ b) 2) (fun u => do
    let ag := (← get).cur
    writeCc d.toNat u.act fun l => boolForm
      (condHolds x.toNat (ccOf ag l a.toNat) || condHolds y.toNat (ccOf ag l b.toNat))) s

def execCcget (d : Reg) (a : BitVec 2) (s : State) : Host.Outcome State Fault Refusal :=
  unit (wordT 28 d (0#5 ++ a) 0 3)
    (laneForm fun ag _ l => (BitVec.ofNat 64 (ccOf ag l a.toNat), 0)) s

def execCcset (d : BitVec 2) (a : Reg) (s : State) : Host.Outcome State Fault Refusal :=
  unit (wordT 28 (0#5 ++ d) a 0 4) (fun u => writeCc d.toNat u.act fun l => (lane u.va l).toNat % 16) s

/-! ### BITS, LEA, IEXT (R206, R207, R208) -/

/-- A form on the whole 64-bit value (R206). -/
def whole (f : Nat → Nat) (u : U) : Act Unit :=
  laneForm (fun _ u l => let r := plain 64 (f (lane u.va l).toNat); (BitVec.ofNat 64 r.1, r.2)) u

def execPopc (d a : Reg) (s : State) : Host.Outcome State Fault Refusal :=
  unit (wordT 29 d a 0 0) (whole (popcount 64)) s

/-- Leading zero bits of a 64-bit value. -/
def clz64 (x : Nat) : Nat := if x = 0 then 64 else 63 - x.log2

/-- Trailing zero bits of a 64-bit value. -/
def ctz64 (x : Nat) : Nat := ((List.range 64).find? x.testBit).getD 64

def execClz (d a : Reg) (s : State) : Host.Outcome State Fault Refusal :=
  unit (wordT 29 d a 0 1) (whole clz64) s
def execCtz (d a : Reg) (s : State) : Host.Outcome State Fault Refusal :=
  unit (wordT 29 d a 0 2) (whole ctz64) s
def execBrev (d a : Reg) (s : State) : Host.Outcome State Fault Refusal :=
  unit (wordT 29 d a 0 3)
    (whole fun x => (List.range 64).foldl (fun acc i => if x.testBit (63 - i) then acc + 2 ^ i else acc) 0) s
def execBswap (d a : Reg) (s : State) : Host.Outcome State Fault Refusal :=
  unit (wordT 29 d a 0 4) (whole fun x => joinEls 8 (splitEls 8 8 x).reverse) s

/-- The lanes whose bit field leaves the word trap with 0x1A (R206). -/
def checkField (u : U) : Act Unit := do
  let bad := u.act &&& maskOf fun l =>
    let p := bits (lane u.vb l) 5 0
    let n := bits (lane u.vb l) 14 8
    decide (64 < n) || decide (64 < p + n)
  if bad != 0 then trap 0x1A (bad.setWidth 64)

def execBfe (d a b : Reg) (s : State) : Host.Outcome State Fault Refusal :=
  unit (wordT 29 d a b 5) (fun u => do
    checkField u
    laneForm (fun _ u l =>
      let p := bits (lane u.vb l) 5 0
      let n := bits (lane u.vb l) 14 8
      let x := (lane u.va l).toNat >>> p % 2 ^ n
      let r := if n = 0 then plain 64 0
        else if (lane u.vb l).getLsbD 15 then plain 64 (wrap 64 (signedOf n x)) else plain 64 x
      (BitVec.ofNat 64 r.1, r.2)) u) s

def execBfi (d a b : Reg) (s : State) : Host.Outcome State Fault Refusal :=
  unit (wordT 29 d a b 6) (fun u => do
    checkField u
    laneForm (fun _ u l =>
      let p := bits (lane u.vb l) 5 0
      let n := bits (lane u.vb l) 14 8
      let r := setBits (lane u.vd l) p n (lane u.va l).toNat
      (r, (plain 64 r.toNat).2)) u) s

def execLea (d a b : Reg) (s : State) : Host.Outcome State Fault Refusal :=
  unit (wordT 30 d a b 0) (laneForm fun _ u l => (lane u.va l + 8 * lane u.vb l, 0)) s

def execSextI8 (d a : Reg) (s : State) : Host.Outcome State Fault Refusal :=
  unit (wordT 31 d a 0 0) (laneForm fun _ u l => (sext 8 (lane u.va l), 0)) s
def execSextI16 (d a : Reg) (s : State) : Host.Outcome State Fault Refusal :=
  unit (wordT 31 d a 0 1) (laneForm fun _ u l => (sext 16 (lane u.va l), 0)) s
def execSextI32 (d a : Reg) (s : State) : Host.Outcome State Fault Refusal :=
  unit (wordT 31 d a 0 2) (laneForm fun _ u l => (sext 32 (lane u.va l), 0)) s
def execZextI8 (d a : Reg) (s : State) : Host.Outcome State Fault Refusal :=
  unit (wordT 31 d a 0 3) (laneForm fun _ u l => (zext 8 (lane u.va l), 0)) s
def execZextI16 (d a : Reg) (s : State) : Host.Outcome State Fault Refusal :=
  unit (wordT 31 d a 0 4) (laneForm fun _ u l => (zext 16 (lane u.va l), 0)) s
def execZextI32 (d a : Reg) (s : State) : Host.Outcome State Fault Refusal :=
  unit (wordT 31 d a 0 5) (laneForm fun _ u l => (zext 32 (lane u.va l), 0)) s

/-- The low w bits of the 2w-bit sub-elements of a, then of b (R208). -/
def packForm (w : Nat) (u : U) : Act Unit :=
  laneForm (fun _ u l =>
    let h := 32 / w
    (packEls w fun j => if j < h then el (2 * w) (lane u.va l) j else el (2 * w) (lane u.vb l) (j - h), 0)) u

/-- The sub-elements of a half of a widened (R208). -/
def unpkForm (w : Nat) (sel : BitVec 7) (u : U) : Act Unit :=
  laneForm (fun _ u l =>
    let h := 32 / w
    (packEls (2 * w) fun j =>
      let x := el w (lane u.va l) (j + if sel.getLsbD 0 then h else 0)
      if sel.getLsbD 1 then x else wrap (2 * w) (signedOf w x), 0)) u

def execPackI32 (d a b : Reg) (s : State) : Host.Outcome State Fault Refusal :=
  unit (wordT 31 d a b 6) (laneForm fun _ u l =>
    (packEls 32 fun j => if j = 0 then el 32 (lane u.va l) 0 else el 32 (lane u.vb l) 0, 0)) s
def execPackI16 (d a b : Reg) (s : State) : Host.Outcome State Fault Refusal :=
  unit (wordT 31 d a b 7) (packForm 16) s
def execPackI8 (d a b : Reg) (s : State) : Host.Outcome State Fault Refusal :=
  unit (wordT 31 d a b 8) (packForm 8) s
def execUnpkI32 (d a : Reg) (x : BitVec 7) (s : State) : Host.Outcome State Fault Refusal :=
  unit (wordT 31 d a x 9) (unpkForm 32 x) s
def execUnpkI16 (d a : Reg) (x : BitVec 7) (s : State) : Host.Outcome State Fault Refusal :=
  unit (wordT 31 d a x 10) (unpkForm 16 x) s
def execUnpkI8 (d a : Reg) (x : BitVec 7) (s : State) : Host.Outcome State Fault Refusal :=
  unit (wordT 31 d a x 11) (unpkForm 8 x) s

/-! ### FALU (R209 to R213) -/

/-- Format of a FALU or FCMP type code (R69). -/
def ffmt (t : BitVec 2) : Fmt := match t with
  | 0 => Fmt.f64
  | 1 => Fmt.f32
  | 2 => Fmt.f16
  | _ => Fmt.bf16

/-- A packed floating-point form: flags of every sub-element of a lane ORed and raised together, the
flags of sub-element 0 written under FLAGS (R88, R209, R213). -/
def fpForm (f : Fmt) (op : Rm → Bool → Nat → Nat → Nat → Nat × Flags) (u : U) : Act Unit := do
  let a := (← get).cur
  let w := f.width
  let r := fun (l j : Nat) => op (rmOf a) (ftzOf a) (el w (lane u.va l) j) (el w (lane u.vb l) j) (el w (lane u.vd l) j)
  raiseFp u.act fun l => (List.range (64 / w)).foldl (fun acc j => acc ||| (r l j).2) 0
  writeReg u u.d (lanesOf fun l => packEls w fun j => (r l j).1) 0
  writeFlags u fun l => fpFlags f (r l 0).1

def execFadd (t : BitVec 2) (d a b : Reg) (s : State) : Host.Outcome State Fault Refusal :=
  unit (wordT (8#5 ++ t) d a b 0) (fpForm (ffmt t) fun rm z x y _ => fAdd (ffmt t) rm z x y false) s
def execFsub (t : BitVec 2) (d a b : Reg) (s : State) : Host.Outcome State Fault Refusal :=
  unit (wordT (8#5 ++ t) d a b 1) (fpForm (ffmt t) fun rm z x y _ => fAdd (ffmt t) rm z x y true) s
def execFmul (t : BitVec 2) (d a b : Reg) (s : State) : Host.Outcome State Fault Refusal :=
  unit (wordT (8#5 ++ t) d a b 2) (fpForm (ffmt t) fun rm z x y _ => fMul (ffmt t) rm z x y) s
def execFma (t : BitVec 2) (d a b : Reg) (s : State) : Host.Outcome State Fault Refusal :=
  unit (wordT (8#5 ++ t) d a b 3) (fpForm (ffmt t) fun rm z x y c => fMa (ffmt t) rm z x y c false false) s
def execFms (t : BitVec 2) (d a b : Reg) (s : State) : Host.Outcome State Fault Refusal :=
  unit (wordT (8#5 ++ t) d a b 4) (fpForm (ffmt t) fun rm z x y c => fMa (ffmt t) rm z x y c true false) s
def execFnma (t : BitVec 2) (d a b : Reg) (s : State) : Host.Outcome State Fault Refusal :=
  unit (wordT (8#5 ++ t) d a b 5) (fpForm (ffmt t) fun rm z x y c => fMa (ffmt t) rm z x y c false true) s
def execFnms (t : BitVec 2) (d a b : Reg) (s : State) : Host.Outcome State Fault Refusal :=
  unit (wordT (8#5 ++ t) d a b 6) (fpForm (ffmt t) fun rm z x y c => fMa (ffmt t) rm z x y c true true) s

/-- Selection of the smaller or larger value, −0 below +0 (R210). -/
def fPick (f : Fmt) (ftz larger : Bool) (x y : Nat) : Nat × Flags :=
  let x := f.ftzIn ftz x
  let y := f.ftzIn ftz y
  match nanPick f [x, y] with
  | some n => (n, snanFlag f [x, y])
  | none =>
    let o := fOrder f x y
    let less := decide (o < 0) || (o == 0 && x.testBit (f.width - 1) && !y.testBit (f.width - 1))
    (if less = larger then y else x, 0)

def execFmin (t : BitVec 2) (d a b : Reg) (s : State) : Host.Outcome State Fault Refusal :=
  unit (wordT (8#5 ++ t) d a b 7) (fpForm (ffmt t) fun _ z x y _ => fPick (ffmt t) z false x y) s
def execFmax (t : BitVec 2) (d a b : Reg) (s : State) : Host.Outcome State Fault Refusal :=
  unit (wordT (8#5 ++ t) d a b 8) (fpForm (ffmt t) fun _ z x y _ => fPick (ffmt t) z true x y) s
def execFabs (t : BitVec 2) (d a : Reg) (s : State) : Host.Outcome State Fault Refusal :=
  unit (wordT (8#5 ++ t) d a 0 9) (fpForm (ffmt t) fun _ _ x _ _ => (x % (ffmt t).signBit, 0)) s
def execFneg (t : BitVec 2) (d a : Reg) (s : State) : Host.Outcome State Fault Refusal :=
  unit (wordT (8#5 ++ t) d a 0 10) (fpForm (ffmt t) fun _ _ x _ _ => (x ^^^ (ffmt t).signBit, 0)) s
def execFcpys (t : BitVec 2) (d a b : Reg) (s : State) : Host.Outcome State Fault Refusal :=
  unit (wordT (8#5 ++ t) d a b 11) (fpForm (ffmt t) fun _ _ x y _ =>
    ((ffmt t).signed (y.testBit ((ffmt t).width - 1)) (x % (ffmt t).signBit), 0)) s
def execFdiv (t : BitVec 2) (d a b : Reg) (s : State) : Host.Outcome State Fault Refusal :=
  unit (wordT (8#5 ++ t) d a b 12) (fpForm (ffmt t) fun rm z x y _ => fDiv (ffmt t) rm z x y) s
def execFsqrt (t : BitVec 2) (d a : Reg) (s : State) : Host.Outcome State Fault Refusal :=
  unit (wordT (8#5 ++ t) d a 0 13) (fpForm (ffmt t) fun rm z x _ _ => fSqrt (ffmt t) rm z x) s

/-- Rounding to an integral value (R212); x raises IX for a change. -/
def fRnd (f : Fmt) (rm : Rm) (ftz x : Bool) (a : Nat) : Nat × Flags :=
  let a := f.ftzIn ftz a
  match f.val a with
  | .nan c => (f.quiet c, if f.isSnan c then flagIV else 0)
  | .inf s => (f.infinity s, 0)
  | .fin s m e =>
    if 0 ≤ e || m = 0 then (a, 0)
    else
      let y := (roundMul rm s m (2 ^ (-e).toNat) 0).1
      if y = 0 then (f.signed s 0, if x then flagIX else 0)
      else
        let r := (roundFp f .rne (Exact.dyadic s y 0)).1
        (r, if x && r != a then flagIX else 0)

def execFrnd (t : BitVec 2) (d a : Reg) (x : BitVec 1) (m : BitVec 3) (s : State) :
    Host.Outcome State Fault Refusal :=
  unit (wordT (8#5 ++ t) d a (0#3 ++ x ++ m) 14) (fpForm (ffmt t) fun rm z v _ _ =>
    fRnd (ffmt t) (if m.getLsbD 2 then Rm.of (m.setWidth 2) else rm) z (x == 1) v) s

def execFmov (t : BitVec 2) (d a : Reg) (s : State) : Host.Outcome State Fault Refusal :=
  unit (wordT (8#5 ++ t) d a 0 15) (copyForm fun x => fpFlags (ffmt t) (el (ffmt t).width x 0)) s

def execFcmp (t : BitVec 2) (c : BitVec 2) (a b : Reg) (k : BitVec 4) (s : State) :
    Host.Outcome State Fault Refusal :=
  unit (wordT 36 (0#3 ++ t ++ c) a b k) (fun u => do
    let f := ffmt t
    let z := ftzOf (← get).cur
    let r := fun l => fcmpFlags f (f.ftzIn z (el f.width (lane u.va l) 0)) (f.ftzIn z (el f.width (lane u.vb l) 0))
    raiseFp u.act fun l => (r l).2
    writeCompare u c.toNat k.toNat fun l => (r l).1) s

/-! ### CVT (R215, R216) -/

/-- A floating-point value rounded to an integer range (R216). -/
def fToInt (f : Fmt) (rm : Rm) (ftz : Bool) (lo hi : Int) (x : Nat) : Int × Flags :=
  match f.val (f.ftzIn ftz x) with
  | .nan _ => (0, flagIV)
  | .inf s => (if s then lo else hi, flagIV)
  | .fin s m e =>
    let ex := Exact.dyadic s m e
    let (n, inexact) := roundMul rm s ex.num ex.den 0
    let y : Int := if s then -(n : Int) else n
    if hi < y then (hi, flagIV)
    else if y < lo then (lo, flagIV)
    else (y, if inexact then flagIX else 0)

/-- Width of an integer type code of CVT (R70). -/
def cvtWidth (t : BitVec 3) : Nat := 64 >>> (t.setWidth 2).toNat

/-- One element converted: its bits above the result included (R215). -/
def cvtLane (t s : BitVec 3) (n : Bool) (rm : Rm) (ftz : Bool) (x : Word) : Nat × Flags :=
  match t.getLsbD 2, s.getLsbD 2 with
  | false, false =>
    fConvert (ffmt (s.setWidth 2)) (ffmt (t.setWidth 2)) rm ftz (el (ffmt (s.setWidth 2)).width x 0)
  | false, true =>
    let w := cvtWidth s
    let v : Int := if n then (el w x 0 : Nat) else signedOf w (el w x 0)
    let dest := ffmt (t.setWidth 2)
    if v = 0 then (0, 0) else roundFtz dest rm ftz (Exact.dyadic (decide (v < 0)) v.natAbs 0)
  | true, _ =>
    let w := cvtWidth t
    let lo : Int := if n then 0 else -(2 ^ (w - 1) : Nat)
    let hi : Int := if n then (2 ^ w : Nat) - 1 else (2 ^ (w - 1) : Nat) - 1
    let f := ffmt (s.setWidth 2)
    let (y, fl) := fToInt f rm ftz lo hi (el f.width x 0)
    (if n then y.toNat else wrap 64 y, fl)

def execCvt (d a : Reg) (t c : BitVec 3) (n : BitVec 1) (s : State) : Host.Outcome State Fault Refusal :=
  unit (wordT 37 d a (t ++ c ++ n) 0) (fun u => do
    let ag := (← get).cur
    let r := fun l => cvtLane t c (n == 1) (rmOf ag) (ftzOf ag) (lane u.va l)
    raiseFp u.act fun l => (r l).2
    writeReg u u.d (lanesOf fun l => BitVec.ofNat 64 (r l).1) 0) s

end Sys2Proof.Machine
end

