-- ==== Sys2Proof/Machine/Side.lean ====
section
/-!
DEFINITION. The packed forms of the lane engine: dot products (R217 to R219), residues (R220, R221),
quantising (R222 to R224), FP8 conversions (R225), shuffles (R226, R227), and gang reductions and
scans (R228 to R230).
-/

namespace Sys2Proof.Machine

/-- Results with flags and word poison for each lane: the flags raised together (R88), then written. -/
def fpWrite (u : U) (v : Nat → Word) (fl : Nat → Flags) (p : Nat → Bool) : Act Unit := do
  raiseFp u.act fl
  writeReg u u.d (lanesOf v) (maskOf p)

/-! ### DOT (R217, R218) -/

/-- Two products and an addend summed exactly into f32 (R109, R217). -/
def dot2 (f : Fmt) (rm : Rm) (ftz : Bool) (a0 b0 a1 b1 c : Nat) : Nat × Flags :=
  let a0 := f.ftzIn ftz a0
  let b0 := f.ftzIn ftz b0
  let a1 := f.ftzIn ftz a1
  let b1 := f.ftzIn ftz b1
  let c := Fmt.f32.ftzIn ftz c
  let sn := snanFlag f [a0, b0, a1, b1] ||| snanFlag Fmt.f32 [c]
  match nanPick f [a0, b0, a1, b1] with
  | some n => (nanTo f Fmt.f32 n, sn)
  | none =>
  match nanPick Fmt.f32 [c] with
  | some n => (n, sn)
  | none =>
    -- a product as an infinity with its sign, an invalid product, or a term
    let prod : Fv → Fv → Option Bool × Bool × Term := fun x y => match x, y with
      | .fin s m e, .fin t n g => (none, false, ⟨s != t, m * n, e + g⟩)
      | .inf s, .inf t => (some (s != t), false, ⟨false, 0, 0⟩)
      | .inf s, .fin t m _ => if m = 0 then (none, true, ⟨false, 0, 0⟩) else (some (s != t), false, ⟨false, 0, 0⟩)
      | .fin s m _, .inf t => if m = 0 then (none, true, ⟨false, 0, 0⟩) else (some (s != t), false, ⟨false, 0, 0⟩)
      | _, _ => (none, false, ⟨false, 0, 0⟩)
    let p := prod (f.val a0) (f.val b0)
    let q := prod (f.val a1) (f.val b1)
    let r : Option Bool × Bool × Term := match Fmt.f32.val c with
      | .inf s => (some s, false, ⟨false, 0, 0⟩)
      | .fin s m e => (none, false, ⟨s, m, e⟩)
      | .nan _ => (none, false, ⟨false, 0, 0⟩)
    let infs := [p.1, q.1, r.1].filterMap id
    if p.2.1 || q.2.1 || (infs.contains true && infs.contains false) then (Fmt.f32.qnan, flagIV)
    else match infs with
      | s :: _ => (Fmt.f32.infinity s, 0)
      | [] => roundSum Fmt.f32 rm ftz [p.2.2, q.2.2, r.2.2]

/-- DOT2 in each lane. -/
def dot2Form (f : Fmt) (u : U) : Act Unit := do
  let ag := (← get).cur
  let r := fun (l j : Nat) => dot2 f (rmOf ag) (ftzOf ag)
    (el 16 (lane u.va l) (2 * j)) (el 16 (lane u.vb l) (2 * j))
    (el 16 (lane u.va l) (2 * j + 1)) (el 16 (lane u.vb l) (2 * j + 1)) (el 32 (lane u.vd l) j)
  fpWrite u (fun l => packEls 32 fun j => (r l j).1) (fun l => (r l 0).2 ||| (r l 1).2) fun _ => false

/-- The exact sum of element products, and whether some element is invalid (R218). qw is 0 for i8. -/
def dotSum (qw : Nat) (x y : Word) : Int × Bool :=
  let w := if qw = 0 then 8 else qWidth qw
  (List.range (64 / w)).foldl (fun acc e =>
    let a := el w x e
    let b := el w y e
    if qw = 0 then (acc.1 + signedOf 8 a * signedOf 8 b, acc.2)
    else match qVal qw a, qVal qw b with
      | some m, some n => (acc.1 + m * n, acc.2)
      | _, _ => (acc.1, true)) (0, false)

/-- The scaled accumulator of one lane (R218). -/
def dotScaled (rm : Rm) (sum : Int) (bad : Bool) (sa sb d : Nat) : Nat × Flags :=
  match se8Val sa, se8Val sb with
  | some (m, e), some (n, g) =>
    if bad then (Fmt.f64.poison, 0)
    else match Fmt.f64.val d with
      | .nan c => (Fmt.f64.quiet c, if Fmt.f64.isSnan c then flagIV else 0)
      | .inf s => (Fmt.f64.infinity s, 0)
      | .fin s k h =>
        roundSum Fmt.f64 rm false [⟨s, k, h⟩, ⟨decide (sum < 0), sum.natAbs * (m * n), e + g⟩]
  | _, _ => (Fmt.f64.poison, 0)

/-- The integer dot forms (R218). -/
def dotForm (qw : Nat) (u : U) : Act Unit := do
  let ag := (← get).cur
  match u.scl with
  | none =>
    let r := fun l => dotSum qw (lane u.va l) (lane u.vb l)
    writeReg u u.d (lanesOf fun l => lane u.vd l + BitVec.ofInt 64 (r l).1) (maskOf fun l => (r l).2)
  | some (sa, sb) =>
    let r := fun l =>
      let x := dotSum qw (lane u.va l) (lane u.vb l)
      dotScaled (rmOf ag) x.1 x.2 (lane sa l).toNat (lane sb l).toNat (lane u.vd l).toNat
    fpWrite u (fun l => BitVec.ofNat 64 (r l).1) (fun l => (r l).2) fun _ => false

def execDot2F16 (d a b : Reg) (s : State) : Host.Outcome State Fault Refusal :=
  unit (wordT 38 d a b 0) (dot2Form Fmt.f16) s
def execDot2Bf16 (d a b : Reg) (s : State) : Host.Outcome State Fault Refusal :=
  unit (wordT 38 d a b 1) (dot2Form Fmt.bf16) s
def execDot8Q8 (d a b : Reg) (s : State) : Host.Outcome State Fault Refusal :=
  unit (wordT 38 d a b 2) (dotForm 8) s
def execDot16Q4 (d a b : Reg) (s : State) : Host.Outcome State Fault Refusal :=
  unit (wordT 38 d a b 3) (dotForm 4) s
def execDot4Q12 (d a b : Reg) (s : State) : Host.Outcome State Fault Refusal :=
  unit (wordT 38 d a b 4) (dotForm 12) s
def execDot8I8 (d a b : Reg) (s : State) : Host.Outcome State Fault Refusal :=
  unit (wordT 38 d a b 5) (dotForm 0) s

/-! ### RESID (R220) -/

/-- A residue form on three words: the channels apart, poison to poison. -/
def rxOp (f : Int → Int → Int → Int) (useB useD : Bool) (a b d : Nat) : Nat :=
  if rxBad a || (useB && rxBad b) || (useD && rxBad d) then rxPoison
  else
    rxWord (f (rxA a) (rxA b) (rxA d) % 1023).toNat (f (rxB a) (rxB b) (rxB d) % 1024).toNat
      (f (rxC a) (rxC b) (rxC d) % 1025).toNat

/-- A residue form on both sub-elements of each lane. -/
def rxForm (op : Nat → Nat → Nat → Nat) (u : U) : Act Unit :=
  writeReg u u.d (lanesOf fun l => packEls 32 fun j =>
    op (el 32 (lane u.va l) j) (el 32 (lane u.vb l) j) (el 32 (lane u.vd l) j)) 0

def execRxadd (d a b : Reg) (s : State) : Host.Outcome State Fault Refusal :=
  unit (wordT 39 d a b 0) (rxForm (rxOp (fun x y _ => x + y) true false)) s
def execRxsub (d a b : Reg) (s : State) : Host.Outcome State Fault Refusal :=
  unit (wordT 39 d a b 1) (rxForm (rxOp (fun x y _ => x - y) true false)) s
def execRxmul (d a b : Reg) (s : State) : Host.Outcome State Fault Refusal :=
  unit (wordT 39 d a b 2) (rxForm (rxOp (fun x y _ => x * y) true false)) s
def execRxmac (d a b : Reg) (s : State) : Host.Outcome State Fault Refusal :=
  unit (wordT 39 d a b 3) (rxForm (rxOp (fun x y z => z + x * y) true true)) s
def execRxneg (d a : Reg) (s : State) : Host.Outcome State Fault Refusal :=
  unit (wordT 39 d a 0 4) (rxForm (rxOp (fun x _ _ => -x) false false)) s
def execRxscl (d a b : Reg) (s : State) : Host.Outcome State Fault Refusal :=
  unit (wordT 39 d a b 5) (rxForm fun x y _ =>
    if rxBad x then rxPoison
    else
      let k := signedOf 32 y
      rxWord (rxA x * k % 1023).toNat (rxB x * k % 1024).toNat (rxC x * k % 1025).toNat) s

/-! ### QNTV (R222, R223, R224) -/

/-- The scale byte of a lane: 0x78 without SCL (R222). -/
def qScale (u : U) (l : Nat) : Nat := match u.scl with
  | some (s, _) => (lane s l).toNat
  | none => 0x78

/-- One bf16 element quantised under a scale (R222). -/
def quantise (w : Nat) (rm : Rm) (ftz : Bool) (s v : Nat) : Nat × Flags :=
  match se8Val s with
  | none => (qInvalid w, 0)
  | some (m, e) =>
    if Fmt.bf16.isPoison v then (qInvalid w, 0)
    else match Fmt.bf16.val (Fmt.bf16.ftzIn ftz v) with
      | .fin sg k h =>
        if k = 0 then (0, 0)
        else
          let x := Exact.dyadic sg k (h - e)
          let (n, inexact) := roundMul rm sg x.num (x.den * m) 0
          if qMax w < n then (qCode w (if sg then -(qMax w : Int) else qMax w), flagIX)
          else (qCode w (if sg then -(n : Int) else n), if inexact then flagIX else 0)
      | _ => (qInvalid w, flagIV)

/-- One q element times its scale in bf16 (R223). -/
def dequantise (w : Nat) (rm : Rm) (ftz : Bool) (s code : Nat) : Nat × Flags :=
  match qVal w code, se8Val s with
  | some q, some (m, e) =>
    if q = 0 then (0, 0)
    else roundFtz Fmt.bf16 rm ftz (Exact.dyadic (decide (q < 0)) (q.natAbs * m) e)
  | _, _ => (Fmt.bf16.poison, 0)

/-- Results packed at width w with their flags, n elements. -/
def packFl (w : Nat) (n : Nat) (f : Nat → Nat × Flags) : Nat × Flags :=
  (joinEls w ((List.range n).map fun j => (f j).1), (List.range n).foldl (fun acc j => acc ||| (f j).2) 0)

/-- A QNTV form: f gives the lane's result and flags. -/
def qForm (f : Rm → Bool → Nat → Nat → Nat × Flags) (u : U) : Act Unit := do
  let ag := (← get).cur
  let r := fun l => f (rmOf ag) (ftzOf ag) (qScale u l) l
  fpWrite u (fun l => BitVec.ofNat 64 (r l).1) (fun l => (r l).2) fun _ => false

/-- Element j of the eight bf16 of a then b (R222). -/
def bf16At (u : U) (l j : Nat) : Nat :=
  if j < 4 then el 16 (lane u.va l) j else el 16 (lane u.vb l) (j - 4)

def execQpackQ4 (d a b : Reg) (s : State) : Host.Outcome State Fault Refusal :=
  unit (wordT 40 d a b 0) (fun u => qForm (fun rm z sc l =>
    let r := packFl 4 8 fun j => quantise 4 rm z sc (bf16At u l j)
    (r.1 * 2 ^ 32 + (lane u.vd l).toNat / 2 ^ 32, r.2)) u) s
def execQpackQ8 (d a b : Reg) (s : State) : Host.Outcome State Fault Refusal :=
  unit (wordT 40 d a b 1) (fun u => qForm (fun rm z sc l =>
    packFl 8 8 fun j => quantise 8 rm z sc (bf16At u l j)) u) s
def execQpackQ12 (d a : Reg) (s : State) : Host.Outcome State Fault Refusal :=
  unit (wordT 40 d a 0 2) (fun u => qForm (fun rm z sc l =>
    packFl 16 4 fun j => quantise 12 rm z sc (bf16At u l j)) u) s

/-- The four elements from 4·sel on, to bf16 (R223). -/
def qunpkForm (w sel : Nat) (u : U) : Act Unit :=
  qForm (fun rm z sc l => packFl 16 4 fun j =>
    dequantise w rm z sc (el (qWidth w) (lane u.va l) (4 * sel + j))) u

def execQunpkQ4 (d a : Reg) (x : BitVec 7) (s : State) : Host.Outcome State Fault Refusal :=
  unit (wordT 40 d a x 3) (qunpkForm 4 x.toNat) s
def execQunpkQ8 (d a : Reg) (x : BitVec 7) (s : State) : Host.Outcome State Fault Refusal :=
  unit (wordT 40 d a x 4) (qunpkForm 8 x.toNat) s
def execQunpkQ12 (d a : Reg) (s : State) : Host.Outcome State Fault Refusal :=
  unit (wordT 40 d a 0 5) (qunpkForm 12 0) s

/-- The smallest code whose scale times qmax reaches g (R224). -/
def scaleCode (w : Nat) (ftz : Bool) (x : Nat) : Nat :=
  match Fmt.f32.val (Fmt.f32.ftzIn ftz x) with
  | .fin _ m e =>
    if m = 0 then 0
    else
      let g := Exact.dyadic false m e
      let ok := fun c => match se8Val c with
        | some (k, h) =>
          let s := Exact.dyadic false (k * qMax w) h
          decide (g.num * s.den ≤ s.num * g.den)
        | none => false
      ((List.range 255).find? ok).getD 0xFE
  | _ => 0xFF

def execScaleof (d a : Reg) (x : BitVec 7) (s : State) : Host.Outcome State Fault Refusal :=
  unit (wordT 40 d a x 6) (fun u => do
    let z := ftzOf (← get).cur
    let w := match x.toNat with | 0 => 4 | 1 => 8 | _ => 12
    writeReg u u.d (lanesOf fun l => BitVec.ofNat 64 (scaleCode w z (el 32 (lane u.va l) 0))) 0) s

/-! ### XCONV (R67, R221, R225) -/

/-- Where a long-latency unit writes: its register or scalar, or the queue its port names at issue,
after the checks of a push (R139, R186). -/
def lookDest (u : U) : Act LookDest := do
  let a := (← get).cur
  match regRef a u.d with
  | some r => pure r
  | none =>
    let n := u.d - 120
    let _ ← checkPush n
    pure (.port n (a.kbyte n) (a.kcore.extractLsb' (2 * n) 2))

/-- A descriptor taken for a long-latency unit; a fifth unit waits (R139). -/
def addLook (u : U) (phase : LookPhase) (req val : Lanes) (poison : Mask) (flg : Flags) : Act Unit := do
  let dest ← lookDest u
  let s ← get
  if 4 ≤ s.cur.looks.length then hold .results
  set { s with
    nextOrd := s.nextOrd + 1
    cur := { s.cur with looks := s.cur.looks ++ ([{
      word := u.w, dest := dest, lanes := u.act, lrem := BitVec.ofNat 4 u.f, phase := phase, req := req,
      got := 0, homes := [], val := val, poison := poison, flg := flg, live := true, ord := s.nextOrd
      ls := s.cur.ls }] : List Look) } }

/-- An XCONV form: its results are known at issue and held to the end of the window; an enabled
flag traps at the unit (R88, R225). -/
def xconv (f : Rm → Bool → Nat → Nat × Flags × Bool) (u : U) : Act Unit := do
  let ag := (← get).cur
  let r := fun l => f (rmOf ag) (ftzOf ag) l
  let fl := (lanesIn u.act).foldl (fun acc l => acc ||| (r l).2.1) (0 : Flags)
  let en : Flags := ag.fpc.extractLsb' 16 5
  if fl &&& en != 0 then raiseFp u.act fun l => (r l).2.1
  addLook u .held (splat 0) (lanesOf fun l => BitVec.ofNat 64 (r l).1) (u.act &&& maskOf fun l => (r l).2.2) fl

def execRxfrom (d a : Reg) (l : BitVec 4) (s : State) : Host.Outcome State Fault Refusal :=
  unit (wordT 41 d a 0 l) (fun u => xconv (fun _ _ i =>
    ((packEls 32 fun j => rxFromInt (signedOf 32 (el 32 (lane u.va i) j))).toNat, 0, false)) u) s

def execRxto (d a : Reg) (l : BitVec 4) (s : State) : Host.Outcome State Fault Refusal :=
  unit (wordT 41 d a 1 l) (fun u => xconv (fun _ _ i =>
    ((packEls 32 fun j =>
        let x := el 32 (lane u.va i) j
        if rxBad x then 0 else wrap 32 (rxToInt x)).toNat, 0,
      rxBad (el 32 (lane u.va i) 0) || rxBad (el 32 (lane u.va i) 1))) u) s

/-- One bf16 packed to FP8; e4m3 saturates (R90, R225). -/
def f8pack (g : Fmt) (rm : Rm) (ftz : Bool) (x : Nat) : Nat × Flags :=
  let r := fConvert Fmt.bf16 g rm false (Fmt.bf16.ftzIn ftz x)
  if g.e4m3 then
    match Fmt.bf16.val x with
    | .nan _ => r
    | .inf s => (g.signed s g.maxCode, r.2)
    | .fin s _ _ => if r.1 % g.signBit = 0x7F then (g.signed s g.maxCode, r.2) else r
  else r

/-- F8PK: four codes above the upper half of d (R225). -/
def f8pkForm (g : Fmt) (u : U) : Act Unit :=
  xconv (fun rm z i =>
    let r := packFl 8 4 fun j => f8pack g rm z (el 16 (lane u.va i) j)
    (r.1 * 2 ^ 32 + (lane u.vd i).toNat / 2 ^ 32, r.2, false)) u

/-- F8UP: four codes widened exactly (R225). -/
def f8upForm (g : Fmt) (u : U) : Act Unit :=
  xconv (fun _ _ i =>
    let r := packFl 16 4 fun j => fConvert g Fmt.bf16 .rne false (el 8 (lane u.va i) j)
    (r.1, r.2, false)) u

def execF8pkE4m3 (d a : Reg) (l : BitVec 4) (s : State) : Host.Outcome State Fault Refusal :=
  unit (wordT 41 d a 2 l) (f8pkForm Fmt.e4m3fmt) s
def execF8pkE5m2 (d a : Reg) (l : BitVec 4) (s : State) : Host.Outcome State Fault Refusal :=
  unit (wordT 41 d a 3 l) (f8pkForm Fmt.e5m2) s
def execF8upE4m3 (d a : Reg) (l : BitVec 4) (s : State) : Host.Outcome State Fault Refusal :=
  unit (wordT 41 d a 4 l) (f8upForm Fmt.e4m3fmt) s
def execF8upE5m2 (d a : Reg) (l : BitVec 4) (s : State) : Host.Outcome State Fault Refusal :=
  unit (wordT 41 d a 5 l) (f8upForm Fmt.e5m2) s

/-! ### SHFL (R226, R227) -/

/-- A shuffle: lane l takes the source lane that from names, with its mark, or zero. -/
def shuffle (u : U) (src : Nat → Option Nat) : Act Unit :=
  writeReg u u.d (lanesOf fun l => match src l with | some k => lane u.va k | none => 0)
    (maskOf fun l => match src l with | some k => has u.pa k | none => false)

def execShfl (d a b : Reg) (s : State) : Host.Outcome State Fault Refusal :=
  unit (wordT 42 d a b 0) (fun u => shuffle u fun l =>
    if (lane u.vb l).getLsbD 5 then none else some (bits (lane u.vb l) 4 0)) s
def execShflx (d a b : Reg) (s : State) : Host.Outcome State Fault Refusal :=
  unit (wordT 42 d a b 1) (fun u => shuffle u fun l => some (l ^^^ bits (lane u.vb l) 4 0)) s
def execShflr (d a b : Reg) (s : State) : Host.Outcome State Fault Refusal :=
  unit (wordT 42 d a b 2) (fun u => shuffle u fun l =>
    let k := (l : Int) + signedOf 6 (bits (lane u.vb l) 5 0)
    if 0 ≤ k ∧ k ≤ 31 then some k.toNat else some l) s
def execBcast (d a b : Reg) (s : State) : Host.Outcome State Fault Refusal :=
  unit (wordT 42 d a b 3) (fun u =>
    let sb := lane u.vb 0
    let w := 64 >>> bits sb 7 6
    let k := bits sb 4 0
    let x := el w (lane u.va k) (bits sb 13 8 % (64 / w))
    writeReg u u.d (splat (packEls w fun _ => x)) (if has u.pa k then 0xFFFFFFFF else 0)) s
def execRev (d a : Reg) (x : BitVec 7) (s : State) : Host.Outcome State Fault Refusal :=
  unit (wordT 42 d a x 4) (fun u =>
    let w := 64 >>> x.toNat
    let n := 64 / w
    writeReg u u.d (lanesOf fun l => packEls w fun j => el w (lane u.va (31 - l)) (n - 1 - j))
      (maskOf fun l => has u.pa (31 - l))) s

/-! ### GANG (R228, R229, R230) -/

def execVote (d : Reg) (n : BitVec 2) (k : BitVec 4) (s : State) : Host.Outcome State Fault Refusal :=
  unit (wordT 43 d (0#5 ++ n) (0#3 ++ k) 0) (fun u => do
    let ag := (← get).cur
    let v := u.act &&& maskOf fun l => condHolds k.toNat (ccOf ag l n.toNat)
    writeReg u u.d (splat (v.setWidth 64)) 0) s

/-- Values of sub-element j of the active lanes in lane order. -/
def laneEls (u : U) (w j : Nat) : List Nat := (lanesIn u.act).map fun l => el w (lane u.va l) j

/-- An integer reduction (R229). -/
def redInt (w : Nat) (f : Nat → Nat → Nat) (u : U) : Act Unit :=
  writeReg u u.d (splat (packEls w fun j => match laneEls u w j with
    | [] => 0
    | x :: xs => xs.foldl f x)) 0

/-- Flags that the nodes of the tree over the lanes give the lane of rank r (R230): those of every node
above it but IV of a signalling NaN, which only its own lane raises. The first rank is lo. -/
def treeFlags (f : Fmt) (ftz : Bool) : Nat → Nat → List Nat → Nat → Flags
  | 0, _, _, _ => 0
  | _ + 1, _, [], _ => 0
  | _ + 1, _, [_], _ => 0
  | n + 1, lo, xs, r =>
    let h := 2 ^ ((xs.length - 1).log2)
    let l := pwSum f ftz 6 (xs.take h)
    let q := pwSum f ftz 6 (xs.drop h)
    let here : Flags :=
      if lo ≤ r && r < lo + xs.length && (nanPick f [l.1, q.1]).isNone then (fAdd f .rne ftz l.1 q.1 false).2 else 0
    here ||| treeFlags f ftz n lo (xs.take h) r ||| treeFlags f ftz n (lo + h) (xs.drop h) r

/-- Flags of the lane of rank r: those of the nodes above it, and IV of a signalling NaN of its own, with one
active lane too (R88, R230). -/
def laneFlags (f : Fmt) (ftz : Bool) (xs : List Nat) (r : Nat) : Flags :=
  treeFlags f ftz 6 0 xs r ||| snanFlag f ((xs.drop r).take 1)

/-- Rank of an active lane. -/
def rankOf (u : U) (l : Nat) : Nat := ((lanesIn u.act).filter (· < l)).length

/-- IV of a signalling NaN in a lane's own element. -/
def ownSnan (f : Fmt) (ftz : Bool) (x : Nat) : Flags := snanFlag f [f.ftzIn ftz x]

/-- REDADD in f64 and f32 (R229, R230). -/
def redFp (f : Fmt) (u : U) : Act Unit := do
  let z := ftzOf (← get).cur
  let n := 64 / f.width
  let xs := fun j => laneEls u f.width j
  raiseFp u.act fun l => (List.range n).foldl (fun acc j =>
    acc ||| laneFlags f z (xs j) (rankOf u l)) 0
  writeReg u u.d (splat (packEls f.width fun j => (pwSum f z 6 (xs j)).1)) 0

/-- REDMIN and REDMAX in f64 and f32 (R229). -/
def redFpPick (f : Fmt) (larger : Bool) (u : U) : Act Unit := do
  let z := ftzOf (← get).cur
  let n := 64 / f.width
  let xs := fun j => (laneEls u f.width j).map (f.ftzIn z)
  raiseFp u.act fun l => (List.range n).foldl (fun acc j => acc ||| ownSnan f z (el f.width (lane u.va l) j)) 0
  writeReg u u.d (splat (packEls f.width fun j => match nanPick f (xs j) with
    | some c => c
    | none => match xs j with
      | [] => 0
      | y :: ys => ys.foldl (fun p q => (fPick f z larger p q).1) y)) 0

def execRedaddI64 (d a : Reg) (s : State) : Host.Outcome State Fault Refusal :=
  unit (wordT 43 d a 0 1) (redInt 64 fun x y => (x + y) % 2 ^ 64) s
def execRedaddI32 (d a : Reg) (s : State) : Host.Outcome State Fault Refusal :=
  unit (wordT 43 d a 0 2) (redInt 32 fun x y => (x + y) % 2 ^ 32) s
def execRedaddF64 (d a : Reg) (s : State) : Host.Outcome State Fault Refusal :=
  unit (wordT 43 d a 0 3) (redFp Fmt.f64) s
def execRedaddF32 (d a : Reg) (s : State) : Host.Outcome State Fault Refusal :=
  unit (wordT 43 d a 0 4) (redFp Fmt.f32) s
def execRedminI64 (d a : Reg) (s : State) : Host.Outcome State Fault Refusal :=
  unit (wordT 43 d a 0 5) (redInt 64 (pick 64 true false)) s
def execRedminF64 (d a : Reg) (s : State) : Host.Outcome State Fault Refusal :=
  unit (wordT 43 d a 0 6) (redFpPick Fmt.f64 false) s
def execRedminF32 (d a : Reg) (s : State) : Host.Outcome State Fault Refusal :=
  unit (wordT 43 d a 0 7) (redFpPick Fmt.f32 false) s
def execRedmaxI64 (d a : Reg) (s : State) : Host.Outcome State Fault Refusal :=
  unit (wordT 43 d a 0 8) (redInt 64 (pick 64 true true)) s
def execRedmaxF64 (d a : Reg) (s : State) : Host.Outcome State Fault Refusal :=
  unit (wordT 43 d a 0 9) (redFpPick Fmt.f64 true) s
def execRedmaxF32 (d a : Reg) (s : State) : Host.Outcome State Fault Refusal :=
  unit (wordT 43 d a 0 10) (redFpPick Fmt.f32 true) s

/-- SCANADD in i64 and i32 (R230). -/
def scanInt (w : Nat) (u : U) : Act Unit :=
  writeReg u u.d (lanesOf fun l => packEls w fun j =>
    ((laneEls u w j).take (rankOf u l + 1)).foldl (fun acc x => (acc + x) % 2 ^ w) 0) 0

/-- SCANADD in f64 and f32: every prefix its own tree, whose nodes give flags to its lanes (R230). -/
def scanFp (f : Fmt) (u : U) : Act Unit := do
  let z := ftzOf (← get).cur
  let n := 64 / f.width
  let xs := fun j => laneEls u f.width j
  raiseFp u.act fun l => (List.range n).foldl (fun acc j =>
    (List.range (xs j).length).foldl (fun acc k =>
      acc ||| laneFlags f z ((xs j).take (k + 1)) (rankOf u l)) acc) 0
  writeReg u u.d (lanesOf fun l => packEls f.width fun j => (pwSum f z 6 ((xs j).take (rankOf u l + 1))).1) 0

def execScanaddI64 (d a : Reg) (s : State) : Host.Outcome State Fault Refusal :=
  unit (wordT 43 d a 0 11) (scanInt 64) s
def execScanaddI32 (d a : Reg) (s : State) : Host.Outcome State Fault Refusal :=
  unit (wordT 43 d a 0 12) (scanInt 32) s
def execScanaddF64 (d a : Reg) (s : State) : Host.Outcome State Fault Refusal :=
  unit (wordT 43 d a 0 13) (scanFp Fmt.f64) s
def execScanaddF32 (d a : Reg) (s : State) : Host.Outcome State Fault Refusal :=
  unit (wordT 43 d a 0 14) (scanFp Fmt.f32) s

end Sys2Proof.Machine
end

