-- ==== Sys2Proof/Machine/Walks.lean ====
section
/-!
DEFINITION. Page walkers (R256, R257): how a waiting walk takes a walker, and how a walk ends.
-/

namespace Sys2Proof.Machine

/-- Walk k, the longest waiting of its berth on its die, takes a walker. -/
def execWalkerGrant (k : Nat) (s : State) : Host.Outcome State Fault Refusal :=
  match s.walks[k]? with
  | none => .next s
  | some w =>
    if w.granted || (s.walks.take k).any fun x => x.berth == w.berth && x.die == w.die && !x.granted then .next s
    else match s.freeWalker w.berth w.die with
      | none => .next s
      | some l => .next { s with walks := changeAt (fun x : Walk => ({ x with granted := true, lender := l } : Walk)) k s.walks }

/-- Memory in which the lines of a list carry marks: what a table read finds that meets a persistent error
(R254). -/
def Mem.failing (m : Mem) (lines : List Nat) : Mem :=
  lines.foldl (fun m n => (List.range 8).foldl (fun m i => m.mark (64 * n + 8 * i) true) m) m

/-- Walk k ends under the tables of now: the levels of its agent are filled, or the agent's access meets
the failure. Its table reads are requests at their homes (R432); those of the lines in err meet a persistent error. Its
walker is free again. -/
def execWalkComplete (k : Nat) (err : List Nat) (s : State) : Host.Outcome State Fault Refusal :=
  match s.walks[k]? with
  | none => .next s
  | some w =>
    if !w.granted then .next s
    else
      let s : State := { s with walks := dropAt k s.walks }
      match s.agent w.agent with
      | none => .next s
      | some a =>
        let met := { s with mem := s.mem.failing err }
        let s := (tableReads met w.berth w.ctx w.vpn).foldl (fun s pa => s.count ⟨w.berth, 0, 0, a.cls⟩ pa false) s
        match met.walkFor a w.berth w.ctx w.vpn with
        | .ok p => .next (s.fillLevels a w.berth w.ctx w.vpn p)
        | .error e => .next (s.modAgent a.id fun a => { a with
            xfail := a.xfail.filter (·.1 != w.vpn) ++ [(w.vpn, e.cause, e.addr)] })

end Sys2Proof.Machine
end

