-- ==== Sys2Proof/Machine/LoadStore.lean ====
section
/-!
DEFINITION. The load-store engine (spec/10_load_store.md, spec/05_memory_model.md): loads, stores,
atomics, fences and range operations, and the steps by which stores register, loads read at homes
and atomics are performed.
-/

namespace Sys2Proof.Machine

/-! ### Addresses and order at issue -/

/-- Effective addresses of the active lanes (R246). -/
def addrsOf (u : U) (size : Nat) : List (Nat × Word) :=
  (lanesIn u.act).map fun l => (l, lane u.va l + BitVec.ofInt 64 (u.imm * size))

/-- Addresses of the lanes of LDV and STV (R246). -/
def vecAddrs (u : U) : List (Nat × Word) :=
  (lanesIn u.act).map fun l => (l, lane u.va 0 + BitVec.ofInt 64 (256 * u.imm) + BitVec.ofNat 64 (8 * l))

/-- Waits for an earlier LDA to have acquired (R120) and for an earlier atomic (R124). -/
def memOrder : Act Unit := do
  let a := (← get).cur
  if a.atom.isSome || a.looks.any (fun l => l.major == 0x3A && l.loading) then hold .operand

/-- The register a place of the own context belongs to. -/
def ownReg (off : Nat) : Option LookDest :=
  if 0x1000 ≤ off then some (.slot ((off - 0x1000) / 256))
  else if 0x280 ≤ off && off < 0x340 then some (.scalar ((off - 0x280) / 8)) else none

/-- Registers of the own context that a unit touches are free and resident (R114). -/
def needOwn (ts : List Target) : Act Unit :=
  needRegs (ts.filterMap fun t => match t.place with
    | .own off => ownReg off
    | _ => none)

/-- A lane's 8 bytes of the own context, with word poison (R153, R154). -/
def ownWord (s : State) (a : Agent) (off : Nat) : Word × Bool :=
  if 0x1000 ≤ off then
    let (v, p) := a.slot ((off - 0x1000) / 256)
    (lane v (off % 256 / 8), has p (off % 256 / 8))
  else
    let u := off / 8 * 8
    if u = 0x18 then (BitVec.ofNat 64 ((sprValue s a 6).toNat + a.cause.toNat * 2 ^ 32), false)
    else (a.headerWord u, 0x280 ≤ u && u < 0x340 && a.spois.getLsbD ((u - 0x280) / 8))

/-- The low n bytes of v put at byte i of x. -/
def putBytes (x : Word) (i n : Nat) (v : Word) : Word := setBits x (8 * i) (8 * n) v.toNat

/-! ### Loads (R247) -/

/-- What a place other than global memory reads as. -/
def readPlace (s : State) (g : Agent) (p : Place) (size : Nat) : Word × Bool :=
  let part := fun (x : Word) (off : Nat) => BitVec.ofNat 64 (x.toNat >>> (8 * (off % 8)) % 2 ^ (8 * size))
  match p with
  | .own off => let (x, b) := ownWord s g off; (part x off, b)
  | .pad t _ off => match s.teamOf t with
    | some x => (BitVec.ofNat 64 (x.scratch.read off size), x.scratch.marked off)
    | none => (0, false)
  | .sram off => (BitVec.ofNat 64 ((s.sramOf g.id).read off size), (s.sramOf g.id).marked off)
  | _ => (0, false)

/-- The descriptor taken last changed. -/
def modLastLook (f : Look → Look) : Act Unit := modCur fun a =>
  { a with looks := changeAt f (a.looks.length - 1) a.looks }

/-- Word poison of one lane covers its group under the binding ls (R263, R275). -/
def groupPoison (ls : BitVec 8) (lanes p : Mask) : Mask :=
  match groupOf ls with
  | none => p
  | some n => maskOf fun l => has lanes l && (List.range n).any fun i => has p (l / n * n + i)

/-- What a load has read once its accesses are checked: the places outside global memory at once, the
others still to be read at their homes. The request is kept for a re-issue (R139). -/
def Look.reading (l : Look) (s : State) (a : Agent) (ts : List Target) (size : Nat) : Look :=
  let here := ts.filter fun t => match t.place with | .glob _ => false | _ => true
  let away := ts.filter fun t => match t.place with | .glob _ => true | _ => false
  let at_ := fun i => match here.find? (·.lane == i) with
    | some t => readPlace s a t.place size
    | none => (0, false)
  let p := maskOf fun i => (at_ i).2
  { l with
    phase := if away = [] then .held else .outstanding
    got := maskOf fun i => here.any (·.lane == i)
    homes := away.map fun t => (t.lane, t.pa, t.key, t.t)
    val := lanesOf fun i => (at_ i).1
    poison := if away = [] then groupPoison l.ls l.lanes p else p }

/-- A load: checked as a whole; places outside global memory read at once, the rest at their homes. -/
def loadForm (size : Nat) (vec : Bool) (u : U) : Act Unit := do
  memOrder
  let ts ← checkAccesses (if vec then vecAddrs u else addrsOf u size) .read size vec
  needOwn ts
  if ts.any fun t => match t.place with | .own off => off / 8 == 3 | _ => false then flagsKnown
  let req := lanesOf fun l => match ts.find? (·.lane == l) with | some t => t.va | none => 0
  addLook u .outstanding
    (if vec then lanesOf fun l => if l = 0 then lane u.va 0 + BitVec.ofInt 64 (256 * u.imm) else 0 else req)
    (splat 0) 0 0
  let s ← get
  modLastLook fun k => k.reading s s.cur ts size
  -- an access to a slot sets its written and hot-set bits (R153)
  modCur fun a => ts.foldl (fun a t => match t.place with
    | .own off => if 0x1000 ≤ off && !a.isWritten ((off - 0x1000) / 256) then
        a.setSlot ((off - 0x1000) / 256) 0xFFFFFFFF (splat 0) 0 else a
    | _ => a) a
  if u.op = 0x3A && ts.all fun t => match t.place with | .glob _ => false | _ => true then acquireNow

def execLdg (w : BitVec 2) (d a : Reg) (o : BitVec 7) (l : BitVec 4) (s : State) : Host.Outcome State Fault Refusal :=
  unit (wordT (12#5 ++ w) d a o l) (loadForm (2 ^ w.toNat) false) s
def execLdv (d a : Reg) (o : BitVec 7) (l : BitVec 4) (s : State) : Host.Outcome State Fault Refusal :=
  unit (wordT 52 d a o l) (loadForm 8 true) s
def execLda (d a : Reg) (o : BitVec 7) (l : BitVec 4) (s : State) : Host.Outcome State Fault Refusal :=
  unit (wordT 58 d a o l) (loadForm 8 false) s

/-! ### Stores (R118, R125, R248) -/

/-- The bytes an instruction writes in one 8-byte unit of a place: enables, value and the bytes that came
from poisoned lanes; for global memory with the page's key and tensor slots. -/
structure UnitWrite where
  u : Nat
  va : Word
  key : BitVec 9
  t : BitVec 12
  be : BitVec 8
  val : Word
  pb : BitVec 8
  deriving DecidableEq, Repr

/-- Some byte that is written comes from a poisoned lane. -/
def UnitWrite.poisoned (w : UnitWrite) : Bool := w.pb &&& w.be != 0

/-- Byte enables of n bytes from byte i. -/
def enables (i n : Nat) : BitVec 8 := BitVec.ofNat 8 ((2 ^ n - 1) <<< i)

/-- The low bytes of a lane, at offset off of their place, merged over those of lower lanes (R125), with the
poison of each byte's lane (log 91). -/
def mergeWrite (t : Target) (off size : Nat) (v : Word) (p : Bool) : List UnitWrite → List UnitWrite
  | [] => [⟨off / 8 * 8, t.va, t.key, t.t, enables (off % 8) size, putBytes 0 (off % 8) size v,
      if p then enables (off % 8) size else 0⟩]
  | x :: xs =>
    if x.u = off / 8 * 8 then
      let e := enables (off % 8) size
      { x with be := x.be ||| e, val := putBytes x.val (off % 8) size v
               pb := (x.pb &&& ~~~e) ||| (if p then e else 0) } :: xs
    else x :: mergeWrite t off size v p xs

/-- A store on its way to its home (R118). The storing gang sees it from now on (storeView). -/
def State.sendStore (s : State) (a : Agent) (w : UnitWrite) : State :=
  { s with
    pend := s.pend ++ [⟨.store, a.id, a.l1Core, w.va, w.u, w.be, w.val, w.poisoned, w.key, w.t, false, (s.treeOf a).1, a.cls, a.grid, s.nextOrd, 0⟩]
    nextOrd := s.nextOrd + 1 }

/-- The bytes of x replaced where enabled. -/
def blendBytes (be : BitVec 8) (x v : Word) : Word :=
  (List.range 8).foldl (fun acc i => if be.getLsbD i then putBytes acc i 1 (v >>> (8 * i)) else acc) x

/-- Word poison of a register word after a write of part of it (R105). -/
def poisonAfter (w : UnitWrite) (old : Bool) : Bool := w.poisoned || (old && w.be != 0xFF)

/-- A unit's bytes written in the own context (R153, R154). -/
def Agent.putOwn (a : Agent) (w : UnitWrite) : Agent :=
  if 0x1000 ≤ w.u then
    let i := (w.u - 0x1000) / 256
    let l := w.u % 256 / 8
    let (old, op) := a.slot i
    a.setSlot i (BitVec.ofNat 32 (2 ^ l)) (splat (blendBytes w.be (lane old l) w.val))
      (if poisonAfter w (has op l) then 0xFFFFFFFF else 0)
  else if w.u < 0x340 then
    let n := (w.u - 0x280) / 8
    a.setScalar n (blendBytes w.be (a.scalar n) w.val) (poisonAfter w (a.spois.getLsbD n))
  else
    { a with cc := (List.range 8).foldl (fun (cc : Vector CcWord 32) j =>
        let o := w.u - 0x340 + j
        let old := (cc.getD (o / 2) 0).toNat
        let b := w.val.toNat >>> (8 * j) % 256
        if w.be.getLsbD j then
          cc.setIfInBounds (o / 2) (BitVec.ofNat 16 (if o % 2 = 0 then old / 256 * 256 + b else old % 256 + 256 * b))
        else cc) a.cc }

/-- A unit stored in a team's scratchpad: what it changes of a queue is seen at once (R178, R186). -/
def State.putPad (s : State) (t : Nat) (w : UnitWrite) : State :=
  (s.modTeam t fun x => { x with scratch := x.scratch.store w.u w.be w.val w.poisoned }).padEvent t w.u 8

/-- A unit stored in a firmware core's SRAM. -/
def State.putSram (s : State) (n : Nat) (w : UnitWrite) : State :=
  { s with sram := put n ((s.sramOf n).store w.u w.be w.val w.poisoned) s.sram }

/-- What the lanes of a store write in the units of one place, of which off gives a lane's offset. -/
def unitWrites (ts : List Target) (off : Target → Option Nat) (size : Nat) (v : Lanes) (p : Mask) : List UnitWrite :=
  ts.foldl (fun ws t => match off t with
    | some o => mergeWrite t o size (lane v t.lane) (has p t.lane) ws
    | none => ws) []

/-- The lanes of one store act together as one access (R125). -/
def State.putLanes (s : State) (ts : List Target) (size : Nat) (v : Lanes) (p : Mask) : State :=
  let own := unitWrites ts (fun t => match t.place with | .own o => some o | _ => none) size v p
  let s : State := { s with cur := own.foldl Agent.putOwn s.cur }
  let sram := unitWrites ts (fun t => match t.place with | .sram o => some o | _ => none) size v p
  let s := sram.foldl (fun s w => s.putSram s.cur.id w) s
  let pads := (ts.filterMap fun t => match t.place with | .pad x _ _ => some x | _ => none).eraseDups
  let s := pads.foldl (fun s x =>
    (unitWrites ts (fun t => match t.place with | .pad y _ o => if y = x then some o else none | _ => none) size v p).foldl
      (fun s w => s.putPad x w) s) s
  (unitWrites ts (fun t => match t.place with | .glob _ => some t.pa | _ => none) size v p).foldl
    (fun s w => s.sendStore s.cur w) s

/-- A store: checked as a whole, after a release for STL; the highest lane's byte wins. -/
def storeForm (size : Nat) (vec : Bool) (u : U) : Act Unit := do
  memOrder
  let ts ← checkAccesses (if vec then vecAddrs u else addrsOf u size) .write size vec
  if u.op = 0x3B then release
  needOwn ts
  -- a poisoned lane marks what its whole group stores (R275)
  modify fun s => s.putLanes ts size u.vd (groupPoison s.cur.ls u.act (u.pd &&& u.act))

def execStgI8 (d a : Reg) (o : BitVec 7) (s : State) : Host.Outcome State Fault Refusal :=
  unit (wordT 53 d a o 0) (storeForm 1 false) s
def execStgI16 (d a : Reg) (o : BitVec 7) (s : State) : Host.Outcome State Fault Refusal :=
  unit (wordT 54 d a o 0) (storeForm 2 false) s
def execStgI32 (d a : Reg) (o : BitVec 7) (s : State) : Host.Outcome State Fault Refusal :=
  unit (wordT 55 d a o 0) (storeForm 4 false) s
def execStgI64 (d a : Reg) (o : BitVec 7) (s : State) : Host.Outcome State Fault Refusal :=
  unit (wordT 56 d a o 0) (storeForm 8 false) s
def execStv (d a : Reg) (o : BitVec 7) (s : State) : Host.Outcome State Fault Refusal :=
  unit (wordT 57 d a o 0) (storeForm 8 true) s
def execStl (d a : Reg) (o : BitVec 7) (s : State) : Host.Outcome State Fault Refusal :=
  unit (wordT 59 d a o 0) (storeForm 8 false) s

/-! ### Atomics (R123, R249, R250) -/

/-- An atomic at a bank or in SRAM: old value, word poison, and the memory after it. A mark stays. -/
def Mem.atomic (m : Mem) (off op w y c : Nat) : (Word × Bool) × Mem :=
  let old := m.read off (w / 8)
  ((BitVec.ofNat 64 old, m.marked off), m.write off (w / 8) (atomicOp op w old (y % 2 ^ w) (c % 2 ^ w)))

/-- One lane's atomic outside global memory. -/
def atomPlace (s : State) (p : Place) (op w y c : Nat) : (Word × Bool) × State :=
  match p with
  | .pad t _ off => match s.teamOf t with
    | some x =>
      let r := x.scratch.atomic off op w y c
      (r.1, (s.modTeam t fun x => { x with scratch := r.2 }).padEvent t off (w / 8))
    | none => ((0, false), s)
  | .sram off =>
    let r := (s.sramOf s.cur.id).atomic off op w y c
    (r.1, { s with sram := put s.cur.id r.2 s.sram })
  | _ => ((0, false), s)

/-- Old values written to an atomic's destination (R249). A scalar takes the lowest active lane's where several lanes
act under scalar operands, of which R249 does not speak (log 77). -/
def Agent.putOld (a : Agent) (d : LookDest) (old : List (Nat × Word × Bool)) : Agent :=
  let m := maskOf fun l => old.any (·.1 == l)
  let v := lanesOf fun l => match old.find? (·.1 == l) with | some x => x.2.1 | none => 0
  let p := maskOf fun l => old.any fun x => x.1 == l && x.2.2
  match d with
  | .slot i => a.setSlot i m v p
  | .scalar n => match old with
    | x :: _ => a.setScalar n x.2.1 x.2.2
    | [] => a
  | .port _ _ _ => a

/-- Old values of an atomic with the poison of one lane spread over its group (R263, R275). -/
def groupOld (ls : BitVec 8) (old : List (Nat × Word × Bool)) : List (Nat × Word × Bool) :=
  match groupOf ls with
  | none => old
  | some n => old.map fun x => (x.1, x.2.1, old.any fun y => y.1 / n == x.1 / n && y.2.2)

/-- An atomic of width code w: lanes outside global memory performed at once, the rest at their homes. -/
def atomForm (w : BitVec 1) (u : U) : Act Unit := do
  memOrder
  let n := if w = 1 then 64 else 32
  let ts ← checkAccesses ((lanesIn u.act).map fun l => (l, lane u.va l)) (.atomic u.f) (n / 8) false
  let s ← get
  let away := ts.filter fun t => match t.place with | .glob _ => true | _ => false
  let r := (ts.filter fun t => match t.place with | .glob _ => false | _ => true).foldl
    (fun (acc : List (Nat × Word × Bool) × State) t =>
      let x := atomPlace acc.2 t.place u.f n (lane u.vb t.lane).toNat (lane u.vd t.lane).toNat
      (acc.1 ++ [(t.lane, x.1.1, x.1.2)], x.2)) ([], s)
  set r.2
  match regRef s.cur u.d with
  | none => pure ()
  | some d =>
    if away = [] then modCur fun a => a.putOld d (groupOld a.ls r.1)
    else modify fun s => { s with nextOrd := s.nextOrd + 1, cur := { s.cur with atom := some {
      op := BitVec.ofNat 4 u.f, w := w, dest := d, done := r.1, ord := s.nextOrd, ls := s.cur.ls
      lanes := away.map fun t => ⟨t.lane, t.pa, t.key, t.t, lane u.vb t.lane, lane u.vd t.lane⟩ } } }

/-- The word of ATOM.op. -/
def atomWord (w : BitVec 1) (d a b : Reg) (f : BitVec 4) : IWord := wordT (30#6 ++ w) d a b f

def execAtomAdd (w : BitVec 1) (d a b : Reg) (s : State) : Host.Outcome State Fault Refusal :=
  unit (atomWord w d a b 0) (atomForm w) s
def execAtomSub (w : BitVec 1) (d a b : Reg) (s : State) : Host.Outcome State Fault Refusal :=
  unit (atomWord w d a b 1) (atomForm w) s
def execAtomAnd (w : BitVec 1) (d a b : Reg) (s : State) : Host.Outcome State Fault Refusal :=
  unit (atomWord w d a b 2) (atomForm w) s
def execAtomOr (w : BitVec 1) (d a b : Reg) (s : State) : Host.Outcome State Fault Refusal :=
  unit (atomWord w d a b 3) (atomForm w) s
def execAtomXor (w : BitVec 1) (d a b : Reg) (s : State) : Host.Outcome State Fault Refusal :=
  unit (atomWord w d a b 4) (atomForm w) s
def execAtomMin (w : BitVec 1) (d a b : Reg) (s : State) : Host.Outcome State Fault Refusal :=
  unit (atomWord w d a b 5) (atomForm w) s
def execAtomMax (w : BitVec 1) (d a b : Reg) (s : State) : Host.Outcome State Fault Refusal :=
  unit (atomWord w d a b 6) (atomForm w) s
def execAtomMinu (w : BitVec 1) (d a b : Reg) (s : State) : Host.Outcome State Fault Refusal :=
  unit (atomWord w d a b 7) (atomForm w) s
def execAtomMaxu (w : BitVec 1) (d a b : Reg) (s : State) : Host.Outcome State Fault Refusal :=
  unit (atomWord w d a b 8) (atomForm w) s
def execAtomXchg (w : BitVec 1) (d a b : Reg) (s : State) : Host.Outcome State Fault Refusal :=
  unit (atomWord w d a b 9) (atomForm w) s
def execAtomCas (w : BitVec 1) (d a b : Reg) (s : State) : Host.Outcome State Fault Refusal :=
  unit (atomWord w d a b 10) (atomForm w) s

/-! ### Fences (R122) -/

/-- A tile fetch of a quad's sequencer is still reading (R342). -/
def State.fetchBusy (s : State) (quad : Nat) : Bool :=
  s.clusters.any fun c => c.2.table.any fun e => e.kind == .tile && e.quad == quad && e.st == .filling

/-- Every copy, ASTORE, lath and tile-fetch operation of the agent has completed (R122, R132). -/
def enginesDone (s : State) (a : Agent) : Bool :=
  !(s.clusters.any fun c => c.2.copies.any (·.agent == a.id))
    && !(s.channels.any fun c => match c.inst with
      | some x => x.agents.contains a.id && !x.complete
      | none => false)
    && !(a.prof == .tile && s.fetchBusy a.team)

/-- A fence, when some lane is active (R122). -/
def fence (body : Act Unit) (u : U) : Act Unit := do
  if u.act != 0 then
    memOrder
    body

/-- Waits for the agent's engine operations (R122). -/
def waitEngines : Act Unit := do
  let s ← get
  if !enginesDone s s.cur then hold .engines

def execFenceAcq (s : State) : Host.Outcome State Fault Refusal :=
  unit (wordT 62 0 0 0 0) (fence acquireNow) s
def execFenceRel (s : State) : Host.Outcome State Fault Refusal :=
  unit (wordT 62 0 0 0 1) (fence release) s
def execFenceAr (s : State) : Host.Outcome State Fault Refusal :=
  unit (wordT 62 0 0 0 2) (fence (do release; acquireNow)) s
def execFenceEng (s : State) : Host.Outcome State Fault Refusal :=
  unit (wordT 62 0 0 0 3) (fence (do waitEngines; acquireNow)) s
/-- Waits until every store to host memory is performed and not only accepted (R122). -/
def waitHost : Act Unit := do
  let s ← get
  if s.pend.any fun p => p.agent == s.cur.id && isHost p.pa then hold .engines

def execFenceDev (s : State) : Host.Outcome State Fault Refusal :=
  unit (wordT 62 0 0 0 4) (fence (do waitEngines; release; waitHost; acquireNow)) s

/-! ### Range operations (R135, R251) -/

/-- Pages that the bytes lo to hi − 1 touch. -/
def pagesIn (lo hi : Nat) : List Nat := (List.range ((hi + 0xFFFF) / 2 ^ 16 - lo / 2 ^ 16)).map (lo / 2 ^ 16 + ·)

/-- The 64-byte lines that the bytes lo to hi − 1 touch. -/
def linesIn (lo hi : Nat) : List Nat := (List.range ((hi + 63) / 64 - lo / 64)).map (lo / 64 + ·)

/-- TVAL of a MEMOP's fault: the first byte of the page, with the lane field 0 (R259). -/
def pageTval (a : Agent) (v : Nat) : Word := memTval a (BitVec.ofNat 64 (v * 2 ^ 16)) 0

/-- The checks of DISCARD, WBACK and ZERO over a whole range of global memory (R251, R258, R259), and
the translated pieces of the range, page by page. -/
def checkRange (lo hi : Nat) (write : Bool) : Act (List (Nat × Nat × Page)) := do
  let s ← get
  let a := s.cur
  let vs := pagesIn lo hi
  let part := fun (v : Nat) => (max lo (v * 2 ^ 16), min hi (v * 2 ^ 16 + 2 ^ 16))
  let missing := vs.filter fun v => (s.pageOf a v).isNone
  match missing with
  | v :: _ => hold (.walk v) fun s => missing.foldl State.askWalk s
  | [] => pure ()
  let known := fun v => match s.pageOf a v with
    | some (.ok p) => some p
    | _ => none
  let err := fun v => match s.pageOf a v with
    | some (.error e) => some e
    | _ => none
  let raise := fun (c : BitVec 8) (f : Nat → Bool) => match vs.find? f with
    | some v => trap (α := Unit) c (pageTval a v)
    | none => pure ()
  raise 0x22 fun v => match err v with | some e => e.1 == 0x22 | none => false
  raise (if write then 0x24 else 0x23) fun v => match known v with
    | some p => if write then !p.w else !p.r
    | none => false
  raise 0xB8 fun v => match known v with
    | some p => write && sealedFor s a p
    | none => false
  raise 0x60 fun v => locked s a (.glob (part v).1) ((part v).2 - (part v).1) write
  let sys := fun v => match err v with
    | some e => some e
    | none => match known v with
      | some p =>
        if s.there (p.pa + (part v).1 % 2 ^ 16) && s.there (p.pa + ((part v).2 - 1) % 2 ^ 16) then none
        else some (0x25, 0)
      | none => none
  match vs.findSome? (fun v => (sys v).map fun e => (e, v)) with
  | some ((e, w), v) =>
    let tv := if e = 0x29 then w else pageTval a v
    if a.prof == .firmware then trap e tv else stop (.pilot e tv)
  | none => pure ()
  return vs.filterMap fun v => (known v).map fun p => ((part v).1, (part v).2, p)

/-- The request of an agent under a page's keys. -/
def Agent.req (a : Agent) (b : BitVec 4) (p : Page) : Req := ⟨b, p.key, p.t, a.cls⟩

/-- A MEMOP sent to the homes of each translated piece of its range: it counts as a store (R251). -/
def sendRange (ps : List (Nat × Nat × Page)) (op : Nat → PendOp) : Act Unit :=
  modify fun s =>
    let a := s.cur
    let new := ps.mapIdx fun i p => (⟨op (p.2.1 - p.1), a.id, a.l1Core, BitVec.ofNat 64 p.1, p.2.2.pa + p.1 % 2 ^ 16, 0, 0, false,
      p.2.2.key, p.2.2.t, false, (s.treeOf a).1, a.cls, a.grid, s.nextOrd + i, 0⟩ : Pending)
    { s with pend := s.pend ++ new, nextOrd := s.nextOrd + ps.length }

/-- WBACK of one line (R251): one request at its home (R432), which takes every owner's value and writes a dirty line
to its channel. -/
def State.wbackLine (s : State) (r : Req) (n : Nat) : State := ((s.count r (64 * n) true).revokeLine n).writeBackLine n

/-- WBACK of the lines that bytes lo to hi − 1 touch (R251). -/
def State.wbackLines (s : State) (r : Req) (lo hi : Nat) : State :=
  if isHbm lo then (linesIn lo hi).foldl (fun s n => s.wbackLine r n) s else s

/-- DISCARD (R135): whole lines of the range discarded, partial lines at its ends written back. -/
def State.discardBytes (s : State) (r : Req) (lo hi : Nat) : State :=
  if isHbm lo then
    (linesIn lo hi).foldl (fun s n =>
      if lo ≤ 64 * n && 64 * n + 64 ≤ hi then (s.count r (64 * n) true).discardLine n else s.wbackLine r n) s
  else s

/-- ZERO of bytes lo to hi − 1 at their homes (R251). -/
def State.zeroBytes (s : State) (r : Req) (lo hi : Nat) : State :=
  (List.range ((hi + 7) / 8 - lo / 8)).foldl (fun s i =>
    let u := 8 * (lo / 8 + i)
    let be := (List.range 8).foldl (fun acc j => if lo ≤ u + j && u + j < hi then acc + 2 ^ j else acc) 0
    s.homePut r u (BitVec.ofNat 8 be) 0 false none) s

/-- Words of the lines that bytes lo to hi − 1 touch brought into an L1, unit by unit (R126, R251). -/
def State.prefL1 (s : State) (r : Req) (core : Nat) (lo hi : Nat) : State :=
  if isHbm lo then
    (linesIn lo hi).foldl (fun s n =>
      let (s, bad) := (s.count r (64 * n) false).openLine r (64 * n)
      if bad then s
      else (List.range 8).foldl (fun s i =>
        let wa := 16 * n + 2 * i
        if ((s.core core).l1Word wa r.key).isSome && ((s.core core).l1Word (wa + 1) r.key).isSome then s
        else s.fillUnit core (4 * wa) r.key []) s) s
  else s

/-- The first page of a range that an access to it may not touch: in scratchpad, the one in which the range
leaves it; else the first that is not global (R251, R259). -/
def firstBad (s : State) (a : Agent) (lo hi : Nat) (zero : Bool) : Option Nat :=
  match (if zero && lo < 0xFF400000000000 then placeOf s a (BitVec.ofNat 64 lo) else .bad) with
  | .pad _ _ off =>
    let size := match s.gridOf a.grid with | some g => g.scratch | none => 0
    if size < off + (hi - lo) then some ((lo + (size - off)) / 2 ^ 16) else none
  | _ => (pagesIn lo hi).find? fun v => match placeOf s a (BitVec.ofNat 64 (max lo (v * 2 ^ 16))) with
    | .glob _ => false
    | _ => true

/-- A MEMOP other than PREF: its length, its range, the checks of its pages, and its way to the homes, for
which the gang does not wait (R251). ZERO of the team's scratchpad acts at once. -/
def rangeForm (write : Bool) (op : Nat → PendOp) (u : U) : Act Unit := do
  if u.act = 0 then return
  let lo := (lane u.va 0).toNat
  let n := (lane u.vb 0).toNat
  if n = 0 then return
  if 2 ^ 26 < n then trapFree 0x2D
  memOrder
  let s ← get
  let a := s.cur
  match firstBad s a lo (lo + n) (u.f = 3) with
  | some v => trap 0x20 (pageTval a v)
  | none => pure ()
  match placeOf s a (BitVec.ofNat 64 lo) with
  | .pad t c off =>
    match (pagesIn lo (lo + n)).find? fun v =>
        let x := max lo (v * 2 ^ 16)
        locked s a (.pad t c (off + (x - lo))) (min (lo + n) (v * 2 ^ 16 + 2 ^ 16) - x) true with
    | some v => trap 0x60 (pageTval a v)
    | none => pure ()
    modify fun s => (s.modTeam t fun x => { x with scratch := x.scratch.zero off (off + n) }).padEvent t off n
  | _ =>
    let ps ← checkRange lo (lo + n) write
    sendRange ps op

/-- The pages of a PREF's range that are global. -/
def State.prefPages (s : State) (lo hi : Nat) : List Nat := (pagesIn lo hi).filter fun v =>
  match placeOf s s.cur (BitVec.ofNat 64 (max lo (v * 2 ^ 16))) with | .glob _ => true | _ => false

/-- A PREF of the pages of a range whose walks have ended: what does not translate is skipped (R251). -/
def State.prefetch (s : State) (l2 : Bool) (lo hi : Nat) : State :=
  (s.prefPages lo hi).foldl (fun s v =>
    match s.pageOf s.cur v with
    | some (.ok p) =>
      let r := s.cur.req (s.treeOf s.cur).1 p
      let from_ := p.pa + max lo (v * 2 ^ 16) % 2 ^ 16
      let to_ := p.pa + (min hi (v * 2 ^ 16 + 2 ^ 16) - v * 2 ^ 16)
      if !p.r || !s.there from_ || !s.there (to_ - 1) then s
      else if !l2 && s.cur.prof == .full then s.prefL1 r s.cur.core.toNat from_ to_
      else (linesIn from_ to_).foldl (fun s n => ((s.count r (64 * n) false).openLine r (64 * n)).1) s
    | _ => s) s

/-- PREF never faults after its encoding checks: with a poisoned operand it does nothing (log 75). It waits for the
walks of its pages. -/
def execPref (x : BitVec 1) (a b : Reg) (s : State) : Host.Outcome State Fault Refusal :=
  unit (wordT 63 (0#6 ++ x) a b 0) (fun u => do
    if u.act != 0 && u.pa = 0 && u.pb = 0 then
      let lo := (lane u.va 0).toNat
      let hi := min (2 ^ 64) (lo + min (2 ^ 16) (lane u.vb 0).toNat)
      let s ← get
      match (s.prefPages lo hi).filter fun v => (s.pageOf s.cur v).isNone with
      | [] => modify fun s => s.prefetch (x = 1) lo hi
      | v :: vs => hold (.walk v) fun s => (v :: vs).foldl State.askWalk s) s

def execDiscard (a b : Reg) (s : State) : Host.Outcome State Fault Refusal :=
  unit (wordT 63 0 a b 1) (rangeForm true .discard) s
def execWback (a b : Reg) (s : State) : Host.Outcome State Fault Refusal :=
  unit (wordT 63 0 a b 2) (rangeForm false .wback) s
def execZero (a b : Reg) (s : State) : Host.Outcome State Fault Refusal :=
  unit (wordT 63 0 a b 3) (rangeForm true .zero) s

/-! ### The order of requests (R20, R118, R124) -/

/-- The stack of an address refuses requests now (R27), or was left disabled (R28). -/
def State.refuses (s : State) (pa : Nat) : Bool := isHbm pa && (s.refusing ||| s.deadStacks).getLsbD (stackOf pa)

/-- Where requests for an address go, as the fabric orders them: an L2 slice, a module of the host port, or a
UALink port (R17, R20, R116). -/
def homeOf (pa : Nat) : Nat :=
  if isHbm pa then sliceOf pa else if isHost pa then 256 + pa / 4096 % 2 else 258 + peerPortOf pa

/-- Bytes that an entry of the list of stores covers from its address on. -/
def Pending.len (p : Pending) : Nat := match p.op with
  | .store => 8
  | .zero n | .discard n | .wback n => n

/-- The entry is in memory already: what is left of a store to host memory once the port has accepted it (R130). -/
def Pending.performed (p : Pending) : Bool := p.registered && isHost p.pa

/-- The entry touches a unit of 8 bytes that n bytes from pa touch. -/
def Pending.meets (p : Pending) (pa n : Nat) : Bool := p.pa / 8 * 8 < (pa + n + 7) / 8 * 8 && pa / 8 * 8 < p.pa + p.len

/-- The homes that an entry's requests go to. -/
def Pending.homes (p : Pending) : List Nat :=
  ((List.range (min 4 ((p.pa % 256 + p.len + 255) / 256))).map fun i => homeOf (p.pa + 256 * i)).eraseDups

/-- Every earlier load of the entry's agent has returned its data: only then can the home register it (R124). -/
def Pending.loaded (p : Pending) (s : State) : Bool := match s.agent p.agent with
  | some a => !a.looks.any fun l => l.loading && l.ord < p.ord
  | none => true

/-- How a load or atomic of an agent stands to the stores on their way to its unit. -/
inductive StoreView where
  /-- nothing on its way concerns it -/
  | clear
  /-- it waits for one to be registered -/
  | wait
  /-- an own store gives every byte it reads, with its poison -/
  | forward (v : Word) (p : Bool)
  deriving DecidableEq, Repr

/-- A gang sees its own earlier stores at once, and no store of another gang of its core before that is
registered (R118, R124): where such a store is under way it waits, and where an own store does not give
every byte. Host and peer memory have no L1 that could answer (R119), and a store to host memory is visible to all
from its registration on (R130). The mark of a unit follows its stores in their order (R105). -/
def storeView (s : State) (a : Agent) (ord pa size : Nat) : StoreView :=
  let qs := s.pend.filter fun q => q.meets pa size && q.ord < ord && !q.performed
    && (q.agent == a.id || (q.core == a.l1Core && isHbm pa))
  match qs with
  | [] => .clear
  | q :: qs =>
    let last := qs.foldl (fun x y => if x.ord < y.ord then y else x) q
    let e := enables (pa % 8) size
    if (q :: qs).all (fun q => q.agent == a.id && q.op == .store) && last.be &&& e == e && a.prof == .full && isHbm pa then
      .forward (BitVec.ofNat 64 (last.val.toNat >>> (8 * (pa % 8)) % 2 ^ (8 * size)))
        ((q :: qs).foldl (fun m q => q.poison || (m && q.be != 0xFF)) (s.mem.marked pa))
    else .wait

/-- The L1 answers a read of size bytes: every word of it is held under the same key. -/
def l1Read (s : State) (a : Agent) (pa size : Nat) (key : BitVec 9) : Option (Word × Bool) :=
  if a.prof != .full || !isHbm pa then none
  else
    let c := s.core a.core.toNat
    let ws := (List.range ((size + 3) / 4)).map fun i => c.l1Word (pa / 4 + i) key
    if ws.all (·.isSome) then
      let n := joinEls 32 (ws.map fun w => (w.getD 0).toNat)
      some (BitVec.ofNat 64 (n >>> (8 * (pa % 4)) % 2 ^ (8 * size)), c.l1Mark (pa / 8 * 8) key)
    else none

/-- Size of a load's accesses (R245). -/
def Look.size (l : Look) : Nat := if l.major < 0x34 then 2 ^ (l.major % 4) else 8

/-- Some earlier access of the agent to the same unit is still to be performed (R124). -/
def earlierAccess (a : Agent) (ord pa : Nat) : Bool :=
  a.looks.any fun l => l.phase == .outstanding && l.ord < ord && l.homes.any fun h => h.2.1 / 8 == pa / 8 && !has l.got h.1

/-- A lane of an outstanding load has its request on the way to its home: its gang holds a slot, it is not
yet read, no L1 answers it, and nothing of its own core holds it back. -/
def laneSent (s : State) (a : Agent) (l : Look) (h : Nat × Nat × BitVec 9 × BitVec 12) : Bool :=
  l.phase == .outstanding && (a.prof != .full || a.inSlot) && !has l.got h.1
    && (l1Read s a h.2.1 l.size h.2.2.1).isNone
    && storeView s a l.ord h.2.1 l.size == .clear && !earlierAccess a l.ord h.2.1

/-- The atomic of an agent has its requests on their way: the earlier accesses of its units are performed. -/
def atomSent (s : State) (a : Agent) (q : AtomReq) : Bool :=
  q.lanes.all fun x => storeView s a q.ord x.pa 8 == .clear && !earlierAccess a q.ord x.pa

/-- A request that one agent of the fabric, a core's load-store engine, sent earlier to the same home has not
been served yet: requests of one agent to one slice arrive in the order sent (R20). -/
def sentBefore (s : State) (core home ord : Nat) : Bool :=
  (s.pend.any fun p => p.core == core && !p.registered && p.ord < ord && p.homes.contains home && p.loaded s)
    || s.all.any fun a => a.l1Core == core
      && (a.looks.any (fun l => l.ord < ord && l.homes.any fun h => homeOf h.2.1 == home && laneSent s a l h)
        || match a.atom with
          | some q => q.ord < ord && q.lanes.any (fun x => homeOf x.pa == home) && atomSent s a q
          | none => false)

/-! ### Stores at their homes (R118, R131) -/

/-- An entry of the list of stores may be taken by its home: its agent's earlier loads have their data
(R124), no earlier request of its core to the same home is on its way (R20), and no other registration
of its words is under way (R118). -/
def canRegister (s : State) (k : Nat) (p : Pending) : Bool :=
  !p.registered && !s.refuses p.pa && p.loaded s
    && !(s.pend.take k).any (fun q => q.agent == p.agent && !q.registered && q.meets p.pa p.len)
    && !s.pend.any (fun q => q.registered && !q.performed && q.meets p.pa p.len)
    && !p.homes.any fun h => sentBefore s p.core h p.ord

/-- The request of a store on its way. -/
def Pending.req (p : Pending) : Req := ⟨p.berth, p.key, p.t, p.cls⟩

/-- The core whose L1 a store is in: gangs have one, and only for HBM. -/
def Pending.owner (p : Pending) : Option Nat :=
  if p.core < 256 && isHbm p.pa && p.op == .store then some p.core else none

/-- A word that is stored in part is not valid in the core's L1, and the registration fetches it (R118). -/
def Pending.fetches (p : Pending) (s : State) : Bool := isHbm p.pa && p.op == .store && [0, 1].any fun h =>
  let be := p.be.extractLsb' (4 * h) 4
  be != 0 && be != 0xF && ((s.core p.core).l1Word (p.pa / 4 + h) p.key).isNone

/-- A peer store that will never be registered, kept for the agent's next release and for its grid's end
(R44, R262). -/
def State.losePeer (s : State) (p : Pending) : State :=
  let first := fun (x : Option Word) => if x.isNone then some p.va else x
  (s.modAgent p.agent fun a => { a with lost := first a.lost }).modGrid p.grid fun g =>
    { g with lostAddr := first g.lostAddr }

/-- A store, or a MEMOP that counts as one, performed at its home (R118, R251): from now on every reader
sees it, and the storing core's L1 holds the unit. -/
def State.perform (s : State) (p : Pending) : State :=
  match p.op with
  | .store =>
    let s := s.homePut p.req p.pa p.be p.val p.poison p.owner
    match p.owner with
    | some c => s.fillUnit c p.pa p.key (wordsOf p.pa p.be)
    | none => s
  | .zero n => s.zeroBytes p.req p.pa (p.pa + n)
  | .discard n => s.discardBytes p.req p.pa (p.pa + n)
  | .wback n => s.wbackLines p.req p.pa (p.pa + n)

/-- A DISCARD or WBACK, which leaves host and peer lines untouched (R251). -/
def Pending.spares (p : Pending) : Bool := match p.op with
  | .discard _ | .wback _ => !isHbm p.pa
  | _ => false

/-- The home takes a registration: it takes the word back from any other owner, records the new one and sends its
acknowledgement. A partial store whose fetch of the word meets a persistent error marks its unit (R248). A store to host
memory is registered, and visible, when the host port accepts it (R130), or is lost where its module is disabled, as a
peer store is whose port is down. -/
def execStoreRegistration (k : Nat) (err : Bool) (s : State) : Host.Outcome State Fault Refusal :=
  match s.pend[k]? with
  | none => .next s
  | some p =>
    if isPeer p.pa || !canRegister s k p then .next s
    else if p.spares then .next { s with pend := dropAt k s.pend }
    else if s.cutOff p.pa then .next (({ s with pend := dropAt k s.pend } : State).losePeer p)
    else
      let q : Pending := { p with registered := true, poison := p.poison || (err && p.fetches s), ack := s.nextOrd }
      let s := match p.owner with
        | some c => (wordsOf p.pa p.be).foldl (fun (s : State) wa =>
            let s := s.revoke wa (some c)
            ({ s with owners := put wa c s.owners } : State)) s
        | none => s
      let s : State := { s with pend := changeAt (fun _ => q) k s.pend, nextOrd := s.nextOrd + 1 }
      .next (if isHost p.pa then s.perform p else s)

/-- Answers on their way to a core: of each load whose data is coming and of each store that a home has taken, the homes
that answer, each with the place of its answer. -/
def State.answersTo (s : State) (core : Nat) : List (List (Nat × Nat)) :=
  ((s.all.filter fun a => a.l1Core == core && a.run != .off && (a.prof != .full || a.inSlot)).flatMap fun a =>
      (a.looks.filter fun l => l.phase == .returning && l.back != []).map (·.back))
    ++ (s.pend.filter fun p => p.core == core && p.registered).map fun p => p.homes.map fun h => (h, p.ack)

/-- Answers may reach a core: none that must come before them is still on its way, since a home's answers to one core
arrive in the order it sent them (R20). -/
def State.inOrder (s : State) (core : Nat) (xs : List (Nat × Nat)) : Bool :=
  !(s.answersTo core).any fun ys => ys.all fun y => xs.any fun x => x.1 == y.1 && y.2 < x.2

/-- The acknowledgement reaches the storing core: the store is registered, and visible. A store to host memory is
performed there, as FENCE.DEV waits for, in the order in which the port accepted them. -/
def execRegistrationAck (k : Nat) (s : State) : Host.Outcome State Fault Refusal :=
  match s.pend[k]? with
  | some p =>
    let s' : State := { s with pend := dropAt k s.pend }
    if !p.registered || !s.inOrder p.core (p.homes.map fun h => (h, p.ack)) then .next s
    else if p.performed then .next (if s.pend.any fun q => q.performed && q.ack < p.ack then s else s')
    else .next (s'.perform p)
  | none => .next s

/-- A peer's home takes a posted store and acknowledges it, or it is never registered (R131, R262). -/
def execPeerAck (k : Nat) (ok : Bool) (s : State) : Host.Outcome State Fault Refusal :=
  match s.pend[k]? with
  | none => .next s
  | some p =>
    if !isPeer p.pa || !canRegister s k p then .next s
    else
      let s' : State := { s with pend := dropAt k s.pend }
      .next (if p.spares then s' else if ok && !s.cutOff p.pa then s'.perform p else s'.losePeer p)

/-! ### Loads at their homes (R119, R261) -/

/-- One lane of a load read, with whether its home answers, or none while it must wait. A read that the retry clears is logged; one whose
error persists, or whose port is down, gives word poison and the pilot hears of it. -/
def readLane (s : State) (a : Agent) (l : Look) (h : Nat × Nat × BitVec 9 × BitVec 12) (err soft : Bool) :
    Option ((Word × Bool) × Bool × State) :=
  let pa := h.2.1
  let part := fun (x : Word) => BitVec.ofNat 64 (x.toNat >>> (8 * (pa % 8)) % 2 ^ (8 * l.size))
  match storeView s a l.ord pa l.size with
  | .wait => none
  | .forward v p => some ((v, p), false, s)
  | .clear => match l1Read s a pa l.size h.2.2.1 with
    | some r => some (r, false, s)
    | none =>
      if s.refuses pa || sentBefore s a.l1Core (homeOf pa) l.ord then none
      else if s.cutOff pa then
        let (n, s) := s.takeFree
        some ((part (Config.freeWord n), true), true, s.note 0x29 a.id (BitVec.ofNat 64 pa))
      else
        let (x, s) := s.homeGet ⟨(s.treeOf a).1, h.2.2.1, h.2.2.2, a.cls⟩ pa
        let bad := err || x.2.2
        let s := if err then s.note 0x29 a.id (BitVec.ofNat 64 pa) else if soft then s.note 0 a.id (BitVec.ofNat 64 pa) else s
        let s := if bad || a.prof != .full || !isHbm pa then s else s.fillUnit a.core.toNat (pa / 8 * 8) h.2.2.1 []
        some ((part x.1, bad || x.2.1), true, s)

/-- Lanes of a list read one after another, as far as they need not wait. -/
def readLanes (a : Agent) (err soft : Mask) :
    List (Nat × Nat × BitVec 9 × BitVec 12) → Look → State → Look × State
  | [], l, s => (l, s)
  | h :: hs, l, s =>
    if earlierAccess a l.ord h.2.1 then readLanes a err soft hs l s
    else match readLane s a l h (has err h.1) (has soft h.1) with
      | none => readLanes a err soft hs l s
      | some ((v, p), home, s) =>
        let one : Mask := BitVec.ofNat 32 (2 ^ h.1)
        readLanes a err soft hs { l with
          back := if home then put (homeOf h.2.1) s.nextOrd l.back else l.back
          got := l.got ||| one, val := blend one (splat v) l.val, poison := if p then l.poison ||| one else l.poison &&& ~~~one }
          { s with nextOrd := s.nextOrd + home.toNat }

/-! ### Re-issue of saved requests (R147, R264) -/

/-- The agent gets the turn; the one that had it joins the others. -/
def State.focus (s : State) (g : Nat) : State :=
  if s.cur.id = g then s
  else match s.agents.find? (·.id == g) with
    | some a => { s with cur := a, agents := (s.agents.filter (·.id != g)) ++ [s.cur] }
    | none => s

/-- The lanes of a saved load with their addresses. -/
def Look.accesses (l : Look) : List (Nat × Word) :=
  (lanesIn l.lanes).map fun i => (i, if l.major = 0x34 then lane l.req 0 + BitVec.ofNat 64 (8 * i) else lane l.req i)

/-- A saved request that is issued again before the gang's next unit (R147): all but a special-function request whose
window a trap has suspended (R241). -/
def Look.due (l : Look) : Bool := l.phase == .saved && (0x30#7 ≤ l.word.extractLsb' 25 7 || l.live || l.lrem == 0)

/-- Steps 4 and 5 of an activation, once every request that is due has been issued again and the gang still holds its
slot (R145): fills in the background for region, pinned and hot slots, then the hot-set map cleared. -/
def State.warm (s : State) (g : Nat) : State :=
  match s.agent g with
  | none => s
  | some a =>
    if !a.cold || !a.inSlot || a.fresh || a.looks.any Look.due then s
    else
      let back := ((slotRange 0 1023).filter a.inRegion ++ (slotRange 0 1023).filter (fun i => a.pin.getLsbD i)
        ++ (slotRange 0 1023).filter (fun i => a.hot.getLsbD i)).eraseDups.take 128
      (s.modAgent g fun a => { a with hot := 0, cold := false }).fillSlots g back

/-- The saved requests of the agent whose turn it is issued again, from the j-th on, a load with every check
of R258. A request whose pages no walker can bring yet, and those after it, stay saved. A stage-1 failure
traps with 0x47 at the address and drops the descriptor; any other cause of the load traps as it would at
issue, with the descriptor kept; a system fault keeps the gang parked. -/
def reissue : Nat → Nat → State → State
  | 0, _, s => s
  | n + 1, j, s =>
    match s.cur.looks[j]? with
    | none => s
    | some l =>
      let set := fun (s : State) (l' : Look) => ({ s with cur := { s.cur with looks := changeAt (fun _ => l') j s.cur.looks } } : State)
      if l.phase == .held then reissue n (j + 1) s
      else if l.major < 0x30 then
        -- one in a suspended window waits for the return from the trap (R241)
        reissue n (j + 1) (if l.phase == .saved && (l.live || l.lrem == 0) then set s { l with phase := .issued } else s)
      else match checkUnit s s.cur l.accesses .read l.size (l.major = 0x34) with
        | .miss vs => vs.foldl State.askWalk s
        | .trap c tv =>
          if c = 0x22 then
            ({ s with cur := { s.cur with looks := dropAt j s.cur.looks } } : State).takeTrap 0x47 (BitVec.ofNat 64 (tv.toNat % 2 ^ 56))
          else s.takeTrap c tv
        | .system c tv => s.systemFault s.cur.id c tv tv
        | .ok ts =>
          let s := set s (l.reading s s.cur ts l.size)
          reissue n (j + 1) (if l.major = 0x3A && ts.all fun t => match t.place with | .glob _ => false | _ => true
            then s.acquire s.cur.id else s)

/-- The lanes of a load that share the home of the first lane not yet read are read there. A saved load is
issued again once its pages are at hand. -/
def execHomeRead (g k : Nat) (err soft : Mask) (s : State) : Host.Outcome State Fault Refusal :=
  match s.agent g with
  | none => .next s
  | some a =>
    match a.looks[k]? with
    | none => .next s
    | some l =>
      if a.prof == .full && !a.inSlot then .next s
      else if l.phase == .saved then
        let me := s.cur.id
        .next (((reissue 4 k (s.focus g)).warm g).focus me)
      else if l.phase != .outstanding || l.major < 0x30 then .next s
      else
        let left := l.homes.filter fun h => !has l.got h.1
        match left with
        | [] => .next (s.modAgent g fun a => { a with looks := changeAt (fun l : Look => ({ l with phase := .returning } : Look)) k a.looks })
        | h :: _ =>
          let (l', s') := readLanes a err soft (left.filter fun x => granule x.2.1 == granule h.2.1) l s
          let all := l'.homes.all fun h => has l'.got h.1
          let l' := if all then { l' with phase := .returning } else l'
          .next (s'.modAgent g fun a => { a with looks := changeAt (fun _ => l') k a.looks })

/-- The data of a load has arrived: it is held to the end of its window (R67), and an LDA acquires
(R247). A result already held is written once its line, or room in its queue, has come. -/
def execDataArrival (g k : Nat) (s : State) : Host.Outcome State Fault Refusal :=
  match s.agent g with
  | none => .next s
  | some a =>
    match a.looks[k]? with
    | none => .next s
    | some l =>
      if a.prof == .full && !a.inSlot then .next s
      else if l.phase == .held then .next (s.land g)
      else if l.phase != .returning || !s.inOrder a.l1Core l.back then .next s
      else
        let s := s.modAgent g fun a => { a with looks := changeAt (fun l : Look =>
          ({ l with phase := .held, poison := groupPoison l.ls l.lanes l.poison } : Look)) k a.looks }
        let s := if l.major = 0x3A then s.acquire g else s
        .next (s.land g)

/-! ### Atomics at their homes (R123, R250) -/

/-- One lane of an atomic performed: its old value and word poison. One that cannot be performed at a peer
gives word poison, and has no effect there. -/
def atomLane (a : Agent) (q : AtomReq) (x : AtomLane) (err soft : Bool) (s : State) : (Word × Bool) × State :=
  let w := if q.w = 1 then 64 else 32
  if s.cutOff x.pa || (err && isPeer x.pa) then
    let (n, s) := s.takeFree
    ((Config.freeWord n, true), s.note 0x29 a.id (BitVec.ofNat 64 x.pa))
  else
    let r := s.homeAtomic ⟨(s.treeOf a).1, x.key, x.t, a.cls⟩ x.pa q.op.toNat w x.operand.toNat x.comparand.toNat err
    let s := if err then r.2.note 0x29 a.id (BitVec.ofNat 64 x.pa) else if soft then r.2.note 0 a.id (BitVec.ofNat 64 x.pa) else r.2
    -- the issuing core's copy is invalidated
    (r.1, if a.prof == .full then s.modCore a.core.toNat fun c => (c.dropL1 (x.pa / 4)).dropL1 ((x.pa + w / 8 - 1) / 4) else s)

/-- The lanes of an atomic performed in increasing lane order. -/
def atomLanes (a : Agent) (q : AtomReq) (err soft : Mask) :
    List AtomLane → List (Nat × Word × Bool) → State → List (Nat × Word × Bool) × State
  | [], acc, s => (acc, s)
  | x :: xs, acc, s =>
    let r := atomLane a q x (has err x.lane) (has soft x.lane) s
    atomLanes a q err soft xs (acc ++ [(x.lane, r.1.1, r.1.2)]) r.2

/-- The atomic on its way may be performed: earlier accesses of its words are (R124), and so are the requests
that its core sent before it to the same homes (R20). -/
def atomDue (s : State) (a : Agent) (q : AtomReq) : Bool :=
  atomSent s a q && q.lanes.all fun x => !s.refuses x.pa && !sentBefore s a.l1Core (homeOf x.pa) q.ord

/-- The atomic on its way is performed; its old values go to its destination. -/
def execAtomicAtHome (g : Nat) (err soft : Mask) (s : State) : Host.Outcome State Fault Refusal :=
  match s.agent g with
  | none => .next s
  | some a =>
    match a.atom with
    | none => .next s
    | some q =>
      let line := match q.dest with | .slot i => s.lineBlocked a (lineOf i) | _ => false
      if !atomDue s a q || !s.inOrder a.l1Core (q.lanes.map fun x => (homeOf x.pa, s.nextOrd)) then .next s
      else if line then .next (match q.dest with
        | .slot i => s.fillLine g (lineOf i)
        | _ => s)
      else
        let (old, s) := atomLanes a q err soft q.lanes q.done s
        let s := s.modAgent g fun a => { (a.putOld q.dest (groupOld q.ls old)) with atom := none }
        .next (match q.dest with
          | .slot i => s.useLine g (lineOf i)
          | _ => s)

end Sys2Proof.Machine
end

