-- ==== Sys2Proof/Machine/Lines.lean ====
section
/-!
DEFINITION. Register lines of contexts as the store moves them (R141 to R152, R161): addresses of a
context, fills, write-backs, drowsy lines, refresh and gating of banks, flushes, the reading of a
header at activation with the re-issue of its descriptors, and fills of the instruction cache (R163).
-/

namespace Sys2Proof.Machine

/-! ### Addresses of a context (R151) -/

/-- Where a context's byte lies once its page is known. A page that cannot be both read and written cannot serve
a context. -/
def ctxPlace (s : State) (a : Agent) (off : Nat) (p : Page) : Except XErr (Req × Nat) :=
  let pa := p.pa + (a.cb.toNat + off) % 2 ^ 16
  if !p.r || !p.w then .error .s1 else if !s.there pa then .error .s2 else .ok (a.req (s.treeOf a).1 p, pa)

/-- Where byte off of a gang's context lies, or the failure of its translation, which the next access meets anew;
nothing yet, with its walk asked for, while the page is in no TLB (R256, R257). -/
def State.ctxByte (s : State) (a : Agent) (off : Nat) : Option (Except XErr (Req × Nat)) × State :=
  let vpn := (a.cb.toNat + off) / 2 ^ 16
  match s.translate a vpn with
  | (none, s) => (none, s)
  | (some (.error x), s) => (some (.error x), s.forget a.id vpn)
  | (some (.ok p), s) => (some (ctxPlace s a off p), s)

/-- Byte off of a gang's context can be reached under the tables of now, as its pilot finds when it serves a context
fault (R151). -/
def State.ctxServes (s : State) (a : Agent) (off : Nat) : Bool :=
  let (b, c) := s.treeOf a
  match s.walkFor a b c ((a.cb.toNat + off) / 2 ^ 16) with
  | .error _ => false
  | .ok p => match ctxPlace s a off p with | .ok _ => true | .error _ => false

/-- The pilot has not yet served the context fault of an agent (R152). -/
def State.ctxFaulted (s : State) (g : Nat) : Bool :=
  s.records.any fun r => r.agent == g && r.kind == 5 && r.live && r.cause == 0x41

/-- A context fault (R151): the pilot hears of it with the address in a service record. A gang in its slot or
ready is parked at its unit; one that is parked or waits to retire stays as it is, and has one such record at a
time. -/
def State.ctxFault (s : State) (a : Agent) (off : Nat) : State :=
  let va := a.cb + BitVec.ofNat 64 off
  if a.run == .active || a.run == .ready || (match a.run with | .holding _ _ => true | _ => false) then
    s.systemFault a.id 0x41 va va
  else if s.ctxFaulted a.id then s
  else (s.note 0x41 a.id va).service a 18 0x41 va va

/-- A line's 32 words written at their home, as one request of the core's register-line port (R148, R432). The port
sends a request, is served and has its answer in one event, so that its requests to a slice, and their answers, keep
their order (R20). -/
def State.putWords (s : State) (r : Req) (pa : Nat) (v : Lanes) (p : Mask) : State :=
  (List.range 32).foldl (fun s l => s.unitPut r (pa + 8 * l) 0xFF (lane v l) (has p l) none) (s.count r pa true)

/-! ### The header at activation (R145, R147) -/

/-- The rest of an activation once the header is at hand (R145): the descriptors issued again, then the fills in the
background. A gang that the debug step stopped at its last EXIT retires now (R43, R138). -/
def State.begin (s : State) (g : Nat) : State :=
  let s := s.focus g
  let a := s.cur
  let s : State := { s with cur := { a with cold := true, dues := none } }
  match a.dues with
  | some (c, v) =>
    -- the debug step of a unit that parked the gang (log 78)
    if c = 0x12 then s.systemFault g 0x12 v 0
    -- raised by the word before the saved PC
    else (({ s with cur := { s.cur with pc := s.cur.pc - 4 } } : State).takeTrap c v).warm g
  | none =>
    if a.xm = 0xFFFFFFFF then { s with cur := { s.cur with run := .leaving } }
    else ((reissue 4 0 s).land g).warm g

/-- A gang in its slot whose header lies in its lines reads it as soon as lines 0 to 3, and those of
its descriptors, are resident (R145). -/
def State.tryHeader (s : State) (g : Nat) : State :=
  match s.agent g with
  | none => s
  | some a =>
    if !a.fresh || !a.inSlot then s
    else if [0, 1, 2, 3].any (lineWaits s a) then [0, 1, 2, 3].foldl (fun s n => s.fillLine g n) s
    else
      let js := (List.range 4).filter fun j => a.heldWord (0x80 + 16 * j) / 2 ^ 62 != 0
      if js.any fun j => lineWaits s a (4 + j) then js.foldl (fun s j => s.fillLine g (4 + j)) s
      else ((([0, 1, 2, 3] ++ js.map (4 + ·)).foldl (fun (s : State) n => s.useLine g n) s).modAgent g Agent.loadHeader).begin g

/-- The gangs of a core that wait for their headers look again. -/
def State.tryHeaders (s : State) (core : Nat) : State :=
  ((s.gangsOn core).filter fun a => a.fresh && a.inSlot).foldl (fun s a => s.tryHeader a.id) s

/-! ### Fills and write-backs (R142, R148, R151, R152) -/

/-- The words of a line read at their home, as one request, each with the mark of its unit and whether its read
fails. -/
def State.getWords (s : State) (r : Req) (pa : Nat) (err : Mask) : List (Word × Bool × Bool) × State :=
  (List.range 32).foldl (fun (acc : List (Word × Bool × Bool) × State) l =>
    let y := acc.2.unitGet r (pa + 8 * l)
    (acc.1 ++ [(y.1.1, y.1.2.1, y.1.2.2 || has err l)], y.2)) ([], s.count r pa false)

/-- A line as it comes from its home: clean, with the marks that were saved with it (R105), and word poison where its
read failed, in every lane of the group (R144, R275). -/
def RegLine.filled (n clk : Nat) (ls : BitVec 8) (xs : List (Word × Bool × Bool)) : RegLine :=
  { RegLine.zero n with
    used := clk
    data := lanesOf fun l => (xs.getD l (0, false, false)).1
    poison := maskOf (fun l => (xs.getD l (0, false, false)).2.1)
      ||| (if n < 16 then id else groupPoison ls 0xFFFFFFFF) (maskOf fun l => (xs.getD l (0, false, false)).2.2) }

/-- The fill of a line arrives: its 32 words, with word poison where the unit is marked or its line
failed; a context fault leaves the line absent. A bank under refresh, a stack that refuses
requests, or a write-back of the line still on its way, makes it wait. -/
def execLineFillArrival (g n : Nat) (err : Mask) (s : State) : Host.Outcome State Fault Refusal :=
  match s.agent g with
  | none => .next s
  | some a =>
    let core := a.core.toNat
    if a.prof != .full || !(a.lines.any fun l => l.n == n && l.st == .filling) || a.wbacks.any (·.1 == n)
        || (s.core core).refreshing.getLsbD (bankOf a n) then .next s
    else match s.ctxByte a (256 * n) with
      | (none, s) => .next s
      | (some (.error _), s) => .next ((s.modAgent g (·.dropLine n)).ctxFault a (256 * n))
      | (some (.ok (r, pa)), s) =>
        if s.refuses pa then .next s
        else
          let (xs, s) := s.getWords r pa err
          let s := if err = 0 then s else s.note 0x29 g (BitVec.ofNat 64 pa)
          let s := s.modCore core fun c => { c with gated := setBit c.gated (bankOf a n) false }
          .next ((s.modAgent g fun a => a.putLine (RegLine.filled n s.clk a.ls xs)).tryHeader g)

/-- A write-back of line n is done: the line is clean, unless it was written since or another is on its way. -/
def Agent.cleaned (a : Agent) (n : Nat) : Agent :=
  if a.wbacks.any (·.1 == n) then a
  else a.modLine n fun l => if l.inFlight then { l with dirty := false, inFlight := false } else l

/-- The oldest write-back of a line registers at the homes; the line becomes clean if it was not written since. A
context fault leaves it to be done, its line dirty and out of every victim search, until the pilot has served the
fault (R152). -/
def execWriteBackRegistered (g n : Nat) (s : State) : Host.Outcome State Fault Refusal :=
  match s.agent g with
  | none => .next s
  | some a =>
    match a.wbacks.findIdx? (·.1 == n) with
    | none => .next s
    | some k =>
      match a.wbacks[k]? with
      | none => .next s
      | some (_, v, p) =>
        if s.ctxFaulted g then .next s
        else match s.ctxByte a (256 * n) with
        | (none, s) => .next s
        | (some (.error _), s) =>
          .next ((s.modAgent g fun a => a.modLine n fun l => { l with stuck := true }).ctxFault a (256 * n))
        | (some (.ok (r, pa)), s) =>
          if s.refuses pa then .next s
          else .next (((s.putWords r pa v p).modAgent g fun a =>
            ({ a with wbacks := dropAt k a.wbacks } : Agent).cleaned n).tryHeaders a.core.toNat)

/-- The gang's header written into its lines, once its banks have room for them (R141, R146). -/
def State.settle (s : State) (g : Nat) : Option State :=
  match s.agent g with
  | none => none
  | some a =>
    if a.inSlot || a.fresh then some s
    else
      let new := a.headerLines.filter fun n => (a.line n).isNone
      let s := new.foldl (fun s n => State.roomFor 256 a.core.toNat (bankOf a n) s) s
      if new.all fun n => s.bankRoom a.core.toNat (bankOf a n) then
        some (a.headerLines.foldl (fun (s : State) n => s.useLine g n) (s.modAgent g Agent.settle))
      else none

/-- The lines of a gang outside its slot may be moved: its header is in its lines, and no atomic of it
is on its way. -/
def State.movable (s : State) (g : Nat) : Option (Agent × State) :=
  match s.agent g with
  | none => none
  | some a =>
    if a.prof != .full || a.run == .off || a.atom.isSome then none
    else match s.settle g with
      | some s => (s.agent g).map (·, s)
      | none => none

def execLazyWriteBack (g n : Nat) (s : State) : Host.Outcome State Fault Refusal :=
  match s.movable g with
  | none => .next s
  | some (a, s') =>
    if a.inSlot || !(a.lines.any fun l => l.n == n && l.dirty && !l.inFlight) then .next s
    else .next (s'.modAgent g (·.writeBack n))

/-- Lines of a gang parked for 2 µs go drowsy (R142, R144). -/
def execLineDrowsy (g n : Nat) (s : State) : Host.Outcome State Fault Refusal :=
  match s.movable g with
  | none => .next s
  | some (a, s') =>
    match a.run with
    | .parked _ since =>
      if since + 1400 ≤ s.clk && a.lines.any (fun l => l.n == n && l.st == .resident) then
        .next (s'.modAgent g (·.modLine n fun l => { l with st := .drowsy }))
      else .next s
    | _ => .next s

/-- A drowsy line that is accessed is resident 4 aclk later. -/
def execDrowsyWake (g n : Nat) (s : State) : Host.Outcome State Fault Refusal :=
  match s.agent g with
  | none => .next s
  | some a =>
    if a.inSlot && a.lines.any (fun l => l.n == n && l.st == .drowsy) then
      .next ((s.modAgent g (·.modLine n fun l => { l with st := .resident })).tryHeader g)
    else .next s

/-! ### Banks (R144) -/

/-- The lanes of a gang's slot, or of its header line, with the poison of one lane spread over its group. -/
def spread (a : Agent) (n : Nat) (p : Mask) : Mask := if n < 16 then p else groupPoison a.ls 0xFFFFFFFF p

/-- An error that the ECC of a held line finds: corrected and logged; or, in a dirty line, the lane words carry word
poison and the pilot receives ULS_ERROR; or, in a clean line, the line is fetched again, and where that meets a
persistent error too, its words carry word poison and the pilot receives ULS_ERROR (R144, R162, R275). A clean
line without a word in memory reads zero again. -/
def State.ulsError (s : State) (bank core : Nat) (e : UlsErr) : State :=
  match s.agent e.g with
  | none => s
  | some a => match a.line e.n with
    | none => s
    | some l =>
      let va := a.cb + BitVec.ofNat 64 (256 * e.n)
      if a.prof != .full || a.core.toNat != core || bankOf a e.n != bank || l.st == .filling || e.lanes = 0 then s
      else if e.corrected then s.note 0 e.g va
      else
        let poisoned := fun (s : State) => (s.modAgent e.g fun a => a.modLine e.n fun l =>
          { l with poison := l.poison ||| spread a e.n e.lanes }).note 0x48 e.g va
        if l.dirty then poisoned s
        else if e.persists then poisoned s
        else if e.n < 16 || a.isWritten (e.n - 16) then s.modAgent e.g fun a => a.modLine e.n fun l => { l with st := .filling }
        else s

/-- A refresh of a bank begins, and the ECC of its lines is looked at (R144, log 85). -/
def execBankRefresh (core : BitVec 8) (bank : BitVec 5) (errs : List UlsErr) (s : State) : Host.Outcome State Fault Refusal :=
  let s := errs.foldl (fun s e => s.ulsError bank.toNat core.toNat e) s
  .next (s.modCore core.toNat fun c => { c with refreshing := setBit c.refreshing bank.toNat true })

def execBankRefreshEnd (core : BitVec 8) (bank : BitVec 5) (s : State) : Host.Outcome State Fault Refusal :=
  let s := s.modCore core.toNat fun c => { c with refreshing := setBit c.refreshing bank.toNat false }
  .next (s.tryHeaders core.toNat)

/-- The bank may be gated: no dirty, filling or pinned line of it, no scratchpad line, and no access
for 20 µs (R144). -/
def gateable (s : State) (core bank : Nat) : Bool :=
  s.padLines core == 0 && findD bank 0 (s.core core).banks + 14000 ≤ s.clk
    && (s.gangsOn core).all fun a => a.lines.all fun l => bankOf a l.n != bank || (!l.dirty && l.st != .filling
      && !(a.inSlot && a.keeps l.n) && (a.inSlot || a.fresh || 8 ≤ l.n))

def execBankGate (core : BitVec 8) (bank : BitVec 5) (s : State) : Host.Outcome State Fault Refusal :=
  if !gateable s core.toNat bank.toNat then .next s
  else
    let s := (s.gangsOn core.toNat).foldl (fun s a => s.modAgent a.id fun a =>
      { a with lines := a.lines.filter fun l => bankOf a l.n != bank.toNat }) s
    .next (s.modCore core.toNat fun c => { c with gated := setBit c.gated bank.toNat true })

/-! ### Flushes (R161) -/

/-- One line of a flush, with no write-back of it left: a drowsy line wakes, a dirty one is written at its home, and
every line is dropped where asked. A line that meets a context fault stays dirty, out of every victim search, until the
pilot has served it; one whose page is still being walked, or whose stack refuses requests, is left for the next try. -/
def State.flushLine (s : State) (g : Nat) (drop : Bool) (l : RegLine) : State :=
  match s.agent g with
  | none => s
  | some a =>
    let clean := fun (s : State) => s.modAgent g fun a =>
      if drop then a.dropLine l.n
      else a.modLine l.n fun l => { l with st := if l.st == .filling then .filling else .resident, dirty := false, inFlight := false }
    if a.wbacks.any (·.1 == l.n) then s
    else if !l.dirty then clean s
    else if s.ctxFaulted g then s
    else match s.ctxByte a (256 * l.n) with
      | (none, s) => s
      | (some (.error _), s) => (s.modAgent g fun a => a.modLine l.n fun l => { l with stuck := true }).ctxFault a (256 * l.n)
      | (some (.ok (r, pa)), s) => if s.refuses pa then s else clean (s.putWords r pa l.data l.poison)

/-- Every write-back of a gang that is under way registered, as far as it can be now. -/
def State.drainWbacks (s : State) (g : Nat) : State :=
  match s.agent g with
  | none => s
  | some a => a.wbacks.foldl (fun s w => match execWriteBackRegistered g w.1 s with
      | .next s => s
      | _ => s) s

/-- Every dirty line of a gang written back at its homes, after the write-backs already under way, and
dropped where asked (R161). -/
def State.flushGang (s : State) (g : Nat) (drop : Bool) : State :=
  match s.movable g with
  | none => s
  | some (_, s) =>
    let s := s.drainWbacks g
    match s.agent g with
    | none => s
    | some a => a.lines.foldl (fun s l => s.flushLine g drop l) s

/-- Something of the gang is still to be flushed: a flush goes on until a context fault of it is served. -/
def Agent.unflushed (a : Agent) (drop : Bool) : Bool := !a.wbacks.isEmpty || a.lines.any fun l => l.dirty || drop

/-- A write of CTXFLUSH of a core. One without GO while a flush is under way changes CBH and DROP, which that flush
goes on with (log 79). -/
def State.writeCtxflush (s : State) (core : Nat) (v : Word) : State :=
  let c := s.core core
  if c.flushBusy && v.getLsbD 0 then s
  else s.setCore core { c with
    flushCb := v.extractLsb' 16 48, flushDrop := v.getLsbD 1, flushBusy := c.flushBusy || v.getLsbD 0 }

def execCtxflushWrite (core : BitVec 8) (v : Word) (s : State) : Host.Outcome State Fault Refusal :=
  .next (s.writeCtxflush core.toNat v)

/-- The gang on a core whose context CTXFLUSH names. -/
def State.flushed (s : State) (core : Nat) : Option Agent :=
  (s.gangsOn core).find? fun a => a.cb.extractLsb' 16 48 == (s.core core).flushCb

def execCtxflushDone (core : BitVec 8) (s : State) : Host.Outcome State Fault Refusal :=
  let n := core.toNat
  let c := s.core n
  if !c.flushBusy then .next s
  else match s.flushed n with
    | none => .next (s.setCore n { c with flushBusy := false })
    | some a =>
      -- a bank under refresh, or an atomic on its way, is waited out
      if a.atom.isSome || a.lines.any (fun l => c.refreshing.getLsbD (bankOf a l.n)) || (s.movable a.id).isNone then .next s
      else
        let s := s.flushGang a.id c.flushDrop
        .next (if (s.agent a.id).any (·.unflushed c.flushDrop) then s else s.modCore n fun c => { c with flushBusy := false })

/-! ### Instruction cache (R76, R163) -/

/-- The word in four bytes of a line or memory (R3, R51). -/
def wordAt (bs : List Byte) (off : Nat) : IWord := BitVec.ofNat 32 (ofBytes ((bs.drop off).take 4))

/-- A line of the core's instruction cache. -/
def State.cachedLine (s : State) (a : Agent) (va : Word) : Option ILine :=
  let (b, c) := s.treeOf a
  (s.core a.core.toNat).icache.find? fun x => x.berth == b && x.ctx == c && x.line == va.toNat / 64

/-- The major of the unit at a gang's PC, past its prefixes, as far as its words lie in the core's instruction cache. -/
def State.majorAt (s : State) (a : Agent) : Nat → Word → Option Nat
  | 0, _ => none
  | n + 1, va => (s.cachedLine a va).bind fun x =>
    let op := (wordAt x.bytes (va.toNat % 64)).toNat / 2 ^ 25
    if op = 0x7F then s.majorAt a n (va + 4) else some op

/-- Lines that an instruction cache holds: 32 KiB of 64 bytes (R163). -/
def icacheLines : Nat := 512

/-- A line put into a core's instruction cache in place of what it held of it; the one put in longest ago leaves a
full cache. -/
def Core.putIcache (k : Core) (l : ILine) : Core :=
  { k with icache := (l :: k.icache.filter fun x => !(x.berth == l.berth && x.ctx == l.ctx && x.line == l.line)).take icacheLines }

/-- A line of a core's instruction cache arrives from its home, or the failure of its fetch, which the
unit raises: 0x0E for stage 1, 0x0F without execute permission, the system faults of the walk. A read that meets
an error is made once more; one that fails again leaves the line bad (R163). -/
def execIcacheFill (g errs : Nat) (s : State) : Host.Outcome State Fault Refusal :=
  match s.agent g with
  | none => .next s
  | some a =>
    match a.run with
    | .holding (.ifetch va) _ =>
      let vpn := va.toNat / 2 ^ 16
      let fail := fun (s : State) (c : BitVec 8) (w : Word) =>
        s.modAgent g fun a => { a with xfail := (vpn, c, w) :: a.xfail, run := .active }
      if a.prof != .full then .next s
      else match s.translate a vpn with
        | (none, s) => .next s
        | (some (.error .s1), s) => .next (fail (s.forget g vpn) 0x0E va)
        | (some (.error e), s) => .next (fail (s.forget g vpn) e.cause (e.tval va))
        | (some (.ok p), s) =>
          let pa := p.pa + va.toNat % 2 ^ 16 / 64 * 64
          if !p.x then .next (fail s 0x0F va)
          else if !s.there pa then .next (fail s 0x25 va)
          else if s.refuses pa then .next s
          else
            let (b, c) := s.treeOf a
            let ((bs, bad), s) := s.homeGetBytes (a.req b p) pa 64
            let s := if errs = 0 then s else s.note (if errs = 1 then 0 else 0x29) g (BitVec.ofNat 64 pa)
            let marked := (List.range 8).any fun i => s.mem.marked (pa + 8 * i)
            let s := s.modCore a.core.toNat (·.putIcache ⟨b, c, va.toNat / 64, bs, decide (2 ≤ errs) || bad || marked, p.key⟩)
            .next (s.modAgent g fun a => { a with run := .active })
    | _ => .next s

end Sys2Proof.Machine
end

