-- ==== Sys2Proof/Machine/Sched.lean ====
section
/-!
DEFINITION. The scheduler (spec/02_work.md, spec/15_scheduler.md): which record a slot pops (R346),
placement (R35, R36), activation (R145, R348), pre-emption, quanta and aging (R349 to R353),
swap-out (R39, R364, R323), and the retirement of gangs and teams (R43).
-/

namespace Sys2Proof.Machine

/-! ### Sizes and places -/

/-- Stride of a context pool (R34). -/
def ctxStride (nslots : Nat) : Nat := roundUp (0x1000 + 256 * nslots) 65536

/-- Free contexts of a grid's pool, lowest first. -/
def Grid.freeCtx (g : Grid) : List Nat := (List.range g.poolCount).filter (!g.usedCtx.contains ·)

/-- Bytes from one team frame to the next (R371). -/
def frameStride (scratch : Nat) : Nat := roundUp (0x1000 + roundUp scratch 4096) 65536

/-- Teams of one stage (R30). -/
def perStage (dims : Word) : Nat := bits dims 15 0 * bits dims 31 16 * bits dims 47 32

/-- The core belongs to the berth (R387, R389). -/
def State.coreIn (s : State) (b : BitVec 4) (core : Nat) : Bool :=
  core < 256 && (s.sysreg (dev (0x400 + b.toNat)) 0).getLsbD (core / 4)

/-- The members of a team's quad, or the team alone (R36). -/
def State.unitTeams (s : State) (t : Team) : List Team := s.barTeams t true

/-- The lowest-indexed member, whose frame stands for the quad. -/
def State.lead (s : State) (t : Team) : Team := s.barHome t true

/-- Scratchpad bytes placed on a core. -/
def State.padUsed (s : State) (core : Nat) : Nat :=
  (s.teams.filter fun t => match t.placed with | some c => c.toNat == core | none => false).foldl
    (fun acc t => acc + match s.gridOf t.grid with | some g => g.scratch | none => 0) 0

/-- TCOORD of the team with linear index n (R31). -/
def coordOf (g : Grid) (n : Nat) : Word :=
  let x := bits g.dims 15 0
  let y := bits g.dims 31 16
  BitVec.ofNat 64 (n % x + n / x % y * 2 ^ 16 + n / (x * y) * 2 ^ 32)

/-! ### Matrix frames (R323) -/

/-- Where a byte of matrix frame n of a grid lies, if its page serves: readable, writable and populated (R18); or
the code that its engine's pilot receives, and the address. -/
def State.mxPlace (s : State) (g : Grid) (n off : Nat) : Except (BitVec 8 × Word) (Req × Nat) :=
  let va := g.mfBase.toNat + 0x210000 * n + off
  match walkPage s g.berth g.ctx 0 0 (va / 2 ^ 16) with
  | .error e => .error (e.cause, e.tval (BitVec.ofNat 64 va))
  | .ok p =>
    let pa := p.pa + va % 2 ^ 16
    if !p.r then .error (0x23, BitVec.ofNat 64 va)
    else if !p.w then .error (0x24, BitVec.ofNat 64 va)
    else if !s.there pa then .error (0x25, BitVec.ofNat 64 va)
    else .ok (⟨g.berth, p.key, p.t, 1⟩, pa)

/-- A unit of a matrix frame written; a page that does not serve is left out. -/
def State.mxPut (s : State) (g : Grid) (n off : Nat) (v : Word × Bool) : State :=
  match s.mxPlace g n off with
  | .ok (r, pa) => s.homePut r pa 0xFF v.1 v.2 none
  | .error _ => s

/-- A unit of a matrix frame read back, with its mark; a page that does not serve gives what was suspended. -/
def State.mxGet (s : State) (g : Grid) (n off : Nat) (held : Word × Bool) : (Word × Bool) × State :=
  match s.mxPlace g n off with
  | .ok (r, pa) => let ((v, m, bad), s) := s.homeGet r pa; ((v, m || bad), s)
  | .error _ => (held, s)

/-- The first words of a matrix frame: the sequencer's registers in the order of R323's table, a word-poisoned
scalar with a mark, and from 0x100 the number and progress of each suspended operation (log 31). -/
def frameWords (m : Matrix) (a : Agent) : List (Word × Bool) :=
  [(a.pc, false)] ++ (List.range 24).map (fun i => (a.sreg.getD i 0, a.spois.getLsbD i))
    ++ [((a.cc.getD 0 0).setWidth 64, false), (a.kbind, false), (a.kcore.setWidth 64, false), (a.cause.setWidth 64, false),
      (a.tval, false), (a.epc, false), (m.conf.setWidth 64, false)]
    ++ (m.ops.take 240).flatMap fun o => [(BitVec.ofNat 64 o.id, false), (BitVec.ofNat 64 o.progress, false)]

/-- Poison flags of a matrix engine in unit w of their 0x4000 bytes. -/
def Matrix.flags (m : Matrix) (w : Nat) : Nat :=
  (m.poison.filter fun c => c / 64 == w).foldl (fun acc c => acc + 2 ^ (c % 64)) 0

/-- Half h of a cell of a matrix engine. -/
def Matrix.half (m : Matrix) (c h : Nat) : Word := (findD c 0 m.cells).extractLsb' (64 * h) 64

/-- The registers, operations, accumulators and poison flags of an engine written in a matrix frame of its quad. -/
def State.saveMatrixFrame (s : State) (g : Grid) (n : Nat) (m : Matrix) (a : Agent) : State :=
  let s := (List.range 33).foldl (fun s i => match s.mxPlace g n (0x10000 * i) with
    | .ok (r, pa) => s.zeroBytes r pa (pa + 0x10000)
    | .error _ => s) s
  let s := ((frameWords m a).foldl (fun (acc : State × Nat) w => (acc.1.mxPut g n (8 * acc.2) w, acc.2 + 1)) (s, 0)).1
  let s := m.cells.foldl (fun s c => (List.range 2).foldl (fun s h =>
    s.mxPut g n (0x10000 + 16 * c.1 + 8 * h) (m.half c.1 h, false)) s) s
  (m.poison.map (· / 64)).eraseDups.foldl (fun s w => s.mxPut g n (0x1000 + 8 * w) (BitVec.ofNat 64 (m.flags w), false)) s

/-- The units of a matrix frame from an offset read back, with what was suspended in each. -/
def State.mxRead (s : State) (g : Grid) (n off : Nat) (held : List (Word × Bool)) : List (Word × Bool) × State :=
  let r := held.foldl (fun (acc : List (Word × Bool) × State × Nat) w =>
    let x := acc.2.1.mxGet g n (off + 8 * acc.2.2) w
    (x.1 :: acc.1, x.2, acc.2.2 + 1)) ([], s, 0)
  (r.1.reverse, r.2.1)

/-- A suspended engine and sequencer as their matrix frame gives them (R323). -/
def State.loadMatrixFrame (s : State) (g : Grid) (n : Nat) (m : Matrix) (a : Agent) : (Matrix × Agent) × State :=
  let (ws, s) := s.mxRead g n 0 (frameWords m a)
  let (fs, s) := s.mxRead g n 0x1000 ((List.range 2048).map fun w => (BitVec.ofNat 64 (m.flags w), false))
  let (cs, s) := s.mxRead g n 0x10000 ((List.range 262144).map fun h => (m.half (h / 2) (h % 2), false))
  let w := fun (i : Nat) => (ws.getD i (0, false)).1
  let bad := fun (c : Nat) => (fs.getD (c / 64) (0, false)).1.getLsbD (c % 64) || (fs.getD (c / 64) (0, false)).2
    || (cs.getD (2 * c) (0, false)).2 || (cs.getD (2 * c + 1) (0, false)).2
  let cell := fun (c : Nat) => (cs.getD (2 * c + 1) (0, false)).1 ++ (cs.getD (2 * c) (0, false)).1
  let prog := fun (o : MxOp) => match (List.range 240).find? fun k => w (32 + 2 * k) == BitVec.ofNat 64 o.id with
    | some k => (w (33 + 2 * k)).toNat
    | none => o.progress
  (({ m with
      conf := (w 31).setWidth 2
      ops := m.ops.map fun o => { o with progress := prog o }
      cells := ((List.range 131072).filter fun c => cell c != 0).map fun c => (c, cell c)
      poison := (List.range 131072).filter bad },
    { a with
      pc := w 0
      sreg := Vector.ofFn fun i : Fin 24 => w (1 + i.val)
      spois := (List.range 24).foldl (fun p i => setBit p i (ws.getD (1 + i) (0, false)).2) 0
      cc := a.cc.setIfInBounds 0 ((w 25).setWidth 16)
      kbind := w 26, kcore := (w 27).setWidth 16, cause := (w 28).setWidth 8, tval := w 29, epc := w 30 }), s)

/-- The matrix frame of a quad: the one it has, or the first free one of the grid's pool. -/
def State.mxFrameOf (s : State) (g : Grid) (lead : Team) : Option Nat :=
  match lead.mxFrame with
  | some n => some n
  | none =>
    let used := (s.teams.filter (·.grid == lead.grid)).filterMap (·.mxFrame)
    (List.range g.mfCount).find? (!used.contains ·)

/-- The sequencer and engine of a quad suspended, and free for another (R323). A page of the frame that does not
serve is reported to the pilot (R18). -/
def State.suspendMatrix (s : State) (lead : Team) : State :=
  match s.clusters.find? fun c => c.2.mx.quad == some lead.id with
  | none => s
  | some (c, cl) =>
    match s.agent (64 + c), s.gridOf lead.grid with
    | some a, some g =>
      -- a unit held at issue, or for the pilot, is made again
      let a := { a with pfx := [], xfail := [], run := match a.run with | .holding _ _ | .parked .service _ => .active | r => r }
      let frame := s.mxFrameOf g lead
      let s := s.modTeam lead.id fun t => { t with suspended := some (cl.mx, a), mxFrame := frame }
      let s := match frame with
        | some n =>
          let s := s.saveMatrixFrame g n cl.mx a
          match (List.range 33).findSome? fun i => match s.mxPlace g n (0x10000 * i) with | .error e => some e | .ok _ => none with
          | some (e, va) => (s.note e a.id va).service a 20 e va va
          | none => s
        | none => s
      let s := s.modAgent (64 + c) fun a => { a with run := .off, looks := [], atom := none }
      s.setCluster c { cl with mx := { Matrix.init with spared := cl.mx.spared } }
    | _, _ => s

/-- The quad has a stream to run: one not started, or one suspended (R319). -/
def Team.streams (lead : Team) (g : Grid) : Bool := g.tileent != 0 && (!lead.streamed || lead.suspended.isSome)

/-- The stream of a quad started at its first placement, or resumed from its matrix frame (R319, R323). A stream
that has ended is not started again. -/
def State.startSequencer (s : State) (g : Grid) (lead : Team) (c : Nat) : State :=
  let spared := (s.cluster c).mx.spared
  match lead.suspended with
  | some (m, a) =>
    let ((m, a), s) := match lead.mxFrame with
      | some n => s.loadMatrixFrame g n m a
      | none => ((m, a), s)
    let s := s.modCluster c fun cl => { cl with mx := { m with spared := spared, quad := some lead.id } }
    let s := s.setAgent { a with id := 64 + c, core := BitVec.ofNat 8 (4 * c) }
    s.modTeam lead.id fun t => { t with suspended := none }
  | none =>
    if lead.streamed then s
    else
      let s := s.modCluster c fun cl => { cl with mx := { Matrix.init with spared := spared, quad := some lead.id } }
      let a := Agent.init (64 + c) .tile
      let s := s.setAgent { a with
        run := .active, pc := g.tileent, berth := g.berth, grid := g.id, team := lead.id
        core := BitVec.ofNat 8 (4 * c), stage := lead.stage, gid := g.gid
        tid := lead.t.setWidth 64, tcoord := coordOf g lead.t.toNat
        sreg := (a.sreg.setIfInBounds 0 g.args).setIfInBounds 1 (lead.t.setWidth 64) }
      s.modTeam lead.id fun t => { t with streamed := true }

/-! ### Gangs made (R35, R37) -/

/-- A gang made in the state of R37 with context ctx, and its record. -/
def State.newGang (s : State) (g : Grid) (t : Team) (core : BitVec 8) (idx ctx : Nat) (pc s0 : Word) (lvl : BitVec 8)
    (f : Record → Record) : State :=
  let a := Agent.init s.nextAgent .full
  let cb := g.poolBase + BitVec.ofNat 64 (ctx * ctxStride g.nslots.toNat)
  let a := { a with
    run := .ready, pc := pc, cb := cb, nslots := g.nslots, berth := g.berth, grid := g.id, team := t.id, core := core
    stage := t.stage, gid := g.gid, tid := BitVec.ofNat 64 (t.t.toNat + idx * 2 ^ 32)
    tcoord := coordOf g t.t.toNat, trapvec := g.trapent &&& ~~~3#64, pri := lvl.setWidth 5, base := g.level.setWidth 5
    record := s.nextRecord, sreg := a.sreg.setIfInBounds 0 s0 }
  let r : Record := f {
    id := s.nextRecord, kind := 0, lvl := lvl, join := 0, stg := t.stage, frame := cb, code := pc, wake := 0
    berth := g.berth, grid := g.id, team := t.id, agent := s.nextAgent, queued := false, seq := 0, since := s.clk
    due := none, index := noIndex, gen := 0, joins := 0, tile := 0, live := true, cause := 0, sub := 0 }
  let s := { s with
    agents := s.agents ++ [a], records := s.records ++ [r], nextAgent := s.nextAgent + 1, nextRecord := s.nextRecord + 1 }
  let s := s.modTeam t.id fun t => { t with gangs := t.gangs ++ [a.id], count := BitVec.ofNat 8 (idx + 1) }
  s.modGrid g.id fun g => { g with usedCtx := ctx :: g.usedCtx }

/-- The record that stands for a team (R47). -/
def State.teamRecord (s : State) (t : Nat) : Option Record :=
  s.records.find? fun r => r.team == t && (r.kind == 1 || r.kind == 2) && r.live

/-- Every line that a gang holds is clean, or waits for its pilot: nothing of it is on its way (R39, R152). -/
def Agent.settled (a : Agent) : Bool := a.wbacks.isEmpty && a.lines.all fun l => !l.dirty || l.stuck

/-- The gang records of a team that is placed again queued at the team record's level, in gang index order
(R35); a trap record keeps its own. Gangs that still wait stay parked. -/
def State.requeueGangs (s : State) (x : Team) (lvl : BitVec 8) : State :=
  let gs := (List.range 32).filterMap fun i => (x.gangs.filterMap s.agent).find? fun a => bits a.tid 39 32 == i && a.run == .ready
  gs.foldl (fun s a => (s.modRecord a.record fun r => { r with lvl := if r.kind = 0 then lvl else r.lvl }).enqueue a.record) s

/-- The pilot hears of a team that is placed again: a service record of level 19 with the frame's address (R47,
R48, log 76). -/
def State.swapIn (s : State) (g : Grid) (x : Team) : State :=
  let a := Agent.init 0 .full
  s.service { a with berth := g.berth, grid := g.id, team := x.id, stage := x.stage } 19 0 (BitVec.ofNat 64 x.frame) 0

/-- A team placed on a core (R35): a fresh one with a zero scratchpad and new gangs, or one that was
swapped out with its own. The wait of a barrier instance that has arrivals standing is measured anew from here, of which
R39 does not speak (log 97). -/
def State.placeTeam (s : State) (t core : Nat) (lvl : BitVec 8) : State :=
  match s.teamOf t with
  | none => s
  | some x => match s.gridOf x.grid with
    | none => s
    | some g =>
      let c := BitVec.ofNat 8 core
      let s := match s.teamRecord t with
        | some r => (s.modRecord r.id fun r => { r with queued := false, due := none, wake := 0 }).storeRecord r.id
        | none => s
      let s := s.modTeam t fun x => { x with
        placed := some c, lastCore := c, swapped := false, swapWanted := false, blocked := false
        waitSince := if x.arrived = [] then none else some s.clk
        qwaitSince := if x.qarrived = [] then none else some s.clk }
      let s := if x.swapped then
          let s := x.gangs.foldl (fun s n => s.modAgent n fun a => { a with core := c, lines := a.lines.filter (·.dirty) }) s
          ((s.loadFrame t).requeueGangs x lvl).swapIn g x
        else
          ((g.freeCtx.take g.gangsPer).foldl (fun (acc : State × Nat) k =>
            let n := acc.1.nextRecord
            ((acc.1.newGang g x c acc.2 k g.entry g.args lvl id).enqueue n, acc.2 + 1)) (s, 0)).1
      s.saveFrame t false

/-- The team can be placed on the core now (R35, R36, R319). -/
def State.canPlace (s : State) (t : Team) (core : Nat) : Bool :=
  match s.gridOf t.grid with
  | none => false
  | some g =>
    let ready := fun (x : Team) => match s.teamRecord x.id with | some r => r.queued | none => false
    let fits := fun (c : Nat) => s.coreIn g.berth c && s.padUsed c + g.scratch ≤ 524288
    let us := (s.unitTeams t).filter (!·.ended)
    let fresh := (us.filter (!·.swapped)).length
    let still := fun (x : Team) => x.gangs.all fun n => (s.agent n).all Agent.settled
    if g.quad then
      let cl := s.cluster (core / 4)
      us.all (fun x => x.placed.isNone && ready x && still x && fits (core / 4 * 4 + x.t.toNat % 4))
        && fresh * g.gangsPer ≤ g.freeCtx.length
        && (!(s.lead t).streams g || (cl.mx.quad.isNone && cl.mx.ops.isEmpty))
    else t.placed.isNone && ready t && still t && fits core && (t.swapped || g.gangsPer ≤ g.freeCtx.length)

/-- Lines of a bank that a scratchpad of some bytes, placed on a core beside the others, leaves for registers. -/
def State.padKeeps (s : State) (core bytes : Nat) : Nat := 128 - (s.padUsed core + bytes + 8191) / 8192

/-- Lines of contexts that a bank holds. -/
def State.bankHeld (s : State) (core bank : Nat) : Nat :=
  (s.gangsOn core).foldl (fun acc a => acc + (a.lines.filter fun l => bankOf a l.n == bank).length) 0

/-- Lines given up by a bank until it holds at most some number (R149): the record of the team that is placed ranks
as an active gang of its level with the newest age, so that only gangs of a lower level are demoted for it. -/
def State.thin : Nat → Nat → Nat → Nat → BitVec 8 → State → State
  | 0, _, _, _, _, s => s
  | n + 1, core, bank, keep, lvl, s =>
    if s.bankHeld core bank ≤ keep then s
    else match s.takeVictim core bank with
      | some s => State.thin n core bank keep lvl s
      | none =>
        match lowestRank ((s.gangsOn core).filter fun a => a.inSlot && a.run != .leaving && a.pri.toNat < lvl.toNat
            && a.lines.any fun l => bankOf a l.n == bank) with
        | some a => State.thin n core bank keep lvl (s.leaveSlot a.id true)
        | none => s

/-- Room for a scratchpad made in every bank of a core as far as that needs no write-back first (R35, R149). -/
def State.reserve (s : State) (core bytes : Nat) (lvl : BitVec 8) : State :=
  if bytes = 0 then s
  else (List.range 32).foldl (fun s b => State.thin 512 core b (s.padKeeps core bytes) lvl s) s

/-- The scratchpad of some bytes has its lines on a core (R35). -/
def State.reserved (s : State) (core bytes : Nat) : Bool :=
  bytes == 0 || (List.range 32).all fun b => s.bankHeld core b ≤ s.padKeeps core bytes

/-- The team, or its quad, placed (R35, R36), once the lines of every scratchpad are free on its core; until then
room is made for them and the record keeps its place. The gang records of every member of a quad have the level of the
record that was popped, whatever level the members' own have aged to (log 96). -/
def State.place (s : State) (t : Team) (core : Nat) (lvl : BitVec 8) : State :=
  match s.gridOf t.grid with
  | none => s
  | some g =>
    let us : List (Team × Nat) := if g.quad then
        ((s.unitTeams t).filter (!·.ended)).map fun x => (x, core / 4 * 4 + x.t.toNat % 4)
      else [(t, core)]
    let s := us.foldl (fun s x => s.reserve x.2 g.scratch lvl) s
    if !us.all fun x => s.reserved x.2 g.scratch then s
    else
      let s := us.foldl (fun s x => s.placeTeam x.1.id x.2 lvl) s
      if g.quad && (s.lead t).streams g then s.startSequencer g (s.lead t) (core / 4) else s

/-! ### The pop order (R346) -/

/-- The VF slot that runs in a berth lets the grid's records run (R384). A queue interface's grids
run in every slot. -/
def State.inSlice (s : State) (g : Grid) : Bool :=
  let w := s.sysreg (dev (0x300 + g.berth.toNat)) 0
  let slot := fun (i : Nat) => bits w (16 * i + 15) (16 * i)
  if (List.range 4).all fun i => slot i % 2 ^ 12 == 0 then true
  else match s.packetOf g.packet with
    | some p => (match p.owner with
      | .vf v => v.toNat == slot (s.berth g.berth).slot.toNat / 2 ^ 12
      | .qi _ => true)
    | none => true

/-- The records eligible on a core (R346). -/
def State.eligible (s : State) (core : Nat) : List Record :=
  s.records.filter fun r =>
    r.live && r.queued && s.coreIn r.berth core && (s.berth r.berth).state == 1
      && (match s.gridOf r.grid with | some g => s.inSlice g | none => false)
      && match s.teamOf r.team with
        | none => false
        | some t =>
          if r.kind = 0 || r.kind = 4 then
            t.placed == some (BitVec.ofNat 8 core) && !((s.core core).flushBusy && r.frame.extractLsb' 16 48 == (s.core core).flushCb)
          else if r.kind = 1 || r.kind = 2 then (List.range 256).any (s.canPlace t) else false

/-- The keys of the pop order, smaller first. -/
def State.popKeys (s : State) (r : Record) : List Nat :=
  let g := s.gridOf r.grid
  [31 - r.lvl.toNat, if r.due.isSome then 0 else 1, r.due.getD 0,
    (match g with | some g => g.deadline.toNat | none => 0), (match g with | some g => g.launchNo | none => 0), r.seq]

/-- Lexicographic order of key lists. -/
def keysLt : List Nat → List Nat → Bool
  | x :: xs, y :: ys => decide (x < y) || (x == y && keysLt xs ys)
  | _, _ => false

/-- The first record of a list in the pop order. -/
def State.first (s : State) : List Record → Option Record
  | [] => none
  | r :: rs => some (rs.foldl (fun acc x => if keysLt (s.popKeys x) (s.popKeys acc) then x else acc) r)

/-- Gangs that hold a slot of the core (R38). -/
def State.inSlots (s : State) (core : Nat) : List Agent := (s.gangsOn core).filter Agent.inSlot

/-! ### Activation (R145, R348, R33) -/

/-- A gang record popped: the gang takes a slot at its record's level. -/
def State.activate (s : State) (r : Record) : State :=
  match s.agent r.agent with
  | none => s
  | some a =>
    let n := a.core.toNat
    let s := s.modRecord r.id fun r => { r with queued := false, due := none, since := s.clk }
    let s := s.modAgent a.id fun a => { a with
      run := .active, pri := r.lvl.setWidth 5, stamp := (s.core n).stamps, since := s.clk, prot := r.due.isSome
      counted := true }
    let s := s.modCore n fun c => { c with stamps := c.stamps + 1 }
    let s := s.acquire a.id
    if a.fresh then s.tryHeader a.id else s.begin a.id

/-- Some records in the pop order. -/
def State.popOrder (s : State) : Nat → List Record → List Record
  | 0, _ => []
  | n + 1, rs => match s.first rs with
    | none => []
    | some r => r :: s.popOrder n (rs.filter (·.id != r.id))

/-- What a pop shows: the records, and the gangs with their lines. -/
def State.popView (s : State) := (s.records, s.all.map fun a => (a.run, a.lines, a.wbacks))

/-- The first of some records taken by an idle slot: a gang activated, or a team placed on the core named or room made
there for its scratchpad. A team that cannot be placed now is passed over (R35). -/
def State.popFirst (place : Nat) : List Record → State → State
  | [], s => s
  | r :: rs, s =>
    if r.kind = 0 || r.kind = 4 then s.activate r
    else match s.teamOf r.team with
      | none => s.popFirst place rs
      | some t =>
        let s' := if s.canPlace t place then s.place t place r.lvl else s
        if s'.popView == s.popView then s.popFirst place rs else s'

/-- An idle slot of a core pops the first eligible record; a team record is placed on the core named. -/
def execSlotPop (core place : BitVec 8) (s : State) : Host.Outcome State Fault Refusal :=
  if 48 ≤ (s.inSlots core.toNat).length then .next s
  else
    let rs := s.eligible core.toNat
    .next (s.popFirst place.toNat (s.popOrder rs.length rs))

/-! ### Pre-emption, quanta, aging (R349, R352, R353) -/

/-- The gang is in its first quantum after it was popped as due (R353). -/
def Agent.guarded (a : Agent) (clk : Nat) : Bool := a.prot && clk < a.since + 35000

/-- A record taken by a slot of a core: a gang activated, or a team placed on the first core with room for it. -/
def State.take (s : State) (r : Record) : State :=
  if r.kind = 0 || r.kind = 4 then s.activate r
  else match s.teamOf r.team with
    | none => s
    | some t => match (List.range 256).find? (s.canPlace t) with
      | some c => s.place t c r.lvl
      | none => s

/-- The active gang of a core that a record of higher level takes its slot from: the lowest-ranked of lower level
(R349, R150). -/
def State.lowerGang (s : State) (core : Nat) (r : Record) : Option Agent :=
  lowestRank ((s.inSlots core).filter fun x => x.run != .leaving && x.pri.toNat < r.lvl.toNat)

/-- What becomes of an eligible record that finds no slot idle and no gang of lower level on any core it is eligible on: it
waits, and a gang activated later keeps its slot from it (R349). One that is eligible no more may become so again. -/
def State.seenNow (s : State) (r : Record) : Bool :=
  let cores := (List.range 256).filter fun n => s.coreIn r.berth n && (s.eligible n).any (·.id == r.id)
  !cores.isEmpty && (r.seen || cores.all fun n => 48 ≤ (s.inSlots n).length && (s.lowerGang n r).isNone)

/-- The records that wait looked at for pre-emption (R349). -/
def State.notice (s : State) : State :=
  { s with records := changeIf (fun r => r.live && r.queued && r.kind != 5) (fun r : Record => ({ r with seen := s.seenNow r } : Record)) s.records }

/-- An active gang gives its slot up to a record of higher level that becomes eligible, or to a due record, when no slot
of its core is idle and it is the lowest-ranked that may. The slot that a due record frees takes that record, the
first of the due ones in the pop order, whatever level stands before it in the queues: so it is activated within
its bound (R353, R354, log 81). The record of the gang that left is no new one: one event costs one gang its slot. -/
def execPreempt (g : Nat) (s : State) : Host.Outcome State Fault Refusal :=
  match s.agent g with
  | none => .next s
  | some a =>
    let n := a.core.toNat
    let higher := (s.first ((s.eligible n).filter (!·.seen))).bind fun r => (s.lowerGang n r).map (r, ·)
    let dueVictim := lowestRank ((s.inSlots n).filter fun x => x.run != .leaving && x.pri.toNat ≤ 17 && !x.guarded s.clk)
    if (s.inSlots n).length < 48 then .next s
    else match higher with
      | some (r, x) => .next (if x.id == g then (s.modRecord r.id fun r => { r with seen := true }).leaveSlot g true else s)
      | none => match s.first ((s.eligible n).filter (·.due.isSome)) with
        | some d =>
          let t := ((s.leaveSlot g true).modRecord a.record fun r => { r with seen := true }).take d
          if (dueVictim.map (·.id)) != some g then .next s
          -- a team that has no room yet is given it first
          else .next (if (t.recordOf d.id).any (·.queued) then s.take d else t)
        | none => .next s

/-- The end of a quantum (R349): a gang at a system level goes on at its launch's ceiling (R48), and a
gang leaves when a record of its level waits. -/
def execQuantumExpiry (g : Nat) (s : State) : Host.Outcome State Fault Refusal :=
  match s.agent g with
  | none => .next s
  | some a =>
    if a.prof != .full || !a.inSlot || a.run == .leaving || s.clk < a.since + 35000 then .next s
    else
      let lvl : BitVec 5 := if 16 ≤ a.pri then
          (match s.gridOf a.grid with | some g => g.ceil.setWidth 5 | none => 0) else a.pri
      let s := s.modAgent g fun a => { a with pri := lvl, since := s.clk, prot := false }
      if (s.eligible a.core.toNat).any fun r => r.lvl.toNat == lvl.toNat then .next (s.leaveSlot g false)
      else .next s

/-- A record ready for 200 µs at its level is raised one level, up to its ceiling (R352). -/
def execAging (r : Nat) (s : State) : Host.Outcome State Fault Refusal :=
  match s.recordOf r with
  | none => .next s
  | some x =>
    let ceil : BitVec 8 := match s.gridOf x.grid with | some g => g.ceil | none => 0
    if x.live && x.queued && x.kind != 5 && x.lvl < 16 && x.lvl < ceil && x.since + 140000 ≤ s.clk
        && (s.berth x.berth).state == 1 then
      .next ((s.modRecord r fun x => { x with lvl := x.lvl + 1, since := s.clk }).storeRecord r)
    else .next s

/-- A record that has waited 200 µs at its ceiling, or at level 16 or 17, becomes due (R353). -/
def execRecordDue (r : Nat) (s : State) : Host.Outcome State Fault Refusal :=
  match s.recordOf r with
  | none => .next s
  | some x =>
    let ceil : BitVec 8 := match s.gridOf x.grid with | some g => g.ceil | none => 0
    if x.live && x.queued && x.kind != 5 && x.due.isNone && (x.lvl == ceil || x.lvl == 16 || x.lvl == 17)
        && x.since + 140000 ≤ s.clk && (s.berth x.berth).state == 1 then
      .next (s.modRecord r fun x => { x with due := some s.clk })
    else .next s

/-! ### Swap-out (R39, R364, R323) -/

/-- Copies and lath instances whose range lies in the team's scratchpad are still under way. -/
def State.padBusy (s : State) (t : Nat) : Bool :=
  (s.clusters.any fun c => c.2.copies.any (·.teams.contains t))
    || s.channels.any fun c => match c.inst with
      | some x => x.teams.contains t && !x.complete
      | none => false

/-- The gang's wait lets its team be swapped out (R364). -/
def swapsOut (a : Agent) : Bool := match a.run with
  | .parked w _ => (match w with
    | .addr _ _ | .joins | .lathDone _ | .lathOpen _ | .batch _ | .handle _ _ | .service => true
    | _ => false)
  | .off => true
  | _ => false

/-- Every gang of the team, or of its quad, has arrived at the barrier that waits, its team's or the quad's, or lets the
team be swapped out (R364). -/
def State.swapAllowed (s : State) (t : Team) (quad : Bool) : Bool :=
  (s.unitTeams t).all fun x => x.gangs.all fun g =>
    (if quad && (s.gridOf x.grid).any (·.quad) then (s.lead x).qarrived else x.arrived).contains g || (s.agent g).all swapsOut

/-- A gang of a team that is swapped out: out of its slot, its header in its lines without a wait for room, since
every line is written back and dropped at once (R39). -/
def State.unload (s : State) (g : Nat) : State :=
  match s.agent g with
  | none => s
  | some a =>
    let s := if a.inSlot && a.run != .leaving then s.leaveSlot g true else s
    let s := s.modAgent g fun a => if a.inSlot || a.fresh then a else a.settle
    -- a line whose page is still to be walked is written back when the walk has ended
    (s.flushGang g true).modAgent g fun a => a.lines.foldl (fun a l => if l.inFlight then a else a.writeBack l.n) a

/-- A team, or its quad, taken off its cores under steps 2 to 4 of R39: its gangs out of their slots,
their lines written back, its scratchpad saved and freed, its engine suspended. -/
def State.evict (s : State) (t : Nat) : State :=
  match s.teamOf t with
  | none => s
  | some x =>
    let us := (s.unitTeams x).filter (·.placed.isSome)
    let s := us.foldl (fun s y =>
      let s := y.gangs.foldl State.unload s
      let s := s.modTeam y.id fun y => { y with
        placed := none, swapped := true, waitSince := none, qwaitSince := none, swapWanted := false, blocked := false }
      let s := s.saveFrame y.id true
      match s.teamRecord y.id with
      | some r => (s.modRecord r.id fun r => { r with
          kind := 1, queued := false, wake := y.gen.setWidth 64, frame := BitVec.ofNat 64 y.frame
          lvl := match s.gridOf y.grid with | some g => g.level | none => r.lvl }).storeRecord r.id
      | none => s) s
    s.suspendMatrix (s.lead x)

/-- Every team on a cluster, taken off and queued ready (R192, R384, R389). -/
def State.evictWhere (s : State) (p : Team → Bool) : State :=
  let ts := s.teams.filter fun t => t.placed.isSome && p t
  let s := ts.foldl (fun s t => s.evict t.id) s
  ts.foldl (fun s t => match s.teamRecord t.id with
    | some r => if r.queued then s else s.enqueue r.id
    | none => s) s

/-- The swap-out of the team is blocked, and is tested again 20 µs after this aclk (R364). -/
def Team.retest (x : Team) (clk : Nat) : Team :=
  { x with swapWanted := false, blocked := true, waitSince := x.waitSince.map fun _ => clk, qwaitSince := x.qwaitSince.map fun _ => clk }

/-- The swap threshold of a berth in µs (R351). -/
def State.swapTh (s : State) (b : BitVec 4) : Nat :=
  bits (s.sysreg (dev (0x200 + b.toNat)) 0x0000001400000000) 47 32

/-- Since when the team's barrier instances wait: its own, and its quad's in the lowest-indexed member. -/
def Team.waiting (x : Team) : List Nat := x.waitSince.toList ++ x.qwaitSince.toList

/-- The team's wait has lasted for the threshold, or since the last test for 20 µs: the swap-out starts
when R364 allows it, and is tested again later when not. -/
def swapTest (t : Nat) (blocked : Bool) (s : State) : State :=
  match s.teamOf t with
  | none => s
  | some x => match s.gridOf x.grid with
    | some g =>
      let th := s.swapTh g.berth
      let limit := if blocked then 14000 else 700 * th
      let late := fun (w : Option Nat) => w.any fun w => w + limit < s.clk
      if x.placed.isNone || x.swapWanted || th = 0 || x.blocked != blocked || !(late x.waitSince || late x.qwaitSince) then s
      else if (late x.waitSince && s.swapAllowed x false) || (late x.qwaitSince && s.swapAllowed x true) then s.modTeam t fun x => { x with swapWanted := true, blocked := false }
      else s.modTeam t fun x => x.retest s.clk
    | none => s

def execSwapThresholdExpiry (t : Nat) (s : State) : Host.Outcome State Fault Refusal :=
  .next (swapTest t false s)
def execSwapRetest (t : Nat) (s : State) : Host.Outcome State Fault Refusal :=
  .next (swapTest t true s)

/-- The sequencer of a quad has an access on its way. -/
def State.streamBusy (s : State) (lead : Nat) : Bool := s.clusters.any fun c => c.2.mx.quad == some lead
  && (s.agent (64 + c.1)).any fun a => a.atom.isSome || a.looks.any Look.loading || s.pend.any (·.agent == a.id)

def execSwapOut (t : Nat) (s : State) : Host.Outcome State Fault Refusal :=
  match s.teamOf t with
  | none => .next s
  | some x =>
    if !x.swapWanted || x.placed.isNone then .next s
    else if !(x.waitSince.isSome && s.swapAllowed x false) && !(x.qwaitSince.isSome && s.swapAllowed x true) then
      .next (s.modTeam t fun x => x.retest s.clk)
    else if s.streamBusy (s.lead x).id || (s.unitTeams x).any fun y => s.padBusy y.id || y.gangs.any fun g => match s.agent g with
        | some a => a.atom.isSome
        | none => false then .next s
    else
      let us := s.unitTeams x
      .next (us.foldl (fun s y => s.swapWake y.id) (s.evict t))

/-! ### Retirement (R43, R32) -/

/-- The team signals its successor in the next stage once (R32); the last stage has none (R361). -/
def State.signal (s : State) (t : Nat) : State :=
  match s.teamOf t with
  | none => s
  | some x =>
    if x.signalled || (s.gridOf x.grid).any (fun g => x.stage.toNat + 1 == g.stages) then s
    else
      let s := (s.modTeam t fun x => { x with signalled := true }).saveHead t
      match s.teams.find? fun y => y.grid == x.grid && y.t == x.t && y.stage.toNat == x.stage.toNat + 1 with
      | none => s
      | some y => match s.records.find? fun r => r.team == y.id && r.kind == 2 && r.live with
        | some r => ((s.modRecord r.id fun r => { r with join := r.join - 1 }).enqueue r.id).storeRecord r.id
        | none => s

/-- A gang taken out of its team, its context and record freed, its lines dropped. -/
def State.removeGang (s : State) (g : Nat) : State :=
  match s.agent g with
  | none => s
  | some a =>
    let s := s.modAgent g fun a => { a with
      run := .off, lines := [], need := [], wbacks := [], looks := [], check := none, atom := none, fresh := false, pfx := [] }
    let s := { s with watches := s.watches.filter (·.agent != g), walks := s.walks.filter (·.agent != g) }
    -- its arrival at its quad's barrier stands in the lowest-indexed member (R183)
    let gone := fun (t : Team) => ({ t with
      gangs := t.gangs.filter (· != g), arrived := t.arrived.filter (· != g), qarrived := t.qarrived.filter (· != g) } : Team)
    let s := { s with teams := changeIf (·.grid == a.grid) gone s.teams }
    let s := match s.gridOf a.grid with
      | some gr => s.modGrid gr.id fun x => { x with
          usedCtx := x.usedCtx.filter fun k => gr.poolBase + BitVec.ofNat 64 (k * ctxStride gr.nslots.toNat) != a.cb }
      | none => s
    match s.recordOf a.record with
    | some r =>
      let s := s.modRecord r.id fun r => { r with live := false, queued := false }
      if r.index = noIndex then s
      else s.modGrid a.grid fun x => { x with spawnGens := put r.index (r.gen + 1) x.spawnGens }
    | none => s

/-- A gang whose lanes have all left retires when its stores are registered and its results for queues pushed. -/
def execGangRetire (g : Nat) (s : State) : Host.Outcome State Fault Refusal :=
  match s.agent g with
  | none => .next s
  | some a =>
    if a.run != .leaving || !s.released g || a.looks.any Look.pushing then .next s
    else
      let s := s.removeGang g
      let s := s.readyAll fun _ w => w == .joinOf g
      let s := s.barComplete a.team false
      .next ((s.barComplete a.team true).swapWake a.team)

/-- A drain into memory. -/
def MxOp.toMemory (o : MxOp) : Bool := match o.kind with | .drain _ none _ _ _ => true | _ => false

/-- Retirement of a quad stops its sequencer: drains into memory go on, every other operation is
dropped, and the engine is free (R321). -/
def State.stopQuad (s : State) (lead : Nat) : State :=
  match s.clusters.find? fun c => c.2.mx.quad == some lead with
  | none => s
  | some (c, _) =>
    let s := s.modAgent (64 + c) fun a => { a with run := .off }
    let s := s.stopMatrix c MxOp.toMemory
    s.modCluster c fun cl => { cl with mx := { cl.mx with quad := none } }

def execTeamRetire (t : Nat) (s : State) : Host.Outcome State Fault Refusal :=
  match s.teamOf t with
  | none => .next s
  | some x =>
    if x.ended || x.placed.isNone || s.countedGangs x ≠ [] || s.padBusy t then .next s
    else
      -- a gang that no slot has taken yet does not count, and goes with its team (R357, log 98)
      let s := x.gangs.foldl State.removeGang s
      let s := s.modTeam t fun x => { x with ended := true, placed := none, scratch := Mem.empty, waitSince := none, qwaitSince := none }
      let s := match s.teamRecord t with
        | some r => s.modRecord r.id fun r => { r with live := false, queued := false }
        | none => s
      -- a sequencer that waits at a port of the member takes its unit again (R187)
      let s := (s.signal t).readyAll fun _ w => match w with | .queue x _ _ => x == t | _ => false
      -- the grid ends with the last team of its last stage
      let s := s.modGrid x.grid fun g => { g with left := if x.stage.toNat + 1 = g.stages then g.left - 1 else g.left }
      .next (if (s.unitTeams x).all (·.ended) then s.stopQuad (s.lead x).id else s)

/-! ### Timed waits (R178, R184, R186) -/

/-- A BARTO whose time has passed withdraws its arrival. -/
def execBartoTimeout (g : Nat) (s : State) : Host.Outcome State Fault Refusal :=
  match s.agent g with
  | none => .next s
  | some a => match a.waits with
    | some (.barto _ until_ _) =>
      if s.time < until_ then .next s
      else .next (((s.modTeam a.team fun t => { t with arrived := t.arrived.filter (· != g) }).saveHead a.team).ready g)
    | _ => .next s

def execWfeTimeout (g : Nat) (s : State) : Host.Outcome State Fault Refusal :=
  match s.agent g with
  | none => .next s
  | some a => match a.run with
    | .parked .event since =>
      if a.prof == .firmware || s.clk < since + 7000 then .next s else .next (s.ready g)
    | _ => .next s

/-- A gang may park in this wait after 2 µs at issue. -/
def Wait.parks : Wait → Bool
  | .queue _ _ _ | .joinOf _ | .batch _ | .handle _ _ | .lathOpen _ | .lathDone _ => true
  | _ => false

/-- A gang held at issue for 2 µs parks with its wait as the wake condition. -/
def execWaitParkTimeout (g : Nat) (s : State) : Host.Outcome State Fault Refusal :=
  match s.agent g with
  | none => .next s
  | some a => match a.run with
    | .holding w since =>
      if a.prof != .full || !w.parks || s.clk < since + 1400 then .next s else .next (s.park g w)
    | _ => .next s

end Sys2Proof.Machine
end

