-- ==== Sys2Proof/Machine/Lath.lean ====
section
/-!
DEFINITION. The lath (spec/12_lath.md): channels and instances, barriers, reductions and their
results, domain messages, and aborts.
-/

namespace Sys2Proof.Machine

/-! ### Channels (R286) -/

/-- Entries of a cluster's range-lock table. -/
def lockEntries : Nat := 64

/-- The owner under which a channel's result ranges are locked. -/
def lathOwner (ch : Nat) : Nat := 2 ^ 40 + ch

/-- The number of the channel that a grid's unit names N. -/
def chanOf (s : State) (n : Nat) : Nat := match s.gridOf s.cur.grid with
  | some g => g.lath.getD n 0
  | none => 0

/-- Locks of an owner released in every cluster. -/
def State.unlock (s : State) (owner : Nat) : State :=
  { s with clusters := s.clusters.map fun c => (c.1, { c.2 with locks := c.2.locks.filter (·.owner != owner) }) }

/-! ### Values (R290) -/

/-- Two tuples of value positions combined: sum, smallest, largest, or the xa128 sum. -/
def combine (op : Nat) (x y : List Word) : List Word :=
  match op with
  | 4 => match x, y with
    | a :: b :: _, c :: d :: _ =>
      let r := (xaAdd (b ++ a) (d ++ c)).1
      [r.extractLsb' 0 64, r.extractLsb' 64 64]
    | _, _ => x
  | _ => (x.zip y).map fun p =>
    if op = 1 then p.1 + p.2
    else if op = 2 then (if p.1.toInt ≤ p.2.toInt then p.1 else p.2)
    else (if p.1.toInt ≤ p.2.toInt then p.2 else p.1)

/-! ### Instances (R287, R288, R289) -/

/-- An instance of a form with no arrival. -/
def LathInst.empty (f : LathForm) : LathInst := ⟨f, 0, [], [], false, 0, [], [], []⟩

/-- The form of an arrival is that of the instance; the result address of this device counts from its first
arrival on (R288). -/
def LathInst.fits (x : LathInst) (f : LathForm) : Bool :=
  x.form == f || (x.form.addr.isNone && x.form == { f with addr := none })

/-- The instance has taken its P arrivals. -/
def LathInst.full (x : LathInst) : Bool := x.form.p.toNat ≤ x.arrived

/-- One arrival counted. -/
def LathInst.add (x : LathInst) (h : LathHeld) : LathInst :=
  { x with
    form := h.form, arrived := x.arrived + 1, agents := x.agents ++ [h.agent], units := h.units
    vals := if x.vals = [] then h.vals else combine h.form.op.toNat x.vals h.vals
    teams := match h.team with
      | some t => if x.teams.contains t then x.teams else x.teams ++ [t]
      | none => x.teams }

/-- An arrival counted in the open instance, or in a fresh one. -/
def Channel.count (c : Channel) (h : LathHeld) : Channel := { c with inst := some ((c.inst.getD (LathInst.empty h.form)).add h) }

/-- The lock of a result range registered in its cluster, once for the channel (R133, R292). -/
def State.addLock (s : State) (c : Nat) (l : RangeLock) : State :=
  s.modCluster c fun k => if k.locks.contains l then k else { k with locks := k.locks ++ [l] }

/-- The lock has its place in the cluster's table. -/
def State.lockFits (s : State) (c : Nat) (l : RangeLock) : Bool :=
  (s.cluster c).locks.contains l || (s.cluster c).locks.length < lockEntries

/-- An arrival that waited is counted if the instance takes it, and its gang is kept for its unit's sake. -/
def State.countHeld (s : State) (ch : Nat) (h : LathHeld) : State :=
  if ((s.channel ch).inst.all fun x => !x.full && x.fits h.form) && h.lock.all fun l => s.lockFits l.1 l.2 then
    let s := s.modChannel ch fun c => { c.count h with counted := c.counted ++ [(h.agent, c.gen)] }
    match h.lock with
    | some l => s.addLock l.1 l.2
    | none => s
  else s

/-- The channel's next instance opens: the arrivals that hold or are parked for it count at once, in the order in
which they came, and their gangs go on (R289). -/
def State.openChannel (s : State) (ch : Nat) : State :=
  let waits := fun (h : LathHeld) => (s.agent h.agent).any fun a => a.waits == some (.lathOpen ch)
  (((s.channel ch).held.filter waits).foldl (fun s h => s.countHeld ch h)
    (s.modChannel ch fun c => { c with inst := none, held := [] })).readyAll fun _ w => w == .lathOpen ch

/-- What an abort leaves in the channel (R298): of a reduction, the gangs whose ARWAIT is still to come; of a
barrier, the participants that have not run on from their arrival or not arrived yet. -/
def Channel.break (c : Channel) (x : LathInst) (did : BitVec 6) : Channel :=
  if x.form.red then { c with aborted := c.aborted ++ x.agents.map (·, did) }
  else
    let told := x.agents.filter fun g => !c.counted.any (·.1 == g)
    { c with
      counted := c.counted.filter fun y => !x.agents.contains y.1
      broken := some ⟨x.form, told, x.form.p.toNat - x.arrived + (x.agents.length - told.length), did⟩ }

/-- The instance of a channel aborts (R298): gangs that wait in a barrier trap with 0x84 when they run
again, and those of a reduction at their ARWAIT; nothing is written and its locks are released. -/
def State.abortChannel (s : State) (ch : Nat) (did : BitVec 6) : State :=
  match (s.channel ch).inst with
  | none => s
  | some x =>
    let waiting := if x.form.red then [] else x.agents.filter fun g => !(s.channel ch).counted.any (·.1 == g)
    let s := (s.unlock (lathOwner ch)).modChannel ch (·.break x did)
    let s := waiting.foldl (fun s g => s.modAgent g fun a => { a with dues := some (0x84, did.setWidth 64) }) s
    (s.openChannel ch).readyAll fun _ w => w == .lathDone ch

/-- A channel as its next grid finds it: no instance open, no arrival standing (R286). -/
def Channel.clear (c : Channel) : Channel := { c with inst := none, held := [], counted := [], aborted := [], broken := none }

/-! ### Arrival (R287, R288, R289, R292) -/

/-- A later arrival at a barrier that was aborted (R298): of its form, by a gang that has not heard of it, as long as
arrivals are left (log 88). -/
def LathBroken.hits (b : LathBroken) (f : LathForm) (g : Nat) : Bool := b.form == f && b.left != 0 && !b.told.contains g

/-- The gang has heard of an aborted barrier. -/
def LathBroken.tell (b : LathBroken) (g : Nat) : LathBroken := { b with told := b.told ++ [g], left := b.left - 1 }

/-- An arrival of the gang at a channel with a form, values, and the place of its result; word is the
control word. An arrival that waited and was counted is not made again. -/
def lathArrive (ch : Nat) (f : LathForm) (vals : List Word) (units : List (Nat × BitVec 9 × BitVec 12))
    (team : Option Nat) (lock : Option (Nat × RangeLock)) (word : Word) : Act Unit := do
  let s ← get
  let g := s.cur
  let c := s.channel ch
  let h : LathHeld := ⟨g.id, f, vals, units, team, lock⟩
  if c.counted.any (·.1 == g.id) then
    modify fun s => s.modChannel ch fun c => { c with counted := c.counted.filter (·.1 != g.id) }
  else
    match c.broken with
    | some b =>
      if b.hits f g.id then
        stop (.trapWith 0x84 (b.did.setWidth 64) fun s => s.modChannel ch fun c => { c with broken := c.broken.map (·.tell g.id) })
    | none => pure ()
    match c.inst with
    | some x => if !x.full && !x.fits f then trap 0x81 word
    | none => pure ()
    release
    if c.inst.any LathInst.full then
      hold (.lathOpen ch) fun s => s.modChannel ch fun c => { c with held := c.held.filter (·.agent != g.id) ++ [h] }
    modify fun s => s.modChannel ch (·.count h)

/-- The control word's checks (R291): reserved bits, count, domain. -/
def controlCheck (ch : Nat) (w : Word) (red dx : Bool) : Act Unit := do
  let u ← get
  if bits w 62 24 != 0 || (!red && w.getLsbD 63) then trap 0x02 0
  if bits w 23 0 = 0 then trapFree 0x82
  if dx && !(u.channel ch).dx then trapFree 0x83

/-- BARB and BARX (R294). -/
def barrierForm (dx : Bool) (u : U) : Act Unit := do
  let s ← get
  let ch := chanOf s (u.d % 4)
  let w := lane u.vb 0
  if bits w 63 24 != 0 then trap 0x02 (u.w.setWidth 64)
  controlCheck ch w false dx
  let c := s.channel ch
  lathArrive ch ⟨false, 0, 0, dx, w.extractLsb' 0 24, false, none⟩ [] [] none none w
  -- an arrival that waited may have completed its instance since it was counted
  if c.counted.any (fun y => y.1 == s.cur.id && y.2 != c.gen) then acquireNow else parkAfter (.lathDone ch)

def execBarb (n : BitVec 2) (b : Reg) (s : State) : Host.Outcome State Fault Refusal :=
  unit (wordT 76 (0#5 ++ n) 0 b 0) (barrierForm false) s
def execBarx (n : BitVec 2) (b : Reg) (s : State) : Host.Outcome State Fault Refusal :=
  unit (wordT 76 (0#5 ++ n) 0 b 6) (barrierForm true) s

/-- The checks of R258 on the store of n units of a result, with its address in TVAL (R259). -/
def checkResult (va : Word) (n : Nat) : Act (List Target) := do
  let s ← get
  let tv := memTval s.cur va 0
  match checkUnit s s.cur ((List.range n).map fun i => (0, va + BitVec.ofNat 64 (8 * i))) .write 8 false with
  | .ok ts => return ts
  | .miss vs => hold (.walk (vs.headD 0)) fun s => vs.foldl State.askWalk s
  | .trap c _ => trap c tv
  | .system c w => stop (.pilot c (if c = 0x29 then w else tv))

/-- A unit of a result lies in the global or the team-scratchpad aperture (R292). -/
def resultPlace (s : State) (a : Agent) (va : Word) : Bool := match placeOf s a va with
  | .glob x => x + 8 ≤ 0xFE000000000000
  | .pad t _ off => t == a.team && va.toNat < 0xFF400000000000 && (s.gridOf a.grid).any fun g => off + 8 ≤ g.scratch
  | _ => false

/-- The result range of a reduction with W set: checked as a store (R258), and locked as a destination
in the gang's cluster (R292, R133). A range that its own channel has locked already is no breach. It answers the
units in global memory, the team of a scratchpad, and the lock. -/
def resultRange (ch : Nat) (va : Word) (n : Nat) : Act (List (Nat × BitVec 9 × BitVec 12) × Option Nat × Option (Nat × RangeLock)) := do
  let s ← get
  let a := s.cur
  if !(List.range n).all fun i => resultPlace s a (va + BitVec.ofNat 64 (8 * i)) then trap 0x20 (memTval a va 0)
  if va.toNat % 8 != 0 then trap 0x85 (memTval a va 0)
  let c := clusterOf a.core.toNat
  let own := (s.cluster c).locks.filter (·.owner == lathOwner ch)
  set (s.modCluster c fun k => { k with locks := k.locks.filter (·.owner != lathOwner ch) })
  let ts ← checkResult va n
  let (b, x) := s.treeOf a
  let space := match placeOf s a va with
    | .pad _ core _ => LockSpace.scratch core
    | _ => LockSpace.global b x
  let lo := match placeOf s a va with | .pad _ _ off => off | _ => va.toNat
  let new : RangeLock := ⟨true, space, lo, lo + 8 * n - 1, lathOwner ch⟩
  modify fun s => s.modCluster c fun k => { k with locks := k.locks ++ own }
  let s ← get
  if !s.lockFits c new then hold .accept
  set (s.addLock c new)
  match space with
  | .scratch _ => return ([], some a.team, some (c, new))
  | _ => return (ts.map fun t => (t.pa, t.key, t.t), none, some (c, new))

/-- A reduction's arrival (R290 to R292). -/
def aredForm (op k : Nat) (u : U) : Act Unit := do
  let dx := u.d.testBit 4
  let rs := (List.range (k - 1)).map fun i => LookDest.scalar (u.a - 96 + 1 + i)
  needRegs rs
  let s ← get
  let a := s.cur
  let ch := chanOf s (u.d % 4)
  if (List.range k).any fun i => a.spois.getLsbD (u.a - 96 + i) then trap 0x28 1
  let w := lane u.vb 0
  let wr := w.getLsbD 63
  if wr && u.b = 119 then trap 0x0B (u.w.setWidth 64)
  if wr then
    needRegs [.scalar (u.b - 95)]
    if a.spois.getLsbD (u.b - 95) then trap 0x28 1
  if bits w 62 24 != 0 then trap 0x02 (u.w.setWidth 64)
  controlCheck ch w true dx
  let vals := (List.range k).map fun i => a.scalar (u.a - 96 + i)
  let va := a.scalar (u.b - 95)
  -- an arrival that waited and was counted has its lock
  let counted := (s.channel ch).counted.any (·.1 == a.id)
  let place ← (if wr && !counted then resultRange ch va k else pure ([], none, none) :
    Act (List (Nat × BitVec 9 × BitVec 12) × Option Nat × Option (Nat × RangeLock)))
  lathArrive ch ⟨true, BitVec.ofNat 4 op, k, dx, w.extractLsb' 0 24, wr, if wr then some va else none⟩
    vals place.1 place.2.1 place.2.2 w

def execAredI64 (x : BitVec 1) (k n : BitVec 2) (a b : Reg) (s : State) : Host.Outcome State Fault Refusal :=
  unit (wordT 76 (0#2 ++ x ++ k ++ n) a b 1) (fun u => aredForm 1 (u.d / 4 % 4 + 1) u) s
def execAredMin (x : BitVec 1) (k n : BitVec 2) (a b : Reg) (s : State) : Host.Outcome State Fault Refusal :=
  unit (wordT 76 (0#2 ++ x ++ k ++ n) a b 2) (fun u => aredForm 2 (u.d / 4 % 4 + 1) u) s
def execAredMax (x : BitVec 1) (k n : BitVec 2) (a b : Reg) (s : State) : Host.Outcome State Fault Refusal :=
  unit (wordT 76 (0#2 ++ x ++ k ++ n) a b 3) (fun u => aredForm 3 (u.d / 4 % 4 + 1) u) s
def execAredXa (x : BitVec 1) (n : BitVec 2) (a b : Reg) (s : State) : Host.Outcome State Fault Refusal :=
  unit (wordT 76 (0#2 ++ x ++ 0#2 ++ n) a b 4) (fun u => aredForm 4 2 u) s

/-! ### ARWAIT (R293) -/

def execArwait (d : Reg) (n : BitVec 2) (s : State) : Host.Outcome State Fault Refusal :=
  unit (wordT 76 d (0#5 ++ n) 0 5) (fun u => do
    let s ← get
    let g := s.cur
    let ch := chanOf s u.a
    let c := s.channel ch
    match c.aborted.find? (·.1 == g.id) with
    | some x => stop (.trapWith 0x84 (x.2.setWidth 64) fun s => s.modChannel ch fun c => { c with aborted := c.aborted.erase x })
    | none => pure ()
    match c.inst with
    | none => hold (.lathDone ch)
    | some x =>
      if !x.form.red then trap 0x81 (BitVec.ofNat 64 u.a)
      if !x.complete then hold (.lathDone ch)
      if 24 < u.d - 96 + x.form.k then trap 0x0B (u.w.setWidth 64)
      needRegs ((List.range x.form.k).map fun i => .scalar (u.d - 96 + i))
      modify fun s =>
        let s := (List.range x.form.k).foldl (fun s i =>
          { s with cur := s.cur.setScalar (u.d - 96 + i) (x.vals.getD i 0) false }) s
        let x := { x with taken := x.taken + 1, agents := x.agents.erase g.id }
        let s := if x.form.p.toNat ≤ x.taken then s.openChannel ch
          else s.modChannel ch fun c => { c with inst := some x }
        s.acquire g.id) s

/-! ### Completion (R289, R294, R296) -/

/-- The grid that holds a channel. -/
def State.lathGrid (s : State) (ch : Nat) : Option Grid := s.grids.find? fun g => g.lath.contains ch && !g.killed && !g.flushed

/-- One unit of a result written at its home, under the berth the grid is in now. A peer behind a port that is
down is not reached, which the grid's signal tells (R44). -/
def State.putResult (s : State) (ch : Nat) (pa : Nat × BitVec 9 × BitVec 12) (va v : Word) : State :=
  if s.cutOff pa.1 then
    match s.lathGrid ch with
    | some g => s.modGrid g.id fun g => { g with lostAddr := if g.lostAddr.isNone then some va else g.lostAddr }
    | none => s
  else
    let b := match s.lathGrid ch with | some g => g.berth | none => BitVec.ofNat 4 (ch / 4)
    s.homePut ⟨b, pa.2.1, pa.2.2, 1⟩ pa.1 0xFF v false none

/-- The result of a complete instance written at its result address on this device, once in global
memory or once in each team's scratchpad. -/
def State.writeResult (s : State) (ch : Nat) (x : LathInst) : State :=
  if !x.form.w then s
  else
    let va := x.form.addr.getD 0
    let s := (x.units.zip x.vals).foldl (fun s p => s.putResult ch p.1 va p.2) s
    let off := va.toNat % 2 ^ 48
    x.teams.foldl (fun s t =>
      let s := (s.modTeam t fun y => { y with
        scratch := (List.range x.vals.length).foldl (fun (m : Mem) i => m.store (off + 8 * i) 0xFF (x.vals.getD i 0) false) y.scratch }).padEvent
        t off (8 * x.vals.length)
      match s.teamOf t with
      | some y => if y.swapped then s.saveFrame t true else s
      | none => s) s

/-- An instance that has its P arrivals completes. -/
def execLathInstanceComplete (n : BitVec 6) (s : State) : Host.Outcome State Fault Refusal :=
  let ch := n.toNat
  match (s.channel ch).inst with
  | none => .next s
  | some x =>
    if x.complete || !x.full || x.units.any (fun p => s.refuses p.1) then .next s
    else
      let x := { x with complete := true, away := [], vals := x.away.foldl (combine x.form.op.toNat) x.vals }
      let s := (s.writeResult ch x).unlock (lathOwner ch)
      let s := s.modChannel ch fun c => { c with inst := some x, gen := c.gen + 1 }
      let s := if x.form.red then s else s.openChannel ch
      let s := s.readyAll fun _ w => w == .lathDone ch
      .next (x.agents.foldl (fun s g => match s.agent g with
        | some a => if a.waits == some .event then s.ready g else s
        | none => s) s)

/-- A message over the domain tree (R289, R298): arrivals or taken counts of other devices, the opening
of the successor, or an abort. -/
def execDomainTreeMessage (n : BitVec 6) (m : DomainMsg) (s : State) : Host.Outcome State Fault Refusal :=
  let ch := n.toNat
  let c := s.channel ch
  if !c.dx then .next s
  else match m with
    | .arrive k f vals =>
      let form : LathForm := ⟨f.red, f.op, f.k, true, f.p, f.w, none⟩
      let x := c.inst.getD (LathInst.empty form)
      -- an arrival of another form, or of a later instance, is no arrival of this one
      if { x.form with addr := none } != form || f.p.toNat < x.arrived + k then .next s
      else .next (s.modChannel ch fun c => { c with
        inst := some { x with arrived := x.arrived + k, away := if vals = [] then x.away else x.away ++ [vals] } })
    | .taken k =>
      match c.inst with
      | some x =>
        let x := { x with taken := x.taken + k }
        .next (if x.form.p.toNat ≤ x.taken then s.openChannel ch
          else s.modChannel ch fun c => { c with inst := some x })
      | none => .next s
    | .openNext => .next (s.openChannel ch)
    | .abort did => .next (s.abortChannel ch did)

/-- A UALink port goes down (R262, R298): stores for peers that have not been registered fail where the port leads to
the peer, an ASTORE ends where its next bytes would go there (R315, CopyOp.cut), and the domain instances of this device abort with its
own DID. -/
def execLinkDown (port : BitVec 3) (s : State) : Host.Outcome State Fault Refusal :=
  let s := { s with deadPorts := s.deadPorts ||| BitVec.ofNat 8 (2 ^ port.toNat) }
  let hit := fun (pa : Nat) => isPeer pa && peerPortOf pa == port.toNat
  -- DISCARD and WBACK leave the lines of other devices as they are (R251)
  let failed := s.pend.filter fun p => hit p.pa && match p.op with
    | .store | .zero _ => true
    | .discard _ | .wback _ => false
  let s : State := failed.foldl (fun s p => s.losePeer p) { s with pend := s.pend.filter fun p => !hit p.pa }
  .next ((s.channels.filter fun c => c.dx && match c.inst with
    | some x => x.form.dx
    | none => false).foldl (fun s c => s.abortChannel c.ch c.did) s)

end Sys2Proof.Machine
end

