-- ==== Sys2Proof/Machine/Cont.lean ====
section
/-!
DEFINITION. The continuation instructions (R355 to R361) and the distributor (R362, R363).
-/

namespace Sys2Proof.Machine

/-! ### Records and references (R46, R356) -/

/-- INDEX of the first entry after the spawn area and the team records. The manual gives no order of a
grid's array: the spawn area stands first, then the team records by stage and team (log 41). -/
def Grid.arrayEnd (g : Grid) : Nat := g.spawnSize + g.stages * perStage g.dims

/-- A live record of a grid at an index. -/
def State.recordAt (s : State) (grid idx : Nat) : Option Record :=
  s.records.find? fun r => r.grid == grid && r.index == idx && r.live

/-- The lowest-numbered free spawn entry. -/
def State.freeEntry (s : State) (g : Grid) : Option Nat :=
  (List.range g.spawnSize).find? fun k => (s.recordAt g.id k).isNone

/-- Generation of an entry. -/
def Grid.genOf (g : Grid) (idx : Nat) : BitVec 16 := findD idx 0 g.spawnGens

/-- The index form of a reference (R356). -/
def refOf (gen : BitVec 16) (idx : Nat) : Word := BitVec.ofNat 64 (gen.toNat * 2 ^ 32 + idx)

/-- What a reference names. -/
inductive RefTarget where
  | stale
  | entry (r : Record)
  | gang (a : Agent)

/-- The target of a reference (R356). -/
def State.resolve (s : State) (grid : Nat) (x : Word) : RefTarget :=
  if x.getLsbD 63 then
    if bits x 62 56 != 0 || bits x 15 0 != 0 then .stale
    else match s.all.find? fun a => a.prof == .full && a.grid == grid && a.run != .off && bits a.cb 55 16 == bits x 55 16 with
      | some a => .gang a
      | none => .stale
  else if bits x 62 48 != 0 then .stale
  else match s.recordAt grid (bits x 31 0) with
    | some r => if r.gen.toNat == bits x 47 32 then .entry r else .stale
    | none => .stale

/-- The gang is parked on joins. -/
def Agent.onJoins (a : Agent) : Bool := match a.run with
  | .parked .joins _ => true
  | _ => false

/-- A record put into an entry of the spawn area, waiting there. -/
def State.makeEntry (s : State) (a : Agent) (idx : Nat) (kind lvl : BitVec 8) (join : BitVec 32) (code wake : Word)
    (tile : BitVec 32) (gen : BitVec 16) : State :=
  ({ s with
    records := s.records ++ [{
      id := s.nextRecord, kind := kind, lvl := lvl, join := join, stg := a.stage, frame := a.cb, code := code, wake := wake
      berth := a.berth, grid := a.grid, team := a.team, agent := a.id, queued := false, seq := 0, since := s.clk, due := none
      index := idx, gen := gen, joins := join, tile := tile, live := true, cause := 0, sub := 0 }]
    nextRecord := s.nextRecord + 1 } : State).storeRecord s.nextRecord

/-! ### SPAWN (R46, R357) -/

/-- R46's checks of an image: code, and JOIN, LVL, KIND and STG packed in the third word. -/
def imageBad (g : Grid) (code frame w : Word) : Bool :=
  let kind := bits w 47 40
  let lvl := bits w 39 32
  3 < kind || 15 < lvl || g.ceil.toNat < lvl || g.stages ≤ bits w 63 48
    || code.extractLsb' 0 2 != 0 || code.extractLsb' 56 8 != 0 || frame.extractLsb' 0 16 != 0 || w.getLsbD 31

def execSpawn (d a : Reg) (s : State) : Host.Outcome State Fault Refusal :=
  unit (wordT 10 d a 0 0) (fun u => do
    let n := u.a - 96
    needRegs [.scalar n, .scalar (n + 1), .scalar (n + 2), .scalar (n + 3)]
    let s ← get
    let ag := s.cur
    if (List.range 4).any fun i => ag.spois.getLsbD (n + i) then trap 0x28 1
    match s.gridOf ag.grid, s.teamOf ag.team with
    | some g, some t =>
      let code := ag.scalar n
      let frame := ag.scalar (n + 1)
      let w := ag.scalar (n + 2)
      let wake := ag.scalar (n + 3)
      let kind := bits w 47 40
      let lvl : BitVec 8 := w.extractLsb' 32 8
      let join : BitVec 32 := w.extractLsb' 0 32
      if imageBad g code frame w then trapFree 0x88
      if kind = 1 || kind = 2 || frame != 0 || bits w 63 48 != ag.stage.toNat then trapFree 0x89
      match s.freeEntry g with
      | none => trapFree 0x8A
      | some idx =>
        if kind = 0 && (g.freeCtx = [] || 32 ≤ t.count.toNat) then trapFree 0x8A
        release
        let gen := g.genOf idx
        let s ← get
        if kind = 3 then set (s.makeEntry ag idx 3 lvl join code wake 0 gen)
        else
          let r := s.nextRecord
          let x := s.nextAgent
          let s := s.newGang g t ag.core t.count.toNat (g.freeCtx.headD 0) code wake lvl fun r =>
            { r with join := join, index := idx, gen := gen, joins := join, wake := wake }
          let s := (s.storeRecord r).saveHead t.id
          let s := s.modAgent x fun a => { a with counted := false }
          set (if join = 0 then s.enqueue r else s.modAgent x fun a => { a with run := .parked .joins s.clk })
        writeScalar (u.d - 96) (refOf gen idx)
    | _, _ => pure ()) s

/-! ### JOIN (R358) -/

/-- A join counter lowered by one; at zero a gang becomes ready, and a join point is entered. -/
def joinRecord (u : U) (ref : Word) (r : Record) : Act (Option Word) := do
  if r.join = 0 then trapFree 0x8B
  release
  if r.kind = 3 && r.join = 1 then needRegs [.scalar 20, .scalar 21, .scalar 22, .scalar 23]
  modify fun s => (s.modRecord r.id fun r => { r with join := r.join - 1 }).storeRecord r.id
  if r.join != 1 then
    writeScalar (u.d - 96) 0
    return none
  else
    writeScalar (u.d - 96) 1
    if r.kind = 3 then
      writeScalar 20 r.wake
      writeScalar 21 ref
      writeScalar 22 (BitVec.ofNat 64 (r.joins.toNat + r.tile.toNat * 2 ^ 32))
      writeScalar 23 u.next
      modify fun s =>
        let s := s.modRecord r.id fun r => { r with live := false }
        let s := s.modGrid r.grid fun g => { g with spawnGens := put r.index (r.gen + 1) g.spawnGens }
        let s := { s with cur := { s.cur with pri := 16, joined := some (s.cur.joined.getD s.cur.pri) } }
        s.acquire s.cur.id
      return some r.code
    else
      modify fun s => s.ready r.agent
      return none

def execJoin (d a : Reg) (s : State) : Host.Outcome State Fault Refusal :=
  unitJump (wordT 10 d a 0 1) (fun u => do
    let s ← get
    let ref := lane u.va 0
    match s.resolve s.cur.grid ref with
    | .stale => trapFree 0x8C
    | .entry r =>
      let waiting := r.kind == 0 && match s.agent r.agent with | some a => a.onJoins | none => false
      if r.kind != 3 && !waiting then trapFree 0x8C
      joinRecord u ref r
    | .gang a =>
      if !a.onJoins then hold (.joinOf a.id)
      match s.recordOf a.record with
      | some r => joinRecord u ref r
      | none => trapFree 0x8C) s

/-! ### PARK, WAKE, STAGED (R359, R360, R361) -/

def execParkJoin (a : Reg) (s : State) : Host.Outcome State Fault Refusal :=
  unit (wordT 10 0 a 0 2) (fun u => do
    let n := lane u.va 0
    if 2 ^ 31 ≤ n.toNat then trapFree 0x88
    if n != 0 then
      modify fun s =>
        let g := s.cur.id
        let s := s.park g .joins
        ((s.modRecord s.cur.record fun r => { r with join := n.setWidth 32 }).storeRecord s.cur.record).readyAll fun _ w => w == .joinOf g) s

/-- The word that PARK.addr or WAKE names, translated, or 0x8D. -/
def watchedWord (va : Word) : Act Target := do
  let s ← get
  let glob := match placeOf s s.cur va with | .glob _ => true | _ => false
  if va.toNat % 4 != 0 || !glob then trap 0x8D va
  let ts ← checkAccesses [(0, va)] .read 4 false
  match ts with
  | t :: _ =>
    if !isHbm t.pa then trap 0x8D va
    return t
  | [] => trap 0x8D va

def execParkAddr (a b : Reg) (s : State) : Host.Outcome State Fault Refusal :=
  unit (wordT 10 1 a b 2) (fun u => do
    memOrder
    let va := lane u.va 0
    let t ← watchedWord va
    let s ← get
    let g := s.cur
    -- own stores of the word come first (R124)
    if s.pend.any fun p => p.agent == g.id && p.meets t.pa 4 then hold .release
    if s.refuses t.pa then hold .release
    let ((v, marked, bad), s) := s.homeGet (g.req (s.treeOf g).1 ⟨t.pa, t.key, t.t, true, true, false⟩) t.pa
    let word := v.toNat >>> (8 * (t.pa % 8)) % 2 ^ 32
    if marked || bad || word != bits (lane u.vb 0) 31 0 then set s
    else
      let free := (s.watches.filter fun w => sliceOf (4 * w.pa) == sliceOf t.pa).length < 64
      let s := s.park g.id (.addr t.pa free)
      let s := (s.modRecord g.record fun r => { r with wake := va }).storeRecord g.record
      set (if free then { s with watches := s.watches ++ [⟨t.pa / 4, g.id⟩] } else s)) s

/-- The watch of a gang ends after 100 µs, or after 2 µs without a watch (R359). -/
def execWatchTimeout (g : Nat) (s : State) : Host.Outcome State Fault Refusal :=
  match s.agent g with
  | none => .next s
  | some a => match a.run with
    | .parked (.addr _ w) since =>
      if s.clk < since + (if w then 70000 else 1400) then .next s
      else .next ({ s with watches := s.watches.filter (·.agent != g) }.ready g)
    | _ => .next s

def execWake (a : Reg) (s : State) : Host.Outcome State Fault Refusal :=
  unit (wordT 10 0 a 0 3) (fun u => do
    let t ← watchedWord (lane u.va 0)
    release
    modify fun s => s.endWatches (t.pa / 4)) s

/-- STAGED: a signal to the successor, of which the last stage has none (R361). -/
def execStaged (s : State) : Host.Outcome State Fault Refusal :=
  unit (wordT 10 0 0 0 4) (fun _ => do
    release
    modify fun s => s.signal s.cur.team) s

/-! ### TAKEW (R362, R363) -/

/-- Iterations per team of a persistent grid (R362). -/
def Grid.chunk (g : Grid) : Nat :=
  let n := perStage g.dims
  (g.tiles * g.kper + n - 1) / n

/-- The lowest free index of a fix-up record. The manual gives it no place in the array: it stands
at the end (log 41). -/
def State.freeFixup (s : State) (g : Grid) : Nat :=
  let base := g.arrayEnd
  base + ((List.range (s.records.length + 1)).find? fun k => (s.recordAt g.id (base + k)).isNone).getD 0

/-- Slots of partials that a tile has (R363). -/
def Grid.cmax (g : Grid) : Nat := (g.kper + g.chunk - 1) / g.chunk + 1

def execTakew (d : Reg) (s : State) : Host.Outcome State Fault Refusal :=
  unit (wordT 11 d 0 0 0) (fun u => do
    let n := u.d - 96
    needRegs [.scalar n, .scalar (n + 1), .scalar (n + 2), .scalar (n + 3)]
    let s ← get
    let a := s.cur
    match s.gridOf a.grid, s.teamOf a.team with
    | some g, some t =>
      if !g.persist then trapFree 0x8E
      let c := g.chunk
      let first := min (t.t.toNat * c) (g.tiles * g.kper)
      let last := min (first + c) (g.tiles * g.kper)
      let cur := t.cursor.getD first
      if last ≤ cur then
        writeScalar n (BitVec.allOnes 64)
        writeScalar (n + 1) 0
        writeScalar (n + 2) 0
        writeScalar (n + 3) 0
      else
        let tau := cur / g.kper
        let kb := cur - tau * g.kper
        let ke := min g.kper (last - tau * g.kper)
        let tf := tau * g.kper / c
        let tl := (tau * g.kper + g.kper - 1) / c
        let slot := fun (i : Nat) => BitVec.ofNat 64 (g.fbase.toNat + (tau * g.cmax + i) * g.fsize)
        let known := s.records.find? fun r => r.grid == g.id && r.kind == 3 && r.live && r.lvl == 16 && r.tile.toNat == tau
          && r.wake == slot 0
        let ref ← (if tf = tl then pure (0, 0) else match known with
          | some r => pure (refOf r.gen r.index, slot (t.t.toNat - tf))
          | none => do
            let idx := s.freeFixup g
            set (s.makeEntry a idx 3 16 (BitVec.ofNat 32 (tl - tf + 1)) g.fixent (slot 0) (BitVec.ofNat 32 tau) (g.genOf idx))
            pure (refOf (g.genOf idx) idx, slot (t.t.toNat - tf)) : Act (Word × Word))
        modify fun s => s.modTeam t.id fun t => { t with cursor := some (tau * g.kper + ke) }
        writeScalar n (BitVec.ofNat 64 tau)
        writeScalar (n + 1) (BitVec.ofNat 64 (kb + ke * 2 ^ 32))
        writeScalar (n + 2) ref.2
        writeScalar (n + 3) ref.1
    | _, _ => trapFree 0x8E) s

end Sys2Proof.Machine
end

