-- ==== Sys2Proof/Machine/Copy.lean ====
section
/-!
DEFINITION. The copy engine (spec/13_copy_engine.md): commands and their checks, acceptance, the
modes, batches, handles and ASTORE, and the steps by which operations start, move data and complete.
-/

namespace Sys2Proof.Machine

/-! ### Ranges of an engine operation (R304, R310, R328, R340) -/

/-- A range of an engine operation: first address, bytes, whether it is written, and the alignment of
its address. -/
structure Span where
  va : Word
  len : Nat
  write : Bool
  align : Nat
  deriving DecidableEq, Repr

/-- A translated page of a range. -/
abbrev PageAt := Nat × Nat × BitVec 9 × BitVec 12

/-- Where a range lies: global memory, the agent's own team's scratchpad at an offset, or nowhere an
engine may go; a scratchpad only where pads is true. -/
def spanPlace (s : State) (a : Agent) (pads : Bool) (r : Span) : Option Place :=
  match placeOf s a r.va with
  | .glob va => if va + r.len ≤ 0xFE000000000000 then some (.glob va) else none
  | .pad t c off =>
    let size := match s.gridOf a.grid with | some g => g.scratch | none => 0
    if pads && t = a.team && r.va.toNat < 0xFF400000000000 && off + r.len ≤ size then some (.pad t c off) else none
  | _ => none

/-- The checks of every range of an engine operation, class by class in the order of R258, and the
translations of their pages. only is a further test of a range's frame address with its cause, made
before stage 2. -/
def checkSpans (rs : List Span) (pads : Span → Bool) (only : Span → Page → Option (BitVec 8)) : Act (List PageAt) := do
  let s ← get
  let a := s.cur
  match rs.find? fun r => (spanPlace s a (pads r) r).isNone with
  | some r => trap 0x20 (memTval a r.va 0)
  | none => pure ()
  match rs.find? fun r => r.va.toNat % r.align != 0 with
  | some r => trap 0x21 (memTval a r.va 0)
  | none => pure ()
  let ps := rs.flatMap fun r => match spanPlace s a (pads r) r with
    | some (.glob va) => (pagesIn va (va + r.len)).map (r, ·)
    | _ => []
  let missing := (ps.map (·.2)).filter fun v => (s.pageOf a v).isNone
  match missing with
  | v :: _ => hold (.walk v) fun s => missing.foldl State.askWalk s
  | [] => pure ()
  let at_ := fun (x : Span × Nat) => BitVec.ofNat 64 (max x.1.va.toNat (x.2 * 2 ^ 16))
  let raise := fun (f : Span × Nat → Option (BitVec 8)) =>
    match ps.findSome? fun x => (f x).map (·, x) with
    | some (c, x) => trap (α := Unit) c (at_ x)
    | none => pure ()
  let page := fun (x : Span × Nat) => match s.pageOf a x.2 with | some (.ok p) => some p | _ => none
  raise fun x => match s.pageOf a x.2 with
    | some (.error (0x22, _)) => some 0x22
    | _ => none
  raise fun x => (page x).bind fun p =>
    if !x.1.write && !p.r then some 0x23 else if x.1.write && !p.w then some 0x24 else none
  raise fun x => (page x).bind fun p =>
    if x.1.write && (s.tensor (s.slotSeg p.key) p.t).shut then some 0xB8 else none
  raise fun x => (page x).bind (only x.1)
  let sys := fun (x : Span × Nat) =>
    let lo := max x.1.va.toNat (x.2 * 2 ^ 16) % 2 ^ 16
    let hi := (min (x.1.va.toNat + x.1.len) (x.2 * 2 ^ 16 + 2 ^ 16) - 1) % 2 ^ 16
    match s.pageOf a x.2 with
    | some (.error (e, w)) => some (e, if e = 0x29 then w else at_ x)
    | some (.ok p) => if s.there (p.pa + lo) && s.there (p.pa + hi) then none else some (0x25, at_ x)
    | none => none
  match ps.findSome? sys with
  | some (e, v) => stop (.pilot e v)
  | none => pure ()
  return ps.filterMap fun x => (page x).map fun p => (x.2, p.pa, p.key, p.t)

/-- The lock of a range (R310). -/
def spanLock (s : State) (a : Agent) (owner : Nat) (r : Span) : RangeLock :=
  match placeOf s a r.va with
  | .pad _ core off => ⟨r.write, .scratch core, off, off + r.len - 1, owner⟩
  | _ => let (b, x) := s.treeOf a; ⟨r.write, .global b x, r.va.toNat, r.va.toNat + r.len - 1, owner⟩

/-- The locks fit beside those that a cluster's table holds. -/
def Cluster.locksFit (c : Cluster) (n : Nat) : Bool := c.locks.length + n ≤ lockEntries

/-! ### The buffer table (R313) -/

/-- The lowest-numbered free entry of a table. -/
def Cluster.freeEntry (c : Cluster) : Option Nat :=
  (List.range 64).find? fun i => !c.table.any fun e => e.idx == i && e.st != .free

/-- An entry as it stands; one never taken is free with generation 0. -/
def Cluster.entry (c : Cluster) (i : Nat) : Entry :=
  (c.table.find? (·.idx == i)).getD ⟨i, 0, .free, 0, .copy, 0, 0, 0, false, 0, none, [], false, 0⟩

/-- An entry replaced. -/
def Cluster.setEntry (c : Cluster) (e : Entry) : Cluster :=
  if c.table.any (·.idx == e.idx) then { c with table := changeFirst (·.idx == e.idx) (fun _ => e) c.table }
  else { c with table := c.table ++ [e] }

/-- A cluster as the handles of a grid name it, and the cluster that they name (R399). -/
def State.namedBy (s : State) (g c : Nat) : Nat :=
  ((s.gridOf g).bind fun g => (g.xmap.find? (·.2 == c)).map (·.1)).getD c
def State.clusterOfName (s : State) (g n : Nat) : Nat :=
  ((s.gridOf g).bind fun g => (g.xmap.find? (·.1 == n)).map (·.2)).getD n

/-- A handle value of an agent (R313). -/
def handleOf (s : State) (a : Agent) (cluster : Nat) (e : Entry) : Word :=
  BitVec.ofNat 64 (s.namedBy a.grid cluster * 2 ^ 24 + e.gen.toNat * 2 ^ 8 + e.idx)

/-- An entry taken: the generation advances and the state is filling. -/
def Cluster.take (c : Cluster) (i op : Nat) (kind : EntryKind) (lo hi grid quad : Nat) (t : Option Tile) : Cluster × Entry :=
  let e : Entry := ⟨i, op, .filling, (c.entry i).gen + 1, kind, lo, hi, 0, false, grid, t, [], false, quad⟩
  (c.setEntry e, e)

/-- An entry freed with its locks and pins (R314, R327). -/
def State.freeEntryOf (s : State) (cluster idx : Nat) : State :=
  (s.modCluster cluster fun c =>
    let e := c.entry idx
    let c := if e.kind == .copy then c else { c with locks := c.locks.filter (·.owner != e.op) }
    c.setEntry e.freed).entryEvent cluster idx

/-- The entry that a handle names, or none when it is stale (R313). A migration translates the CLUSTER that the handles
of its grids name (R399). -/
def handleEntry (s : State) (a : Agent) (h : Word) : Option (Nat × Entry) :=
  let c := s.clusterOfName a.grid (bits h 30 24)
  let e := (s.cluster c).entry (bits h 5 0)
  if bits h 63 31 != 0 || bits h 7 6 != 0 || !s.coreIn a.berth (4 * c) || e.st == .free || e.gen.toNat != bits h 23 8
  then none else some (c, e)

/-! ### Commands (R302, R303) -/

/-- The fields of a command word. -/
structure CpyCmd where
  mode : Nat
  mcast : Nat
  track : Bool
  sat : Bool
  rm : Nat
  wfmt : Nat
  nfmt : Nat
  dir : Bool
  size : Nat
  deriving DecidableEq, Repr

/-- A command word taken apart. -/
def CpyCmd.of (w : Word) : CpyCmd :=
  ⟨bits w 63 60, bits w 59 52, w.getLsbD 51, w.getLsbD 50, bits w 49 48, bits w 47 46, bits w 45 44, w.getLsbD 43, bits w 31 0⟩

/-- The command or extent word breaks its mode's rules (R302, R303, R307). -/
def cmdBad (w ext : Word) : Bool :=
  let c := CpyCmd.of w
  bits w 42 32 != 0 || match c.mode with
    | 0 => c.sat || c.rm != 0 || c.wfmt != 0 || c.nfmt != 0 || c.dir || ext != 0
    | 1 => c.sat || c.rm != 0 || c.wfmt != 0 || c.nfmt != 0 || c.dir
    | 2 => 2 ≤ c.wfmt || 2 ≤ c.nfmt || (c.dir && (c.rm != 0 || c.sat)) || ext != 0
    | 3 => c.sat || c.dir || 2 ≤ c.wfmt || c.nfmt == 3 || bits w 31 11 != 0 || bits ext 63 32 != 0
    | _ => true

/-- Size of a wide element, and of a source and a destination element of CONV. -/
def CpyCmd.wide (c : CpyCmd) : Nat := if c.wfmt = 0 then 2 else 4
def CpyCmd.srcEl (c : CpyCmd) : Nat := if c.dir then 1 else c.wide
def CpyCmd.dstEl (c : CpyCmd) : Nat := if c.dir then c.wide else 1

/-- Element width of a q format by its code, and W of its panel (R94, R96). -/
def qFormat (n : Nat) : Nat := match n with | 0 => 4 | 1 => 8 | _ => 12
def panelW (w : Nat) : Nat := 128 * qWidth w
/-- Bytes of the largest panel of a format (R308). -/
def panelMax (w : Nat) : Nat := 8448 + 128 * panelW w

/-- The size or a stride is out of bounds (R303). -/
def sizeBad (c : CpyCmd) (ext : Word) : Bool :=
  let rows := c.size / 2 ^ 16
  let row := c.size % 2 ^ 16
  c.size == 0 || match c.mode with
    | 0 => 2 ^ 26 < c.size
    | 1 => rows == 0 || row == 0 || 2 ^ 26 < rows * row || (1 < rows && (bits ext 63 32 < row || bits ext 31 0 < row))
    | 2 => 2 ^ 26 < c.size * c.wide
    | _ => 1024 < c.size || bits ext 31 0 < c.size * c.wide

/-- Bytes that an operation's source and destination span. -/
def spanLens (c : CpyCmd) (ext : Word) : Nat × Nat :=
  let rows := c.size / 2 ^ 16
  let row := c.size % 2 ^ 16
  match c.mode with
  | 1 => ((rows - 1) * bits ext 63 32 + row, (rows - 1) * bits ext 31 0 + row)
  | 2 => (c.size * c.srcEl, c.size * c.dstEl)
  | 3 => (127 * bits ext 31 0 + c.size * c.wide, panelMax (qFormat c.nfmt))
  | _ => (c.size, c.size)

/-- Two ranges meet in one aperture. -/
def spansMeet (s : State) (a : Agent) (x y : Span) : Bool :=
  let l := spanLock s a 0 x
  let k := spanLock s a 0 y
  l.space == k.space && l.lo ≤ k.hi && k.lo ≤ l.hi

/-! ### CPY and ASTORE (R301, R304, R305, R315) -/

/-- An operation accepted (R305): its locks registered in the issuing cluster, and its release begun. -/
def acceptCopy (op : CopyOp) (locks : List RangeLock) : Act Unit := modify fun s =>
  let c := clusterOf s.cur.core.toNat
  { s.modCluster c fun k => { k with locks := k.locks ++ locks, copies := k.copies ++ [op] } with
    nextOp := s.nextOp + 1, nextOrd := s.nextOrd + 1 }

def execCpy (d a b : Reg) (s : State) : Host.Outcome State Fault Refusal :=
  unit (wordT 68 d a b 0) (fun u => do
    if u.act = 0 then return
    needRegs [.scalar (u.d - 96), .scalar (u.d - 95)]
    let ag := (← get).cur
    let w := ag.scalar (u.d - 96)
    let ext := ag.scalar (u.d - 95)
    let c := CpyCmd.of w
    if c.track && 117 < u.d then trap 0x0B (u.w.setWidth 64)
    if cmdBad w ext then trapFree 0x61
    if sizeBad c ext then trapFree 0x62
    if c.mcast / 16 != 0 then trapFree 0x63
    if ag.spois.getLsbD (u.d - 96) || ag.spois.getLsbD (u.d - 95) || u.pa != 0 || u.pb != 0 then trap 0x28 1
    let lens := spanLens c ext
    let src : Span := ⟨lane u.va 0, lens.1, false, if c.mode = 2 then c.srcEl else if c.mode = 3 then c.wide else 1⟩
    let dst : Span := ⟨lane u.vb 0, lens.2, true, if c.mode = 2 then c.dstEl else if c.mode = 3 then 256 else 1⟩
    -- a multicast goes to scratchpads alone
    let s ← get
    let a := s.cur
    let padDst := match placeOf s a dst.va with | .pad _ _ _ => true | _ => false
    if c.mcast != 0 && (spanPlace s a true src).isSome && !padDst then trap 0x20 (memTval a dst.va 0)
    let pages ← checkSpans [src, dst] (fun _ => true) fun _ _ => none
    if spansMeet s a src dst then trapFree 0x66
    let s ← get
    let cl := clusterOf a.core.toNat
    let id := s.nextOp
    let own := spanLock s a id dst
    let named := (List.range 4).filter c.mcast.testBit
    let locks := [spanLock s a id src] ++ if c.mcast = 0 then [own]
      else named.map fun i => { own with space := .scratch (BitVec.ofNat 8 (4 * cl + i)) }
    let k := s.cluster cl
    if !k.locksFit locks.length || (c.track && k.freeEntry.isNone) then hold .accept
    if c.track then needRegs [.scalar (u.d - 94)]
    let inPad := fun (r : Span) => match placeOf s a r.va with | .pad _ _ _ => true | _ => false
    let (bt, x) := s.treeOf a
    let op : CopyOp := {
      id := id, agent := a.id, team := a.team, mode := c.mode, cmd := w, ext := ext, src := src.va, dst := dst.va
      core := a.core, berth := bt, ctx := x, started := false, entry := if c.track then k.freeEntry else none
      skip := 0, err := false, link := false
      teams := if inPad src || (inPad dst && c.mcast = 0) then [a.team] else []
      dests := if inPad dst && c.mcast = 0 then [a.team] else []
      pages := pages, pos := 0, ord := s.nextOrd }
    acceptCopy op locks
    match op.entry with
    | some i =>
      let s ← get
      let (k, e) := (s.cluster cl).take i id .copy own.lo own.hi a.grid 0 none
      set (s.setCluster cl k)
      writeScalar (u.d - 94) (handleOf s a cl e)
    | none => modCur fun a => { a with trk := { a.trk with openSet := a.trk.openSet ++ [id] } }) s

def execAstore (d a b : Reg) (s : State) : Host.Outcome State Fault Refusal :=
  unit (wordT 71 d a b 0) (fun u => do
    if u.act = 0 then return
    let n := (lane u.vb 0).toNat
    if n = 0 || 2 ^ 26 < n then trapFree 0x62
    if u.pd != 0 || u.pa != 0 || u.pb != 0 then trap 0x28 1
    let s ← get
    let a := s.cur
    let src : Span := ⟨lane u.va 0, n, false, 1⟩
    let dst : Span := ⟨lane u.vd 0, n, true, 1⟩
    let padDst := (spanPlace s a true src).isSome && match spanPlace s a true dst with
      | some (.pad _ _ _) => true
      | _ => false
    if padDst then trapFree 0x67
    let pages ← checkSpans [src, dst] (fun r => !r.write) fun _ _ => none
    if pages.any (fun p => (pagesIn dst.va.toNat (dst.va.toNat + n)).contains p.1 && !isPeer p.2.1) then trapFree 0x67
    if spansMeet s a src dst then trapFree 0x66
    let s ← get
    let id := s.nextOp
    if !(s.cluster (clusterOf a.core.toNat)).locksFit 1 then hold .accept
    let (bt, x) := s.treeOf a
    let inPad := match placeOf s a src.va with | .pad _ _ _ => true | _ => false
    acceptCopy {
      id := id, agent := a.id, team := a.team, mode := 4, cmd := lane u.vb 0, ext := 0, src := src.va, dst := dst.va
      core := a.core, berth := bt, ctx := x, started := false, entry := none, skip := 0, err := false, link := false
      teams := if inPad then [a.team] else [], dests := [], pages := pages, pos := 0, ord := s.nextOrd }
      [spanLock s a id src]
    modCur fun a => { a with trk := { a.trk with openSet := a.trk.openSet ++ [id] } }) s

/-- A gang held at a CPY or ASTORE tries again (R305). -/
def execCopyAccept (g : Nat) (s : State) : Host.Outcome State Fault Refusal :=
  match s.agent g with
  | some a => .next (match a.run with
    | .holding .accept _ => s.ready g
    | _ => s)
  | none => .next s

/-! ### Batches (R311, R312) -/

/-- DONE of a gang: the number before the oldest batch not yet complete. -/
def Agent.done (a : Agent) : BitVec 32 := match a.trk.batches with
  | (n, _) :: _ => n - 1
  | [] => a.batch

/-- Batch number n has been reached by m, modulo 2^32. -/
def reached (m n : BitVec 32) : Bool := !(m - n).getLsbD 31

def execCbatch (d : Reg) (s : State) : Host.Outcome State Fault Refusal :=
  unit (wordT 69 d 0 0 0) (fun u => do
    if u.act != 0 then
      modCur fun a =>
        let n := a.batch + 1
        { a with
          batch := n
          trk := { a.trk with
            openSet := []
            batches := if a.trk.openSet = [] then a.trk.batches else a.trk.batches ++ [(n, a.trk.openSet)] } }
      writeScalar (u.d - 96) ((← get).cur.batch.setWidth 64)) s

def execCwait (a : Reg) (s : State) : Host.Outcome State Fault Refusal :=
  unit (wordT 69 0 a 0 1) (fun u => do
    if u.act != 0 then
      let ag := (← get).cur
      let n := (lane u.va 0).extractLsb' 0 32
      if !reached ag.batch n then trapFree 0x65
      if !reached ag.done n then hold (.batch n)
      acquireNow) s

def execCstat (d : Reg) (s : State) : Host.Outcome State Fault Refusal :=
  unit (wordT 69 d 0 0 2) (fun u => do
    if u.act != 0 then
      let a := (← get).cur
      let t := a.trk
      writeScalar (u.d - 96) (BitVec.ofNat 64 (a.done.toNat + t.skip.toNat * 2 ^ 32 + t.err.toNat * 2 ^ 33
        + t.link.toNat * 2 ^ 34 + t.skipMask.toNat * 2 ^ 36))
      modCur fun a => { a with trk := { a.trk with skipMask := 0, link := false, err := false, skip := false } }) s

/-! ### Handles (R314) -/

def execHwait (a : Reg) (s : State) : Host.Outcome State Fault Refusal :=
  unit (wordT 70 0 a 0 0) (fun u => do
    if u.act != 0 then
      let s ← get
      match handleEntry s s.cur (lane u.va 0) with
      | none => trapFree 0x64
      | some (c, e) =>
        if e.st == .filling then hold (.handle c e.idx)
        acquireNow) s

def execHrel (a : Reg) (s : State) : Host.Outcome State Fault Refusal :=
  unit (wordT 70 0 a 0 1) (fun u => do
    if u.act != 0 then
      let s ← get
      match handleEntry s s.cur (lane u.va 0) with
      | none => trapFree 0x64
      | some (c, e) =>
        if e.st != .full then hold (.handle c e.idx)
        modify fun s => s.freeEntryOf c e.idx) s

def execHqry (d a : Reg) (s : State) : Host.Outcome State Fault Refusal :=
  unit (wordT 70 d a 0 2) (fun u => do
    if u.act != 0 then
      let s ← get
      writeScalar (u.d - 96) (match handleEntry s s.cur (lane u.va 0) with
        | none => 4
        | some (_, e) =>
          let st := match e.st with | .free => 0 | .filling => 1 | .full => 2 | .draining => 3
          BitVec.ofNat 64 (st + e.err.toNat * 8 + e.skip.toNat * 16))) s

/-! ### Reading and writing by the engine (R132, R306, R316) -/

/-- Where an operation's translated pages put an address: physical address, key slot and tensor slot. -/
def frameIn (pages : List PageAt) (va : Nat) : Option (Nat × BitVec 9 × BitVec 12) :=
  (pages.find? (·.1 == va / 2 ^ 16)).map fun p => (p.2.1 + va % 2 ^ 16, p.2.2.1, p.2.2.2)

/-- An address of a scratchpad. -/
def isPadVa (va : Nat) : Bool := 0xFF000000000000 ≤ va

/-- Which source reads of an engine meet an error that persists (R316): lines of physical memory, and lines of 64
bytes of a scratchpad. -/
structure ReadErr where
  lines : List Nat
  pads : List Nat
  deriving DecidableEq, Repr

/-- An 8-byte unit of the source: value, mark, and whether its read meets an error that persists, or fails behind
a port that is down (R261, R316). -/
def readUnit (o : CopyOp) (err : ReadErr) (u : Nat) (s : State) : (Word × Bool × Bool) × State :=
  let tell := fun (e : Bool) (a : Nat) (s : State) => if e then s.note 0x29 o.agent (BitVec.ofNat 64 a) else s
  if isPadVa u then
    match s.teamOf o.team with
    | some t =>
      let x := t.scratch.unit (u % 2 ^ 48)
      let e := err.pads.contains (u % 2 ^ 48 / 64)
      ((x.1, x.2, e), tell e u s)
    | none => ((0, false, true), s)
  else match frameIn o.pages u with
    | some (pa, k, t) =>
      if s.cutOff pa then ((0, false, true), tell true pa s)
      else
        let (x, s) := s.homeGet ⟨o.berth, k, t, 1⟩ pa
        let e := err.lines.contains (pa / 64)
        ((x.1, x.2.1, x.2.2 || e), tell e pa s)
    | none => ((0, false, true), s)

/-- n bytes of the source, each with its mark and its error. -/
def readBytes (o : CopyOp) (err : ReadErr) (va n : Nat) (s : State) : List (Byte × Bool × Bool) × State :=
  let r := (List.range ((va + n + 7) / 8 - va / 8)).foldl (fun (acc : List (Byte × Bool × Bool) × State) i =>
    let x := readUnit o err (8 * (va / 8 + i)) acc.2
    (acc.1 ++ (toBytes 8 x.1.1.toNat).map (·, x.1.2), x.2)) ([], s)
  ((r.1.drop (va % 8)).take n, r.2)

/-- A write of the operation that its peer will never register: the grid's signal tells the first (R44, R315). -/
def State.loseCopy (s : State) (o : CopyOp) (va : Nat) : State :=
  match s.teamOf o.team with
  | some t => s.modGrid t.grid fun g => { g with
      lostAddr := if g.lostAddr.isNone then some (BitVec.ofNat 64 va) else g.lostAddr }
  | none => s

/-- Bytes of one 8-byte unit of a destination written in one step, those of the enables in bit order, with a mark for
the unit: at the home with no owner, or in each scratchpad that the operation writes. -/
def writeUnit (o : CopyOp) (u : Nat) (be : BitVec 8) (v : Word) (p : Bool) (s : State) : State :=
  if isPadVa u then
    o.dests.foldl (fun s t => (s.modTeam t fun x => { x with scratch := x.scratch.store (u % 2 ^ 48) be v p }).padEvent t (u % 2 ^ 48) 8) s
  else match frameIn o.pages u with
    | some (pa, k, t) => if s.cutOff pa then s.loseCopy o u else s.homePut ⟨o.berth, k, t, 1⟩ pa be v p none
    | none => s

/-- Bytes within one 8-byte unit of a destination written. -/
def writePiece (o : CopyOp) (va : Nat) (bs : List Byte) (p : Bool) (s : State) : State :=
  writeUnit o (va / 8 * 8) (enables (va % 8) bs.length) (BitVec.ofNat 64 (ofBytes bs * 2 ^ (8 * (va % 8)))) p s

/-! ### CONV (R307) -/

/-- One element converted. A marked or failed source is poison in the result's format (R106, R107). -/
def convEl (c : CpyCmd) (x : Nat) (bad : Bool) : Nat :=
  let wide := if c.wfmt = 0 then Fmt.bf16 else Fmt.f32
  let narrow := if c.nfmt = 0 then Fmt.e4m3fmt else Fmt.e5m2
  if c.dir then (if bad then wide.poison else (fConvert narrow wide .rne false x).1)
  else if bad then (if narrow.e4m3 then narrow.signed (x.testBit (wide.width - 1)) 0x7F else narrow.poison)
  else
    let r := (fConvert wide narrow (Rm.of (BitVec.ofNat 2 c.rm)) false x).1
    if !c.sat then r
    else match wide.val x with
      | .nan _ => r
      | .inf s => narrow.signed s narrow.maxCode
      | .fin s _ _ => if narrow.maxCode < r % narrow.signBit then narrow.signed s narrow.maxCode else r

/-! ### QUANT (R308) -/

/-- ⌊log2⌋ of a magnitude given as its f32 code. -/
def magLog (m : Nat) : Int :=
  if m < 2 ^ 23 then (m.log2 : Int) - 149 else (m / 2 ^ 23 : Nat) - 127

/-- The f32 code of a wide element. -/
def wideCode (c : CpyCmd) (x : Nat) : Nat := if c.wfmt = 0 then x * 2 ^ 16 else x

/-- The magnitude of an element, 0 when it is not finite or poisoned. -/
def finiteMag (x : Nat × Bool) : Nat :=
  let m := x.1 % 2 ^ 31
  if x.2 || 0x7F800000 ≤ m then 0 else m

/-- The bitmap: a block begins where some line's magnitude differs from its block's by more than the
format's span (R308). -/
def blockMap (t : Int) (m : Nat → Nat → Nat) : Nat → List Nat → Nat → Nat
  | 0, _, bbm => bbm
  | n + 1, top, bbm =>
    let g := 63 - n
    let here := (List.range 128).map (m · g)
    let join := (top.zip here).all fun p => p.1 == 0 || p.2 == 0 || (magLog p.2 - magLog p.1).natAbs ≤ t.natAbs
    if join then blockMap t m n ((top.zip here).map fun p => max p.1 p.2) bbm
    else blockMap t m n here (bbm + 2 ^ g)

/-- The code of one element under a block's scale (R308). -/
def quantEl (w : Nat) (rm : Rm) (scale : Nat) (x : Nat × Bool) : Nat :=
  if x.2 then qInvalid w
  else match Fmt.f32.val x.1 with
    | .fin sg k h =>
      match se8Val scale with
      | some (m, e) =>
        if scale = 0 || k = 0 then 0
        else
          let v := Exact.dyadic sg k (h - e)
          let n := min (qMax w) (roundMul rm sg v.num (v.den * m) 0).1
          qCode w (if sg then -(n : Int) else n)
      | none => qInvalid w
    | _ => qInvalid w

/-- A panel of 128 lines of K elements (R96, R308), with the offset of each part written: bitmap,
scales, and elements. els gives an element's f32 code and whether it is poison. -/
def quantPanel (c : CpyCmd) (els : Nat → Nat → Nat × Bool) : List (Nat × List Byte) :=
  let w := qFormat c.nfmt
  let t : Int := match c.nfmt with | 0 => 2 | 1 => 4 | _ => 6
  let lines : List (List Nat) := (List.range 128).map fun i => (List.range 64).map fun g =>
    ((List.range 16).map fun k => if 16 * g + k < c.size then finiteMag (els i (16 * g + k)) else 0).foldl max 0
  let m := fun i g => (lines.getD i []).getD g 0
  let bbm := blockMap t m 63 ((List.range 128).map (m · 0)) 1
  let starts := (List.range 64).filter bbm.testBit
  let nb := starts.length
  let stride := 8 * ((nb + 7) / 8)
  let e := 256 * ((8 + 128 * stride + 255) / 256)
  let blockOf := fun g => (starts.filter (· ≤ g)).length - 1
  let scale := fun (i b : Nat) =>
    let g := ((List.range 64).filter fun g => blockOf g == b).foldl (fun acc g => max acc (m i g)) 0
    if g = 0 then 0 else min 0xFE (scaleCode w false g)
  let scales := (List.range 128).map fun i => (List.range stride).map fun b => if b < nb then scale i b else 0
  [(0, toBytes 8 bbm)] ++
  ((List.range 128).map fun i => (8 + stride * i, ((scales.getD i []).map (BitVec.ofNat 8)))) ++
  (List.range 128).map fun i =>
    (e + panelW w * i, toBytes (panelW w) (joinEls (qWidth w) ((List.range 1024).map fun k =>
      if k < c.size then quantEl w (Rm.of (BitVec.ofNat 2 c.rm)) ((scales.getD i []).getD (blockOf (k / 16)) 0) (els i k) else 0)))

/-! ### Progress (R305, R306, R309, R317) -/

/-- Bytes that an operation writes, and the address in the destination and the bytes left in a row of
its n-th byte. -/
def CopyOp.total (o : CopyOp) : Nat :=
  let c := CpyCmd.of o.cmd
  match o.mode with
  | 0 => c.size
  | 1 => c.size / 2 ^ 16 * (c.size % 2 ^ 16)
  | 2 => c.size * c.dstEl
  | 4 => o.cmd.toNat
  | _ => 0
def CopyOp.rowLen (o : CopyOp) : Nat := if o.mode = 1 then (CpyCmd.of o.cmd).size % 2 ^ 16 else o.total
def CopyOp.dstAt (o : CopyOp) (n : Nat) : Nat := o.dst.toNat + n / o.rowLen * bits o.ext 31 0 + n % o.rowLen
def CopyOp.srcAt (o : CopyOp) (n : Nat) : Nat := o.src.toNat + n / o.rowLen * bits o.ext 63 32 + n % o.rowLen

/-- The runs of a piece from its n-th byte on: the destination bytes of one 8-byte unit, row by row, each with the
bytes of the operation before it. Rows that share a word are written in one step (R306). -/
def CopyOp.runs (o : CopyOp) : Nat → Nat → List (Nat × Nat)
  | 0, _ => []
  | fuel + 1, n =>
    let va := o.dstAt n
    let len := min (8 - va % 8) (o.rowLen - n % o.rowLen)
    let next := n + len
    (n, len) :: if next < o.total && o.dstAt next / 8 == va / 8 then o.runs fuel next else []

/-- The next piece of an operation: the destination bytes within one 8-byte unit. -/
def copyPiece (err : ReadErr) (x : CopyOp × State) : CopyOp × State :=
  let (o, s) := x
  if o.total ≤ o.pos then x
  else
    let va := o.dstAt o.pos
    if o.mode = 2 then
      let n := min (8 - va % 8) (o.total - o.pos)
      let c := CpyCmd.of o.cmd
      let k := n / c.dstEl
      let (bs, s) := readBytes o err (o.src.toNat + o.pos / c.dstEl * c.srcEl) (k * c.srcEl) s
      let el := fun i =>
        let e := (bs.drop (i * c.srcEl)).take c.srcEl
        convEl c (ofBytes (e.map (·.1))) (e.any fun b => b.2.1 || b.2.2)
      let out := (List.range k).flatMap fun i => toBytes c.dstEl (el i)
      ({ o with pos := o.pos + n, err := o.err || bs.any (·.2.2) }, writePiece o va out false s)
    else
      let r := (o.runs 8 o.pos).foldl (fun (acc : (Nat × BitVec 8 × Word × Bool × Bool) × State) run =>
        let ((len, be, v, p, e), s) := acc
        let at_ := o.dstAt run.1 % 8
        let (bs, s) := readBytes o err (o.srcAt run.1) run.2 s
        ((len + run.2, be ||| enables at_ run.2, v ||| BitVec.ofNat 64 (ofBytes (bs.map (·.1)) * 2 ^ (8 * at_)),
          p || bs.any (fun b => b.2.1 || b.2.2), e || bs.any (·.2.2)), s)) ((0, 0, 0, false, false), s)
      let ((len, be, v, p, e), s) := r
      ({ o with pos := o.pos + len, err := o.err || e }, writeUnit o (va / 8 * 8) be v p s)

/-- Up to n pieces in order. -/
def copyPieces (err : ReadErr) : Nat → CopyOp × State → CopyOp × State
  | 0, x => x
  | n + 1, x => if x.1.total ≤ x.1.pos then x else copyPieces err n (copyPiece err x)

/-- A QUANT performed. -/
def quantAll (err : ReadErr) (o : CopyOp) (s : State) : CopyOp × State :=
  let c := CpyCmd.of o.cmd
  let r := (List.range 128).foldl (fun (acc : List (List (Byte × Bool × Bool)) × State) i =>
    let x := readBytes o err (o.src.toNat + i * bits o.ext 31 0) (c.size * c.wide) acc.2
    (acc.1 ++ [x.1], x.2)) ([], s)
  let els : List (List (Nat × Bool)) := r.1.map fun bs => (List.range c.size).map fun k =>
    let e := (bs.drop (k * c.wide)).take c.wide
    (wideCode c (ofBytes (e.map (·.1))), e.any fun b => b.2.1 || b.2.2)
  let parts := quantPanel c fun i k => (els.getD i []).getD k (0, false)
  let s := parts.foldl (fun s p =>
    (List.range ((p.2.length + 7) / 8)).foldl (fun s j =>
      writePiece o (o.dst.toNat + p.1 + 8 * j) ((p.2.drop (8 * j)).take 8) false s) s) r.2
  ({ o with err := o.err || r.1.any (·.any (·.2.2)) }, s)

/-- The release that an operation's issue began is done (R121, R132, R305): every earlier load and atomic of its gang
has returned its data, one that was saved with the gang's slot and is issued again at its activation among them. -/
def issueReleased (s : State) (agent ord : Nat) : Bool :=
  !(s.pend.any fun p => p.agent == agent && p.ord < ord && !(isHost p.pa && p.registered)) && match s.agent agent with
    | some a => !(a.looks.any fun l => l.loading && l.ord < ord) && !(a.atom.any (·.ord < ord)) && a.wbacks.isEmpty
    | none => true

/-- The team of the operation's launch that is placed on a core (R309): the issuing gang's own on its
core, else the first of several, of which R309 does not speak (log 95). -/
def castTeam (s : State) (o : CopyOp) (core : Nat) : Option Nat :=
  match s.teamOf o.team with
  | none => none
  | some t0 =>
    let on := fun (t : Team) => t.grid == t0.grid && t.placed == some (BitVec.ofNat 8 core) && !t.swapped && !t.ended
    if on t0 then some t0.id else (s.teams.find? on).map (·.id)

/-- An operation as it starts on a cluster: a multicast's cores are decided once, and those without a team of the
launch are skipped (R309). -/
def CopyOp.begin (o : CopyOp) (s : State) (c : Nat) : CopyOp :=
  let cores := (List.range 4).filter (CpyCmd.of o.cmd).mcast.testBit
  if o.mode = 4 || cores = [] then { o with started := true }
  else
    let found := cores.map fun i => (i, castTeam s o (4 * c + i))
    let dests := found.filterMap (·.2)
    { o with
      started := true, dests := dests, teams := (o.teams ++ dests).eraseDups
      skip := BitVec.ofNat 4 (found.foldl (fun acc p => if p.2.isNone then acc + 2 ^ p.1 else acc) 0) }

/-- The next operation in the order of acceptance starts: up to eight run at once (R305, R309). -/
def execCopyStart (c : BitVec 6) (k : Nat) (s : State) : Host.Outcome State Fault Refusal :=
  let cl := s.cluster c.toNat
  match cl.copies[k]? with
  | none => .next s
  | some o =>
    if o.started || (cl.copies.take k).any (!·.started) || 8 ≤ (cl.copies.filter (·.started)).length
        || !issueReleased s o.agent o.ord then .next s
    else .next (s.setCluster c.toNat { cl with copies := changeAt (fun _ => o.begin s c.toNat) k cl.copies })

/-- The gang's tracking after an operation has completed (R311, R312). -/
def Tracking.complete (t : Tracking) (o : CopyOp) : Tracking :=
  { openSet := t.openSet.filter (· != o.id)
    batches := (t.batches.map fun b => (b.1, b.2.filter (· != o.id))).filter fun b => b.2 != []
    skipMask := t.skipMask ||| o.skip, link := t.link || o.link, err := t.err || o.err, skip := t.skip || o.skip != 0 }

/-- An operation completes: its locks are released, its entry becomes full or its batch advances, and
those that wait for it go on (R132, R311, R313). -/
def State.finishCopy (s : State) (c : Nat) (o : CopyOp) : State :=
  let s := s.modCluster c fun cl =>
    { cl with copies := cl.copies.filter (·.id != o.id), locks := cl.locks.filter (·.owner != o.id) }
  let s := match o.entry with
    | some i =>
      let e := (s.cluster c).entry i
      if e.op == o.id && e.st == EntryState.filling then
        if e.dying then s.freeEntryOf c i
        else (s.modCluster c (·.setEntry { e with st := .full, skip := o.skip, err := o.err })).entryEvent c i
      else s
    | none => s.modAgent o.agent fun a => { a with trk := a.trk.complete o }
  let s := s.readyAll fun a w => match w with
    | .accept => a.cluster == some c
    | .engines => a.id == o.agent
    | .event => a.id == o.agent
    | _ => false
  match s.agent o.agent with
  | some a => match a.waits with
    | some (.batch n) => if reached a.done n then s.ready a.id else s
    | _ => s
  | none => s

/-- Where an ASTORE writes next lies behind a port that is down (R315). -/
def CopyOp.cut (o : CopyOp) (s : State) : Bool :=
  o.mode == 4 && match frameIn o.pages (o.dstAt o.pos) with
    | some (pa, _, _) => s.cutOff pa
    | none => true

/-- Pieces of an ASTORE up to the first that its peer's port does not take. -/
def astorePieces (err : ReadErr) : Nat → CopyOp × State → CopyOp × State
  | 0, x => x
  | n + 1, x =>
    if x.1.total ≤ x.1.pos then x
    else if x.1.cut x.2 then ({ x.1 with link := true }, x.2)
    else astorePieces err n (copyPiece err x)

/-- The next n pieces of a running operation, or all that is left where n is 0. With the last piece, or where a peer
takes no more of an ASTORE, the operation completes. -/
def State.stepCopy (s : State) (c : Nat) (o : CopyOp) (n : Nat) (err : ReadErr) : State :=
  if o.mode = 3 then
    let (o, s) := quantAll err o s
    s.finishCopy c o
  else
    let fuel := if n = 0 then o.total else n
    let (o, s) := if o.mode = 4 then astorePieces err fuel (o, s) else copyPieces err fuel (o, s)
    if o.link then (s.loseCopy o (o.dstAt o.pos)).finishCopy c o
    else if o.total ≤ o.pos then s.finishCopy c o
    else s.modCluster c fun cl => { cl with copies := changeFirst (·.id == o.id) (fun _ => o) cl.copies }

/-- The next n pieces of a running operation; err and pads list the source lines of memory and of the scratchpad whose
error persists (R316), and ok is false where the peer refuses the rest of an ASTORE (R315). -/
def execCopyComplete (c : BitVec 6) (k n : Nat) (err pads : List Nat) (ok : Bool) (s : State) :
    Host.Outcome State Fault Refusal :=
  match (s.cluster c.toNat).copies[k]? with
  | none => .next s
  | some o =>
    if !o.started || o.pages.any (fun p => s.refuses p.2.1) then .next s
    else if o.mode = 4 && (!ok || o.link) then
      .next ((s.loseCopy o (o.dstAt o.pos)).finishCopy c.toNat { o with link := true })
    else .next (s.stepCopy c.toNat o n ⟨err, pads⟩)

end Sys2Proof.Machine
end

