-- ==== Sys2Proof/Machine/Retire.lean ====
section
/-!
DEFINITION. Ends that come from outside a gang: a gang or grid ended by its pilot or by a cancellation
(R379, R380), a cluster retired to a spare (R192, R406), and the reset of a partition (R403).
-/

namespace Sys2Proof.Machine

/-! ### A grid ended (R314, R379, R380) -/

/-- Buffer-table entries of a grid freed with their locks and pins; one whose operation is still under
way is freed when that ends (R314). -/
def State.releaseEntries (s : State) (g : Nat) : State :=
  let mxOps := s.clusters.flatMap fun x => x.2.mx.ops.map (·.id)
  let busy := fun (c : Nat) (e : Entry) => e.st != .full && (mxOps.contains e.op || (s.cluster c).copies.any (·.id == e.op))
  let s := s.freeEntries fun c e => e.grid == g && !busy c e
  { s with clusters := s.clusters.map fun x => (x.1, { x.2 with
      table := changeIf (fun e => e.grid == g && e.st != .free) (fun e : Entry => ({ e with dying := true } : Entry)) x.2.table }) }

/-- Copy operations that satisfy p abandoned with their locks and entries (R316, R380). -/
def State.dropCopies (s : State) (p : Nat → CopyOp → Bool) : State :=
  let gone := s.clusters.flatMap fun x => (x.2.copies.filter (p x.1)).map (x.1, ·.id)
  let s := s.freeEntries fun c e => gone.contains (c, e.op)
  { s with clusters := s.clusters.map fun x => (x.1, { x.2 with
      copies := x.2.copies.filter fun o => !p x.1 o
      locks := x.2.locks.filter fun l => !gone.contains (x.1, l.owner) }) }

/-- The team belongs to the grid. -/
def State.inGrid (s : State) (t g : Nat) : Bool := (s.teamOf t).any (·.grid == g)

/-- The teams of a grid that satisfy p stopped: their gangs with their held writes, their records and every other of
the grid, their sequencers, and their engine operations (R380). Where the grid has ended (R44), engine operations go on:
copies, and drains into memory. -/
def State.endTeams (s : State) (g : Nat) (flush : Bool) (p : Team → Bool) : State :=
  let mine := fun (s : State) (t : Nat) => (s.teamOf t).any fun t => t.grid == g && p t
  let ops := s.clusters.flatMap fun x => (x.2.copies.filter fun o => mine s o.team).map (·.id)
  let gangs := s.all.filter fun a => a.prof == .full && mine s a.team && a.run != .off
  let quads := s.clusters.filterMap fun x => match x.2.mx.quad with
    | some q => if mine s q then some x.1 else none
    | none => none
  let s := gangs.foldl (fun s a => s.removeGang a.id) s
  let s := if flush then s else s.dropCopies fun _ o => ops.contains o.id
  let s := quads.foldl (fun s c =>
    let s := (s.modAgent (64 + c) fun a => { a with run := .off }).stopMatrix c fun o => flush && o.toMemory
    s.modCluster c fun k => { k with mx := { k.mx with quad := none } }) s
  let s := { s with
    teams := changeIf (fun t => t.grid == g && p t && !t.ended) (fun t => ({ t with
      ended := true, placed := none, scratch := Mem.empty, arrived := [], qarrived := [], waitSince := none, qwaitSince := none
      swapWanted := false, suspended := none } : Team)) s.teams
    records := changeIf (fun r => r.grid == g) (fun r => ({ r with live := false, queued := false } : Record)) s.records }
  s.readyAll fun _ w => w == .accept

/-- Everything that a grid has in the machine stopped and freed: its teams, drains that outlived theirs, its lath
instances and its buffer-table entries (R380). -/
def State.killGrid (s : State) (g : Nat) : State :=
  let s := s.endTeams g false fun _ => true
  let entries := s.clusters.flatMap fun x => x.2.table.filter fun e => e.grid == g && e.st != .free
  let s : State := { s with clusters := s.clusters.map fun x => (x.1, { x.2 with mx := { x.2.mx with
    ops := x.2.mx.ops.filter fun o => !entries.any fun e => e.kind == .drain && e.op == o.id } }) }
  let lath := match s.gridOf g with | some x => x.lath | none => []
  let s := lath.foldl (fun s ch => s.abortChannel ch (s.channel ch).did) s
  (s.releaseEntries g).modGrid g fun x => { x with killed := true, left := 0, usedCtx := [] }

/-- A grid ended with what its packet's signal then carries (R377 to R380). -/
def State.endGrid (s : State) (g : Nat) (state code sub : BitVec 8) (d1 d2 : Word) : State :=
  match s.gridOf g with
  | none => s
  | some x => if x.killed then s else (s.killGrid g).endPacket x.packet state code sub d1 d2

/-- CTXKILL of one gang (R190): it retires without the release wait, its held writes dropped. -/
def State.killGang (s : State) (g : Nat) : State :=
  match s.agent g with
  | none => s
  | some a =>
    let s := (s.removeGang g).readyAll fun _ w => w == .joinOf g
    ((s.barComplete a.team false).barComplete a.team true).swapWake a.team

/-! ### Service by a pilot core (R151, R182, R322, R379) -/

/-- A service record served: the grid of a gang or sequencer whose trap has no handler, or whose context
page still does not translate, is ended; any other agent takes its unit again. -/
def State.serve (s : State) (r : Record) : State :=
  let s := s.modRecord r.id fun r => { r with live := false, queued := false }
  match s.agent r.agent with
  | none => s
  | some a =>
    match r.cause.toNat with
    -- a swap-in asks for nothing (log 76)
    | 0 => s
    | 0x15 => s.endGrid r.grid 4 0x15 (r.sub.setWidth 8) r.wake a.pc
    | 0x16 => s.endGrid r.grid 4 0x16 (r.sub.setWidth 8) r.wake a.epc
    | 0x78 => s.endGrid r.grid 4 0x78 a.cause a.tval a.epc
    | 0x41 =>
      if s.ctxServes a (r.wake - a.cb).toNat then
        -- its lines are written back again (R152)
        let s := s.modAgent a.id fun a => { a with lines := a.lines.map fun l => { l with stuck := false } }
        if a.waits == some .service then s.ready a.id else s
      else s.endGrid r.grid 4 0x40 0 r.wake 0
    -- a sequencer's cluster may be another quad's by now
    | _ => if a.waits == some .service && (a.prof == .firmware || (a.grid == r.grid && a.team == r.team)) then s.ready a.id else s

/-! ### Teams taken off their cores (R192, R384, R389) -/

/-- The state after a step, or as it was where the step stops. -/
def onNext (f : State → Host.Outcome State Fault Refusal) (s : State) : State := match f s with
  | .next t => t
  | _ => s

/-- The walks of some agents that wait brought to their end. -/
def State.finishWalks (s : State) (ids : List Nat) : State :=
  let s : State := { s with walks := changeIf (fun w => ids.contains w.agent) (fun w : Walk => ({ w with granted := true } : Walk)) s.walks }
  (List.range s.walks.length).reverse.foldl (fun s k => match s.walks[k]? with
    | some w => if ids.contains w.agent then onNext (execWalkComplete k []) s else s
    | none => s) s

/-- One round of what the loads, atomics and stores of a core's agents have on their way: what can be served is. -/
def State.serveCore (s : State) (core : Nat) : State :=
  let mine := s.all.filter fun a => a.l1Core == core
  let s := mine.foldl (fun s a => (List.range a.looks.length).foldl (fun s k => onNext (execHomeRead a.id k 0 0) s) s) s
  let s := mine.foldl (fun s a => (List.range a.looks.length).reverse.foldl (fun s k => onNext (execDataArrival a.id k) s) s) s
  let s := mine.foldl (fun s a => onNext (execAtomicAtHome a.id 0 0) s) s
  let s := mine.foldl (fun s a => s.drainWbacks a.id) s
  let s := s.finishWalks (mine.map (·.id))
  (List.range s.pend.length).reverse.foldl (fun s k => match s.pend[k]? with
    | some p =>
      if p.core != core then s
      else if isPeer p.pa then onNext (execPeerAck k true) s
      else onNext (execRegistrationAck k) (onNext (execStoreRegistration k false) s)
    | none => s) s

/-- The accesses that a core's agents have made brought to their end, whatever stack refuses for a while (R27, R39). -/
def State.settleCore (s : State) (core : Nat) : State :=
  let r := s.refusing
  let n := s.pend.length + (s.all.filter fun a => a.l1Core == core).foldl (fun n a => n + a.looks.length + a.wbacks.length + 1) 0
  let s := (List.range n).foldl (fun s _ => s.serveCore core) { s with refusing := 0 }
  { s with refusing := r }

/-- A copy operation performed to its end, after the accesses that its gang made before it (R39, R305). -/
def State.runCopy (s : State) (c : Nat) (o : CopyOp) : State :=
  let s := if o.started || issueReleased s o.agent o.ord then s else s.settleCore o.core.toNat
  let o := if o.started then o else o.begin s c
  if o.mode = 4 && o.link then (s.loseCopy o (o.dstAt o.pos)).finishCopy c o
  else s.stepCopy c o 0 ⟨[], []⟩

/-- The copies of a list up to the last that satisfies p. -/
def throughLast (p : CopyOp → Bool) : List CopyOp → List CopyOp
  | [] => []
  | o :: os => if p o || os.any p then o :: throughLast p os else []

/-- Copies of a cluster that satisfy p performed to their end, and those accepted before them, one after another in the
order of acceptance (R305). -/
def State.settleCopies (s : State) (p : CopyOp → Bool) : State :=
  (s.clusters.flatMap fun x => (throughLast p x.2.copies).map (x.1, ·)).foldl (fun s x => s.runCopy x.1 x.2) s

/-- The operation reads or writes the scratchpad of a team that satisfies p: it does now, or it is a multicast that
names the core of one. -/
def CopyOp.touches (o : CopyOp) (s : State) (p : Team → Bool) : Bool :=
  (if o.started then o.teams else (o.begin s (clusterOf o.core.toNat)).teams).any fun t => (s.teamOf t).any p

/-- The gangs of the teams that satisfy p. -/
def State.gangsOf (s : State) (p : Team → Bool) : List Agent :=
  s.all.filter fun a => a.prof == .full && a.run != .off && (s.teamOf a.team).any p

/-- Every placed team that satisfies p swapped out with its quad and queued ready, once the copies with a range in its
scratchpad, and its gangs' atomics, have completed (R39). A lath result that is still to come goes into the saved
image (log 89); no matrix operation has a range there. -/
def State.swapOutWhere (s : State) (p : Team → Bool) : State :=
  let quads := fun (t : Team) => (s.unitTeams t).any p
  let s := s.settleCopies fun o => o.touches s quads
  let s := (s.gangsOf quads).foldl (fun s a => if a.atom.isSome then s.settleCore a.core.toNat else s) s
  let s := s.clusters.foldl (fun s x => match x.2.mx.quad, s.agent (64 + x.1) with
    | some q, some a => if s.streamBusy q && (s.teamOf q).any quads then s.settleCore a.l1Core else s
    | _, _ => s) s
  s.evictWhere p

/-! ### Partition reset (R298, R403) -/

/-- The lines that lie in a berth's ways dropped without write-back: memory reads what the channels
hold. -/
def State.dropWays (s : State) (b : BitVec 4) : State :=
  let mine := s.l2.filter fun l => (s.waysAt b (64 * l.line)).getLsbD l.way
  mine.foldl (fun s l => s.discardLine l.line) s

/-- The cores of a cluster as they are after a reset (R403), and what other places held for them. -/
def State.resetCores (s : State) (c : Nat) : State :=
  let mine := fun n => n / 4 == c
  { s with
    cores := s.cores.filter fun x => !mine x.1
    owners := s.owners.filter fun x => !mine x.2
    tlb := s.tlb.filter fun x => match x.level with
      | .core n => !mine n
      | .cluster n => n != c
      | .die _ => true
      | .unit _ => true }

/-- ADMIT of a berth (R388). -/
def State.setAdmit (s : State) (b : BitVec 4) (on : Bool) : State :=
  let n := dev (0x380 + b.toNat)
  s.setSysreg n (setBits (s.sysreg n 0) 0 1 on.toNat)

/-- BOPSTAT: busy, reason, operation and result (R393). -/
def State.setBopStat (s : State) (busy : Bool) (reason op result : Nat) : State :=
  s.setSysreg (dev 0x588) (BitVec.ofNat 64 (busy.toNat * 2 ^ 63 + reason * 2 ^ 16 + op * 2 ^ 8 + result))

/-- The berth that a lath channel belongs to: that of the grid or packet it is allocated to, else that of its index (R387,
R396). -/
def State.lathBerth (s : State) (c : Nat) : BitVec 4 :=
  match (if (s.channel c).en then s.packetOf (s.channel c).packet else none) with
  | some p => p.berth
  | none => BitVec.ofNat 4 (c / 4)

/-- A lath channel cleared by the reset of its berth (R286, R298): what later units must still hear of an abort stays, and
a packet that is kept before its launch keeps its allocation (R403, log 99). -/
def State.resetChannel (s : State) (c : Nat) : State :=
  let held := (s.channel c).en && (s.packetOf (s.channel c).packet).any fun p => p.phase == 1 || p.phase == 2
  (s.abortChannel c (s.channel c).did).modChannel c fun x => { Channel.init c with
    en := held, packet := if held then x.packet else 0, aborted := x.aborted, broken := x.broken, counted := x.counted }

/-- A partition reset of a berth (R403). -/
def State.resetPartition (s : State) (b : BitVec 4) : State :=
  let cl := (List.range 64).filter fun c => s.coreIn b (4 * c)
  let quiescing := (s.berth b).state == 2
  let chans := (List.range 64).filter fun c => s.lathBerth c == b
  let gs := (s.grids.filter fun g => g.berth == b && !g.killed && !g.flushed).map (·.id)
  let s := gs.foldl (fun s g => s.endGrid g 4 0xB4 0 0 0) s
  let s := { s with pend := s.pend.filter fun p => p.berth != b }
  let s := s.dropWays b
  let s := cl.foldl (fun s c =>
    (s.modCluster c fun k => { Cluster.init with replaced := k.replaced, mx := { Matrix.init with spared := k.mx.spared } }).resetCores c) s
  let s := { s with tlb := s.tlb.filter (·.berth != b), walks := s.walks.filter (·.berth != b) }
  let s := chans.foldl State.resetChannel s
  let s := s.setAdmit b true
  let s : State := if quiescing then s.setBopStat false 7 1 0xB6 else s
  s.modBerth b fun x => { x with state := 1, quiesceEnd := none, exported := none }

/-! ### A cluster retired (R192, R406) -/

/-- Spare clusters of a cluster's die in use. -/
def State.sparesUsed (s : State) (c : Nat) : Nat :=
  (s.clusters.filter fun x => dieOf x.1 == dieOf c).foldl (fun acc x => acc + x.2.replaced) 0

/-- A permanent fault of a cluster: its teams are swapped out and queued ready, and a spare of its die
takes its index; with no spare left its berth takes a partition reset and loses the cluster. -/
def State.retireCluster (s : State) (c : Nat) : State :=
  if s.sparesUsed c < 2 then
    let s := (s.note 0xB1 c 0).swapOutWhere fun t => match t.placed with
      | some k => clusterOf k.toNat == c
      | none => false
    (s.modCluster c fun k => { k with replaced := k.replaced + 1, mx := { k.mx with spared := [] } }).resetCores c
  else
    let s := s.note 0xB3 c 0
    match (List.range 16).find? fun b => s.coreIn (BitVec.ofNat 4 b) (4 * c) with
    | none => s
    | some b =>
      let s := s.resetPartition (BitVec.ofNat 4 b)
      let n := dev (0x400 + b)
      (s.setSysreg n (setBits (s.sysreg n 0) c 1 0)).modBerth (BitVec.ofNat 4 b) fun x =>
        if s.sysreg n 0 = BitVec.ofNat 64 (2 ^ c) then { x with state := 0 } else x

/-- Majors of the lane-pipe units (R22), which verified mode duplicates (R191). -/
def lanePipe (op : Nat) : Bool := (0x10 ≤ op && op ≤ 0x15) || (0x17 ≤ op && op ≤ 0x1A) || (0x1D ≤ op && op ≤ 0x29)

/-- The comparison of a lane-pipe unit in verified mode (R191, R192), at the gang named: the first and
the second comparison agree, or not. Other units, those of the carry chain among them, have none (R283). A unit that agrees at the second is a transient upset; one that
does not leaves the gang parked at it until its pilot has served that (R182), and its cluster is retired. -/
def execVerifyCompare (g : Nat) (first second : Bool) (s : State) : Host.Outcome State Fault Refusal :=
  match s.agent g with
  | none => .next s
  | some a =>
    let verify := (s.sysreg (dev (0x380 + a.berth.toNat)) 0).getLsbD 1
    if a.prof != .full || !a.inSlot || !verify || !(s.majorAt a 7 a.pc).any lanePipe || first then .next s
    else if second then .next (s.note 0xB0 g (BitVec.ofNat 64 (clusterOf a.core.toNat)))
    else
      .next (((s.park g .service).service a 20 0xB1 0 0).retireCluster (clusterOf a.core.toNat))

def execPartitionReset (b : BitVec 4) (s : State) : Host.Outcome State Fault Refusal :=
  .next (s.resetPartition b)

end Sys2Proof.Machine
end

