-- ==== Sys2Proof/Machine/FrontEnd.lean ====
section
/-!
DEFINITION. The front end (spec/16_front_end.md): queues and notify pages (R366, R367, R381), packets and
kernel descriptors (R368 to R371), admission (R373), the heap (R374), launches (R34), prologues
(R375, R376), completion signals (R377, R378), cancellation (R380), and slices of VFs (R384).
-/

namespace Sys2Proof.Machine

/-- The device answers the host and its peers: links and memory are trained, and it is not in recovery mode nor up
without berths, where no VF is enabled (R28). PF0's BAR0 is read at any time (R29). -/
def State.hostUp (s : State) : Bool := s.power && !s.recovery && !s.noBerths && 5 ≤ s.bootStep && s.deadHost != 3

/-! ### Queues (R366, R367, R381, R382) -/

/-- A queue by its owner and notify page. -/
def State.queueOf (s : State) (o : QOwner) (n : BitVec 10) : Option Queue :=
  s.queues.find? fun q => q.owner == o && q.nidx == n
def State.modQueue (s : State) (o : QOwner) (n : BitVec 10) (f : Queue → Queue) : State :=
  { s with queues := changeFirst (fun q => q.owner == o && q.nidx == n) f s.queues }

/-- A VF and a queue interface, by number. -/
def State.vf (s : State) (v : BitVec 4) : Vf := (s.vfs.find? (·.vf == v)).getD (Vf.init v)
def State.modVf (s : State) (v : BitVec 4) (f : Vf → Vf) : State :=
  if s.vfs.any (·.vf == v) then { s with vfs := changeFirst (·.vf == v) f s.vfs }
  else { s with vfs := s.vfs ++ [f (Vf.init v)] }
def State.qi (s : State) (i : BitVec 3) : Qi := (s.qis.find? (·.i == i)).getD ⟨i, 0, 0, 0⟩
def State.modQi (s : State) (i : BitVec 3) (f : Qi → Qi) : State :=
  if s.qis.any (·.i == i) then { s with qis := changeFirst (·.i == i) f s.qis }
  else { s with qis := s.qis ++ [f ⟨i, 0, 0, 0⟩] }

/-- A queue as one number, in a service record. -/
def queueNum (o : QOwner) (n : BitVec 10) : Nat := n.toNat + 1024 * match o with
  | .vf v => v.toNat
  | .qi i => 16 + i.toNat

/-- QUEUE_WAKE of an unmapped queue, unless its record already waits (R381). -/
def State.wakeQueue (s : State) (q : Queue) : State :=
  s.ask q.berth 0xAC (q.header.setWidth 64) (BitVec.ofNat 64 (queueNum q.owner q.nidx))

/-- Steps 1 to 5 of an unmapping (R381). -/
def State.unmapQueue (s : State) (q : Queue) : State :=
  let s := s.modQueue q.owner q.nidx fun x => { x with mapped := false, pw := false }
  if q.pw || q.wptr != q.rptr then s.wakeQueue q else s

/-- Hardware queue slots of a command processor (R387). -/
def queueSlots : Nat := 64

/-- A new count of written packets at a notify page (R366, R381). -/
def State.wakeAt (s : State) (o : QOwner) (n : BitVec 10) (v : Word) : State :=
  match s.queueOf o n with
  | none => s
  | some q =>
    let s := s.modQueue o n fun q => { q with wptr := if q.wptr.toNat < v.toNat then v else q.wptr, pw := !q.mapped }
    if q.mapped then s else s.wakeQueue q

/-! ### Memory of a packet (R368, R370, R371, R377) -/

/-- The tree that a packet's PASID selects (R382, R383). -/
def treeFor (o : QOwner) (w0 : Word) : Stage1 := match o with
  | .vf v => .vf v (w0.extractLsb' 24 20)
  | .qi i => .qi i (w0.extractLsb' 24 20)

/-- Bytes within one page read at a virtual address by the command processor; none where they do not
translate, may not be read, or come back marked or with a failing tag. -/
def State.virtGet (s : State) (b : BitVec 4) (c : Stage1) (va : Word) (n : Nat) : Option (List Byte) × State :=
  if 0xFE000000000000 ≤ va.toNat then (none, s)
  else match walkPage s b c 0 0 (va.toNat / 2 ^ 16) with
    | .error _ => (none, s)
    | .ok p =>
      let pa := p.pa + va.toNat % 2 ^ 16
      if !p.r || !s.there pa then (none, s)
      else
        let ((bs, bad), s) := s.homeGetBytes ⟨b, p.key, p.t, 1⟩ pa n
        if bad || (List.range ((n + 7) / 8)).any fun i => s.mem.marked (pa + 8 * i) then (none, s) else (some bs, s)

/-- Bytes within one page written at a virtual address by the command processor, or none. -/
def State.virtPut (s : State) (b : BitVec 4) (c : Stage1) (va : Word) (bs : List Byte) : Option State :=
  if 0xFE000000000000 ≤ va.toNat then none
  else match walkPage s b c 0 0 (va.toNat / 2 ^ 16) with
    | .error _ => none
    | .ok p =>
      let pa := p.pa + va.toNat % 2 ^ 16
      if !p.w || !s.there pa || (s.tensor (s.slotSeg p.key) p.t).shut then none
      else some (s.homePutBytes ⟨b, p.key, p.t, 1⟩ pa bs fun _ => false)

/-- The 64-bit words of some bytes. -/
def wordsIn (bs : List Byte) : List Word :=
  (List.range (bs.length / 8)).map fun i => BitVec.ofNat 64 (ofBytes ((bs.drop (8 * i)).take 8))

/-! ### Fields of packets and descriptors -/

def Packet.word (p : Packet) (n : Nat) : Word := p.words.toList.getD n 0
def Packet.ctx (p : Packet) : Stage1 := treeFor p.owner (p.word 0)
def Packet.isFence (p : Packet) : Bool := bits (p.word 0) 7 0 == 2
def Packet.flag (p : Packet) (n : Nat) : Bool := (p.word 0).getLsbD (8 + n)
def Packet.deadline (p : Packet) : Nat := (p.word 1).toNat
def Packet.cost (p : Packet) : Nat := bits (p.word 3) 31 0
def Packet.seq (p : Packet) : Nat := bits (p.word 3) 63 32
def Packet.prologue (p : Packet) : Word := p.word 6
/-- The word at a descriptor offset. -/
def Packet.kd (p : Packet) (off : Nat) : Word := p.desc.getD (off / 8) 0
def Packet.stages (p : Packet) : Nat := bits (p.kd 0x20) 47 32 + 1
def Packet.gangs (p : Packet) : Nat := bits (p.kd 0x20) 21 16
def Packet.lathN (p : Packet) : Nat := bits (p.kd 0x20) 30 28
def Packet.scratch (p : Packet) : Nat := bits (p.kd 0x28) 19 0
def Packet.spawn (p : Packet) : Nat := bits (p.kd 0x28) 47 32
def Packet.poolCount (p : Packet) : Nat := bits p.pre1 31 0
def Packet.repMax (p : Packet) : Nat := bits p.pre1 47 32

/-- The deadline that orders the packet in the heap and its records (R346, R373). -/
def Packet.order1 (p : Packet) : Nat := if p.best || p.deadline = 0 then 2 ^ 64 - 1 else p.deadline

/-- DIMS that a launch refuses (R369). -/
def dimsBad (d : Word) : Bool :=
  bits d 15 0 = 0 || bits d 31 16 = 0 || bits d 47 32 = 0 || 2 ^ 32 - 1 < perStage d

/-- The three parts of the grid area of a launch with some DIMS (R371): records, frames, tracking. -/
def Packet.areaParts (p : Packet) (dims : Word) : Nat × Nat × Nat :=
  let teams := p.stages * perStage dims
  (roundUp (64 * (teams + p.spawn)) 65536, roundUp (frameStride p.scratch * teams) 65536,
    roundUp (64 * p.poolCount) 65536)
def Packet.areaSize (p : Packet) (dims : Word) : Nat :=
  let (x, y, z) := p.areaParts dims
  x + y + z

/-- A breach of the field table (R368), but for PASID and SIGNAL. -/
def formatBad (p : Packet) : Bool :=
  let t := bits (p.word 0) 7 0
  let w0 := p.word 0
  (t != 1 && t != 2) || bits w0 15 12 != 0 || bits w0 63 44 != 0
    || (if t = 2 then
          bits w0 23 16 != 0 || p.word 1 != 0 || p.word 2 != 0 || p.cost != 0 || p.word 4 != 0 || p.word 5 != 0 || p.word 6 != 0
        else bits (p.word 2) 63 48 != 0 || bits (p.word 5) 5 0 != 0)

/-- A breach of the descriptor's table (R370). -/
def descBad (p : Packet) : Bool :=
  let x := p.kd 0x20
  let y := p.kd 0x28
  let persist := x.getLsbD 31
  bits x 10 0 < 96 || 1024 < bits x 10 0 || bits x 15 11 != 0 || p.gangs = 0 || 32 < p.gangs || bits x 23 22 != 0
    || (p.kd 0x18 != 0 && !x.getLsbD 24) || bits x 27 25 != 0 || 4 < p.lathN || (persist && p.stages != 1)
    || bits x 63 48 != 0 || 524288 < p.scratch || bits y 31 20 != 0 || bits y 63 48 != 0
    || bits (p.kd 0x30) 15 0 != 0 || bits (p.kd 0x38) 63 32 != 0
    || (persist && (p.kd 0x58 == 0 || bits (p.kd 0x58) 7 0 != 0 || bits (p.kd 0x50) 7 0 != 0))
    || (List.range 20).any fun i => p.kd (0x60 + 8 * i) != 0

/-- A launch whose preamble or pools do not fit (R371). -/
def poolBad (p : Packet) (poolSize : Nat) : Bool :=
  bits p.pre0 15 0 != 0 || bits p.pre1 63 48 != 0 || p.poolCount < p.gangs
    || (p.kd 0x18 != 0 && bits (p.kd 0x38) 31 0 = 0)
    || (p.prologue = 0 && poolSize < p.areaSize (p.word 2))

/-! ### Admission (R372, R373) -/

/-- The VF slots of a berth (R384): VF and slice, slot 0 first. -/
def State.slots (s : State) (b : BitVec 4) : List (Nat × Nat) :=
  let w := s.sysreg (dev (0x300 + b.toNat)) 0
  (List.range 4).map fun i => (bits w (16 * i + 15) (16 * i + 12), bits w (16 * i + 11) (16 * i))

/-- The members of Q, with ordering deadline and cost (R373). -/
def State.admittedQ (s : State) (b : BitVec 4) : List (Nat × Nat) :=
  (s.packets.filter fun p => p.berth == b && p.admitted && !p.best && p.phase < 5).map fun p => (p.order1, p.cost)

/-- Packets in Q or in the heap (R373). -/
def State.heldPackets (s : State) : List Packet :=
  s.packets.filter fun p => p.admitted && if p.best then p.phase == 0 else p.phase < 5

/-- Q and the heap are full (R373). -/
def State.heapFull (s : State) (b : BitVec 4) : Bool := 256 ≤ (s.heldPackets.filter (·.berth == b)).length

/-- The admission test of a deadline and cost. -/
def State.admits (s : State) (b : BitVec 4) (o : QOwner) (d c : Nat) : Bool :=
  let now := s.time
  let share := bits (s.sysreg (dev (0x280 + b.toNat)) 0) 15 0
  let total := (s.slots b).foldl (fun acc x => acc + x.2) 0
  let (num, den) : Nat × Nat := match o with
    | .vf v => if total = 0 then (1, 1)
      else (((s.slots b).filter fun (x : Nat × Nat) => x.1 == v.toNat).foldl (fun acc x => acc + x.2) 0, total)
    | .qi _ => (1, 1)
  let q : List (Nat × Nat) := s.admittedQ b
  share != 0 && now < d && ((d :: (q.map (·.1)).filter (d < ·)).all fun (e : Nat) =>
    ((q.filter fun x => x.1 ≤ e).foldl (fun acc x => acc + x.2) 0) + c ≤ share * num * (e - now) / (65536 * den))

/-! ### Taking a packet (R366 to R371) -/

/-- A refusal that writes no signal, recorded in REFUSED (R382, R383). -/
def State.recordRefusal (s : State) (o : QOwner) (seq : Nat) (code : Nat) : State :=
  let w := BitVec.ofNat 64 (seq * 2 ^ 32 + code)
  match o with
  | .vf v => s.modVf v fun x => { x with refused := w, refusals := x.refusals + 1 }
  | .qi i => s.modQi i fun x => { x with refused := w, refusals := x.refusals + 1 }

/-- The packet's queue has no earlier packet that is still to complete. -/
def State.earlierDone (s : State) (p : Packet) : Bool :=
  !s.packets.any fun x => x.owner == p.owner && x.nidx == p.nidx && x.id < p.id && x.phase < 5

/-- The slot that runs in a berth is the owner's, or the berth is not shared (R384). -/
def State.slotRuns (s : State) (b : BitVec 4) (o : QOwner) : Bool :=
  match o with
  | .qi _ => true
  | .vf v =>
    let slots := s.slots b
    slots.all (·.2 == 0) || match slots[(s.berth b).slot.toNat]? with
      | some x => x.1 == v.toNat && x.2 != 0
      | none => false

/-- The queues of the owner are served: its VF runs (R384) and is not in ERROR (R390). -/
def State.serves (s : State) (b : BitVec 4) (o : QOwner) : Bool :=
  s.slotRuns b o && match o with
    | .qi _ => true
    | .vf v => (s.vf v).tdi != .error

/-- The intermediate address of the next packet of a queue (R366). -/
def Queue.slot (q : Queue) : Nat := q.header.toNat + 256 + 64 * (q.rptr.toNat % 2 ^ q.log2n.toNat)

/-- The fault of a queue's pages with its address, if they cannot be reached: a key slot that is not owned, or an
address that does not translate (R367). -/
def State.queueFault (s : State) (q : Queue) : Option (BitVec 8 × Word) :=
  if !s.ownsKey q.berth q.key then some (0x26, q.header.setWidth 64)
  else if (s.iaOf q.berth q.header.toNat).isNone then some (0x25, q.header.setWidth 64)
  else if (s.iaOf q.berth q.slot).isNone then some (0x25, BitVec.ofNat 64 q.slot)
  else none

/-- A packet as it is read, before any check. -/
def freshPacket (s : State) (q : Queue) (ws : List Word) : Packet where
  id := s.nextPacket
  owner := q.owner
  nidx := q.nidx
  berth := q.berth
  words := Vector.ofFn fun i : Fin 8 => ws.getD i.val 0
  desc := []
  admitted := false
  best := false
  order := 0
  phase := 0
  dims := ws.getD 2 0
  repeats := false
  lim := false
  state := 0
  code := 0
  sub := 0
  detail1 := 0
  detail2 := 0
  lath := []
  grid := 0
  launchNo := 0
  pre0 := 0
  pre1 := 0
  rep := 0
  lost := none

/-- The next packet of a queue read: its words, whether the read fails its tag or is marked, and the
state after the read. -/
def State.peekPacket (s : State) (q : Queue) : (Packet × Bool) × State :=
  match s.iaOf q.berth q.slot with
  | none => ((freshPacket s q [], true), s)
  | some pa =>
    let ((bs, bad), s') := s.homeGetBytes ⟨q.berth, q.key, q.tslot, 1⟩ pa 64
    ((freshPacket s q (wordsIn bs), bad || (List.range 8).any fun i => s'.mem.marked (pa + 8 * i)), s')

/-- The packet may be taken now: room for a LAUNCH (R373), and no earlier packet before a BARRIER. -/
def State.takeable (s : State) (q : Queue) : Bool :=
  q.mapped && q.rptr.toNat < q.wptr.toNat && s.serves q.berth q.owner &&
    (match s.queueFault q with
      | some (c, va) => !s.asked q.berth c va
      | none =>
        let ((p, bad), _) := s.peekPacket q
        bad || ((!p.flag 1 || s.earlierDone p) && (p.isFence || !s.heapFull q.berth)))

/-- The queue mapped into a slot of its berth. Where none is free it takes the place of a queue with nothing to take, or,
where it has a packet to take, of one whose packets cannot be taken now, which is woken again; else none. -/
def State.mapQueue (s : State) (q : Queue) : Option State :=
  let mine := s.queues.filter fun x => x.berth == q.berth && x.mapped
  let go := fun (s : State) => s.modQueue q.owner q.nidx fun x => { x with mapped := true, pw := false }
  if mine.length < queueSlots then some (go s)
  else (mine.find? fun x => x.rptr == x.wptr || (s.takeable { q with mapped := true } && !s.takeable x)).map fun x =>
    go (s.unmapQueue x)

/-- The fault that a record names still holds a mapped queue of its berth (R367). -/
def State.queueHeld (s : State) (r : Record) : Bool :=
  s.queues.any fun q => q.mapped && q.berth == r.berth && r.sub == r.wake && s.queueFault q == some (r.cause, r.wake)

/-- A service record served by its pilot (R385): a queue woken is mapped; a fault of a queue's pages is served once they
can be reached (log 41), and its packets are tried again; a signal's asks for nothing; the rest as serve has it. -/
def State.pilotServe (s : State) (r : Record) : State :=
  if r.cause = 0xAC then
    let s' := s.modRecord r.id fun r => { r with live := false, queued := false }
    match s.queues.find? fun q => queueNum q.owner q.nidx == r.sub.toNat with
    | none => s'
    | some q => if q.mapped then s' else (s'.mapQueue q).getD s
  else if s.queueHeld r then s
  else s.serve r

/-- The packet with its place among the packets, ended with a refusal. -/
def refused (p : Packet) (code : BitVec 8) : Packet := { p with phase := 4, state := 2, code := code }

/-- The checks and admission of a packet that was read, in the order of R368 and after. -/
def State.judge (s : State) (q : Queue) (p : Packet) : State :=
  let keep := fun (s : State) (p : Packet) =>
    ({ s with packets := s.packets ++ [p], nextPacket := s.nextPacket + 1 } : State)
  if (stage1Root s p.ctx).isNone then s.recordRefusal p.owner p.seq 0xA6
  else if bits (p.word 7) 4 0 != 0 then s.recordRefusal p.owner p.seq 0xA0
  else if formatBad p then keep s (refused p 0xA0)
  else if p.isFence then keep s p
  else if bits (p.word 0) 23 20 < bits (p.word 0) 19 16 then keep s (refused p 0xA3)
  else if p.prologue = 0 && dimsBad (p.word 2) then keep s (refused p 0xA2)
  else
    let (kd, s) := if bits (p.word 4) 7 0 = 0 then s.virtGet p.berth p.ctx (p.word 4) 256 else (none, s)
    match kd with
    | none => keep s (refused p 0xA1)
    | some bs =>
      let p := { p with desc := wordsIn bs }
      if descBad p then keep s (refused p 0xA1)
      else
        let (pre, s) := s.virtGet p.berth p.ctx (p.word 5 - 16) 16
        match pre with
        | none => keep s (refused p 0xA4)
        | some bs =>
          let ws := wordsIn bs
          let p := { p with pre0 := ws.getD 0 0, pre1 := ws.getD 1 0 }
          if poolBad p q.poolSize.toNat then keep s (refused p 0xA4)
          else
            let n := (s.berth p.berth).admits
            let s' := s.modBerth p.berth fun b => { b with admits := b.admits + 1 }
            if p.deadline = 0 || s.admits p.berth p.owner p.deadline p.cost then
              keep s' { p with admitted := true, order := n }
            else if p.flag 0 then keep s' { p with admitted := true, best := true, order := n }
            else keep s (refused p 0xA5)

/-- One packet taken from a berth's queues, round-robin. -/
def execPacketTake (b : BitVec 4) (s : State) : Host.Outcome State Fault Refusal :=
  let br := s.berth b
  if br.state != 1 || !(s.sysreg (dev (0x380 + b.toNat)) 0).getLsbD 0 then .next s
  else
    let mine := s.queues.filter (·.berth == b)
    let qs := (List.range mine.length).filterMap fun i => (mine[i]?).map (i, ·)
    let ok := qs.filter fun x => s.takeable x.2
    match (match ok.find? fun x => br.turn ≤ x.1 with | some x => some x | none => ok.head?) with
    | none => .next s
    | some (i, q) =>
      let s := s.modBerth b fun x => { x with turn := i + 1 }
      match s.queueFault q with
      | some (c, va) => .next (s.ask b c va va)
      | none =>
        let ((p, bad), s) := s.peekPacket q
        let s := s.modQueue q.owner q.nidx fun q => { q with rptr := q.rptr + 1 }
        let s := match s.iaOf b q.header.toNat with
          | some pa => s.homePut ⟨b, q.key, q.tslot, 1⟩ pa 0xFF (q.rptr + 1) false none
          | none => s
        if bad then
          let (n, s) := s.takeFree
          .next (s.recordRefusal q.owner (bits (Config.freeWord n) 31 0) 0xA0)
        else .next (s.judge q p)

/-! ### Launches (R34, R371, R374) -/

/-- The lowest place for an area in a pool of which intervals are taken. -/
def roomIn (used : List (Nat × Nat)) (total need : Nat) : Option Nat :=
  let fits := fun (c : Nat) => c + need ≤ total && used.all fun u => c + need ≤ u.1 || u.1 + u.2 ≤ c
  match (0 :: used.map fun u => u.1 + u.2).filter fits with
  | [] => none
  | c :: cs => some (cs.foldl min c)

/-- The grid of a packet made with its area at a place of the queue's pool, and stage 0 queued. -/
def State.launch (s : State) (p : Packet) (q : Queue) (start : Nat) : State :=
  let dims := p.dims
  let per := perStage dims
  let (recs, _, _) := p.areaParts dims
  let area := q.poolBase.toNat + start
  let br := s.berth p.berth
  let best := p.best
  let level : BitVec 8 := if best then 0 else BitVec.ofNat 8 (bits (p.word 0) 19 16)
  let ceil : BitVec 8 := if best then 0 else BitVec.ofNat 8 (bits (p.word 0) 23 20)
  let g : Grid := {
    id := s.nextGrid, packet := p.id, berth := p.berth
    vf := match p.owner with | .vf v => v | .qi _ => 0
    ctx := p.ctx, dims := dims, stages := p.stages, gangsPer := p.gangs, nslots := (p.kd 0x20).extractLsb' 0 11
    scratch := p.scratch, quad := (p.kd 0x20).getLsbD 24, persist := (p.kd 0x20).getLsbD 31
    entry := p.kd 0, trapent := p.kd 8, emuent := p.kd 0x10, tileent := p.kd 0x18, args := p.word 5
    level := level, ceil := ceil, deadline := BitVec.ofNat 64 p.order1, launchNo := br.launches, gid := BitVec.ofNat 64 br.launches
    poolBase := p.pre0, poolCount := p.poolCount, usedCtx := [], area := area, areaSize := p.areaSize dims
    frames := area + recs, spawnSize := p.spawn, spawnGens := []
    mfBase := p.kd 0x30, mfCount := bits (p.kd 0x38) 31 0
    tiles := bits (p.kd 0x40) 31 0, kper := bits (p.kd 0x40) 63 32, fixent := p.kd 0x48, fbase := p.kd 0x50
    fsize := (p.kd 0x58).toNat, lath := p.lath, left := per, flushed := false, killed := false
    lostAddr := none }
  let team := fun (n : Nat) => ({
    id := s.nextTeam + n, grid := g.id, t := BitVec.ofNat 32 (n % per), stage := BitVec.ofNat 16 (n / per)
    placed := none, lastCore := 0, scratch := Mem.empty, frame := g.frames + frameStride p.scratch * n, gen := 0
    arrived := [], qarrived := [], gangs := [], count := 0, signalled := false, swapped := false, waitSince := none
    qwaitSince := none, streamed := false, swapWanted := false, blocked := false, ended := false, cursor := none, mxFrame := none, suspended := none } : Team)
  let record := fun (n : Nat) => ({
    id := s.nextRecord + n, kind := if n < per then 1 else 2, lvl := level, join := if n < per then 0 else 1
    stg := BitVec.ofNat 16 (n / per), frame := BitVec.ofNat 64 (g.frames + frameStride p.scratch * n), code := g.entry
    wake := 0, berth := p.berth, grid := g.id, team := s.nextTeam + n, agent := 0, queued := false, seq := 0
    since := s.clk, due := none, index := p.spawn + n, gen := 0, joins := if n < per then 0 else 1, tile := 0, live := true
    cause := 0, sub := 0 } : Record)
  let n := p.stages * per
  let first := s.nextRecord
  let s : State := { s with
    grids := s.grids ++ [g], teams := s.teams ++ (List.range n).map team
    records := s.records ++ (List.range n).map record
    nextGrid := s.nextGrid + 1, nextTeam := s.nextTeam + n, nextRecord := s.nextRecord + n }
  let s := s.modBerth p.berth fun b => { b with launches := b.launches + 1 }
  let s := s.modQueue q.owner q.nidx fun q => { q with poolUsed := q.poolUsed ++ [(start, g.areaSize)] }
  let s := s.modPacket p.id fun p => { p with phase := 3, grid := g.id, launchNo := g.launchNo }
  -- no core fetches what it cached before the launch (R135)
  let s : State := { s with cores := s.cores.map fun c => if s.coreIn p.berth c.1 then (c.1, { c.2 with icache := [] }) else c }
  let s := (List.range n).foldl (fun (s : State) (i : Nat) => s.storeRecord (first + i)) s
  (List.range per).foldl (fun (s : State) (i : Nat) => s.enqueue (first + i)) s

/-- The free lath channels of a berth's index, lowest first (R374). -/
def State.freeLath (s : State) (b : BitVec 4) : List Nat :=
  ((List.range 4).map (4 * b.toNat + ·)).filter fun c => !(s.channel c).en

/-- The launch engine of a berth runs no prologue (R374, R375). -/
def State.engineFree (s : State) (b : BitVec 4) : Bool :=
  match s.agent (32 + b.toNat) with
  | some a => a.run == .off
  | none => true

/-- A prologue run begun (R375). -/
def State.startPrologue (s : State) (p : Packet) : State :=
  let a := Agent.init (32 + p.berth.toNat) .launch
  let a := { a with
    run := .active, pc := p.prologue, berth := p.berth, packet := p.id, rerun := p.rep
    sreg := ((a.sreg.setIfInBounds 0 (p.word 5)).setIfInBounds 1 (p.rep.setWidth 64)).setIfInBounds 2 p.dims }
  (s.modPacket p.id fun p => { p with phase := 1 }).setAgent a

/-- The lath channels that a packet asks for taken (R374). -/
def State.takeLath (s : State) (p : Packet) : State :=
  let cs := (s.freeLath p.berth).take p.lathN
  let s := cs.foldl (fun s c => s.modChannel c fun x => { x with en := true, packet := p.id }) s
  s.modPacket p.id fun p => { p with lath := cs }

/-- The packet waits for its re-run: its grid has ended, and the engine has not begun (R376). -/
def State.awaitsRerun (s : State) (p : Packet) : Bool :=
  p.phase == 1 && !(match s.agent (32 + p.berth.toNat) with
    | some a => a.packet == p.id && a.run != .off
    | none => false)

/-- What starts a packet now, if everything it needs is free. -/
def State.tryStart (s : State) (p : Packet) : Option State :=
  if !s.slotRuns p.berth p.owner then none
  else if p.phase = 1 then
    if s.awaitsRerun p && s.engineFree p.berth then some (s.startPrologue p) else none
  else if p.phase = 2 then
    match s.queueOf p.owner p.nidx with
    | some q => (roomIn q.poolUsed q.poolSize.toNat (p.areaSize p.dims)).map (s.launch p q)
    | none => none
  else if (s.freeLath p.berth).length < p.lathN then none
  else if p.prologue != 0 then
    if s.engineFree p.berth then some ((s.takeLath p).startPrologue p) else none
  else match s.queueOf p.owner p.nidx with
    | none => none
    | some q => (roomIn q.poolUsed q.poolSize.toNat (p.areaSize p.dims)).map fun at_ =>
        let s := s.takeLath p
        match s.packetOf p.id with
        | some p => s.launch p q at_
        | none => s

/-- The packet with the smallest ordering deadline, and among equals the one admitted first. -/
def firstPacket : List Packet → Option Packet
  | [] => none
  | p :: ps => some (ps.foldl (fun acc x =>
      if x.order1 < acc.order1 || (x.order1 == acc.order1 && x.order < acc.order) then x else acc) p)

/-- The first of the packets that can be started now: committed grids and re-runs before the heap. -/
def execHeapStart (b : BitVec 4) (s : State) : Host.Outcome State Fault Refusal :=
  if (s.berth b).state != 1 then .next s
  else
    let can := s.packets.filter fun p => p.berth == b && p.admitted && p.phase < 3 && (s.tryStart p).isSome
    match (match firstPacket (can.filter (·.phase != 0)) with | some p => some p | none => firstPacket can) with
    | none => .next s
    | some p => .next ((s.tryStart p).getD s)

/-! ### LNCH (R376) -/

/-- A commit of DIMS by the launch engine: its run is over, and the packet waits for room. -/
def State.commit (s : State) (dims : Word) (again : Bool) : State :=
  let a := s.cur
  let s := { s with cur := { a with run := .off } }
  match s.packetOf a.packet with
  | none => s
  | some p =>
    if bits dims 63 48 != 0 || dimsBad dims then s.endPacket p.id 3 0xA2 0 0 0
    else
      let lim := again && p.repMax ≤ a.rerun.toNat
      let s := s.modPacket p.id fun x => { x with dims := dims, repeats := again && !lim, lim := x.lim || lim, phase := 2 }
      match s.queueOf p.owner p.nidx with
      | some q => if q.poolSize.toNat < p.areaSize dims then s.endPacket p.id 2 0xA4 0 0 0 else s
      | none => s

def execPcommit (a : Reg) (s : State) : Host.Outcome State Fault Refusal :=
  unit (wordT 77 0 a 0 0) (fun u => do
    release
    modify fun s => s.commit (lane u.va 0) false) s
def execPcancel (a : Reg) (s : State) : Host.Outcome State Fault Refusal :=
  unit (wordT 77 0 a 0 1) (fun u => do
    release
    modify fun s => s.cancelPrologue ((lane u.va 0).setWidth 8)) s
def execPrepeat (a : Reg) (s : State) : Host.Outcome State Fault Refusal :=
  unit (wordT 77 0 a 0 2) (fun u => do
    release
    modify fun s => s.commit (lane u.va 0) true) s

/-! ### The end of a grid and of a packet (R44, R314, R376, R377, R378) -/

/-- Writes or operations of a grid that are still under way, a lath result that all have arrived for among them. -/
def State.gridBusy (s : State) (g : Nat) : Bool :=
  s.pend.any (·.grid == g)
    || (match s.gridOf g with
      | some x => x.lath.any fun c => (s.channel c).inst.any fun i => i.full && !i.complete
      | none => false)
    || s.clusters.any (fun c => c.2.copies.any (fun o => s.inGrid o.team g) || c.2.mx.ops.any (·.grid == g))

/-- The last team of a grid's last stage has retired (R43). What an earlier stage still runs is ended (log 82): copies with
a range in its scratchpads are brought to their end first, and every copy and every drain into memory that the grid has
issued is performed (R44). Once every write of the grid is performed its entries and its area are freed, and its
prologue runs again or its packet waits for its signal. An address lost on the way stands with the packet (R378). -/
def execGridEndFlush (n : Nat) (s : State) : Host.Outcome State Fault Refusal :=
  match s.gridOf n with
  | none => .next s
  | some g =>
    if g.flushed || g.left != 0 then .next s
    else if !g.killed && s.teams.any (fun t => t.grid == n && !t.ended) then 
      let late := fun (t : Team) => t.grid == n && !t.ended
      .next ((s.settleCopies fun o => o.touches s late).endTeams n true late)
    else if s.gridBusy n then .next s
    else
      let s := (s.releaseEntries n).modGrid n fun x => { x with flushed := true }
      let s := g.lath.foldl (fun s c => (s.unlock (lathOwner c)).modChannel c Channel.clear) s
      match s.packetOf g.packet with
      | none => .next s
      | some p =>
        let start := match s.queueOf p.owner p.nidx with
          | some q => g.area - q.poolBase.toNat
          | none => 0
        let s := s.modQueue p.owner p.nidx fun q => { q with poolUsed := q.poolUsed.filter fun u => u.1 != start }
        let s := s.modPacket p.id fun p => { p with lost := p.lost.orElse fun _ => g.lostAddr }
        if g.killed || p.phase != 3 then .next s
        else if p.repeats then .next (s.modPacket p.id fun p => { p with phase := 1, repeats := false, rep := p.rep + 1 })
        else .next (s.endPacket p.id 1 0 0 0 0)

/-- The lath channels of a packet free again (R286, R374). -/
def State.freePacketLath (s : State) (p : Packet) : State :=
  (p.lath.filter fun c => (s.channel c).packet == p.id).foldl (fun s c =>
    s.modChannel c fun x => { x.clear with en := false, packet := 0 }) s

/-- The interrupt message of a queue (R377, R382). -/
def State.interrupt (s : State) (p : Packet) : State :=
  match s.queueOf p.owner p.nidx with
  | none => s
  | some q => match p.owner with
    | .vf v => { s with irqs := .vector v q.vector :: s.irqs }
    | .qi i =>
      match find? (2048 * i.toNat + q.vector.toNat) s.remap with
      | some (true, owner, addr, data) =>
        if owner == (p.word 0).extractLsb' 24 20 then { s with irqs := .remapped addr data :: s.irqs }
        else s.modQi i fun x => { x with dropped := x.dropped + 1 }
      | _ => s.modQi i fun x => { x with dropped := x.dropped + 1 }

/-- STATUS, DETAIL0, DETAIL1 and DETAIL2 of a packet that has ended. -/
def State.signalBytes (s : State) (p : Packet) : List Byte :=
  let late := p.state == 1 && p.code == 0 && p.deadline != 0 && p.deadline < s.time
  -- items 5 and 6 of R378
  let lost := if p.state == 1 && p.code == 0 then p.lost else none
  let code := if lost.isSome then 0x2B else if late then 0xAD else p.code.toNat
  let status := p.seq * 2 ^ 32 + p.sub.toNat * 2 ^ 24 + p.lim.toNat * 2 ^ 16 + p.state.toNat * 2 ^ 8 + code
  toBytes 8 status ++ toBytes 8 p.rep.toNat ++ toBytes 8 (lost.getD p.detail1).toNat ++ toBytes 8 p.detail2.toNat

/-- The signal of a packet that has ended, or of a fence whose earlier packets have completed. A grid
that was ended signals after its writes are performed. -/
def execCompletionSignal (n : Nat) (s : State) : Host.Outcome State Fault Refusal :=
  match s.packetOf n with
  | none => .next s
  | some p =>
    let flushed := match s.gridOf p.grid with
      | some g => g.flushed
      | none => true
    let p : Packet := if p.phase = 0 && p.isFence && s.earlierDone p then { p with phase := 4, state := 1 } else p
    if p.phase != 4 || !flushed then .next s
    else
      let bs := s.signalBytes p
      let va := p.word 7
      let put := fun (s : State) (off : Nat) => s.virtPut p.berth p.ctx (va + BitVec.ofNat 64 off) ((bs.drop off).take 8)
      -- the four words lie in one page: where the first can be written, all can
      let s' := match ((put s 8).bind fun s1 => (put s1 16).bind fun s2 => (put s2 24).bind fun s3 => put s3 0) with
        | none => s.ask p.berth 0xAB va (BitVec.ofNat 64 p.id)
        | some s' => if p.flag 2 then s'.interrupt p else s'
      .next ((s'.freePacketLath p).modPacket n fun x => { x with phase := 5, state := p.state })

/-! ### Cancellation (R380, R400) -/

/-- A packet or its grid cancelled with a code: nothing is launched from the heap or a prologue, and a
running grid ends. A packet that has ended and waits for its signal is cancelled too, unless it was refused (R378). -/
def State.cancelPacket (s : State) (p : Packet) (code : BitVec 8) : State :=
  if p.phase = 3 then s.endGrid p.grid 4 code 0 0 0
  else if p.phase < 3 then
    let s := if p.phase = 1 && !s.awaitsRerun p then
        s.modAgent (32 + p.berth.toNat) fun a => { a with run := .off }
      else s
    s.endPacket p.id 3 code 0 0 0
  else if p.phase = 4 && p.state != 2 && !(p.code == 0xA9 || p.code == 0xAA) then s.modPacket p.id fun x =>
    { x with state := if p.state = 3 then 3 else 4, code := code, sub := 0, detail1 := 0, detail2 := 0 }
  else s

/-- A cancellation, recorded while the berth is quiescing or quiesced. -/
def State.cancel (s : State) (p : Packet) (code : BitVec 8) : State :=
  let st := (s.berth p.berth).state
  if st = 2 || st = 3 then s.modBerth p.berth fun b => { b with cancels := b.cancels ++ [(p.id, code)] }
  else s.cancelPacket p code

/-- A SEQ written at offset 0x008 of a notify page. -/
def State.cancelSeq (s : State) (o : QOwner) (n : BitVec 10) (seq : Nat) : State :=
  (s.packets.filter fun p => p.owner == o && p.nidx == n && p.admitted && p.phase < 5 && p.seq == seq).foldl
    (fun s p => s.cancel p 0xAA) s

/-- A write of 8 bytes to a notify page: WPTR, or with c a SEQ to cancel. -/
def State.notify (s : State) (o : QOwner) (n : BitVec 10) (c : Bool) (v : Word) : State :=
  if c then s.cancelSeq o n (bits v 31 0) else s.wakeAt o n v

/-- The cancellations recorded while a berth was stopped, performed once its STATE is 1 again (R400). -/
def State.recorded (s : State) (b : BitVec 4) : State :=
  let x := s.berth b
  if x.state != 1 then s
  else x.cancels.foldl (fun s c => match s.packetOf c.1 with
    | some p => s.cancelPacket p c.2
    | none => s) (s.modBerth b fun x => { x with cancels := [] })

/-- The deadline of a packet with KILL set has come. -/
def execDeadlineCancel (n : Nat) (s : State) : Host.Outcome State Fault Refusal :=
  match s.packetOf n with
  | none => .next s
  | some p =>
    if p.admitted && p.phase < 5 && p.flag 3 && p.deadline != 0 && p.deadline ≤ s.time
        && !(s.berth p.berth).cancels.any (·.1 == p.id) && !(p.phase == 4 && (p.state == 2 || p.code == 0xA9 || p.code == 0xAA)) then .next (s.cancel p 0xA9)
    else .next s

/-! ### Slices of VFs (R384) -/

/-- The VF whose grid or queue this is, if it is a VF's. -/
def State.vfOfGrid (s : State) (g : Nat) : Option (BitVec 4) :=
  (s.gridOf g).bind fun g => (s.packetOf g.packet).bind fun p => match p.owner with
    | .vf v => some v
    | .qi _ => none

/-- The VF has a ready record, a packet or a prologue in the berth, or a gang that runs. -/
def State.vfWork (s : State) (b : BitVec 4) (v : Nat) : Bool :=
  let mine := fun (o : QOwner) => match o with | .vf x => x.toNat == v | .qi _ => false
  s.records.any (fun r => r.live && r.queued && r.berth == b && (s.vfOfGrid r.grid).any (·.toNat == v))
    || s.queues.any (fun q => q.berth == b && q.mapped && mine q.owner && q.rptr.toNat < q.wptr.toNat)
    || s.packets.any (fun p => p.berth == b && mine p.owner && p.admitted && p.phase < 3)
    || s.all.any (fun a => a.prof == .full && a.berth == b && a.inSlot && (s.vfOfGrid a.grid).any (·.toNat == v))

/-- The caches of a berth's cores emptied: every L1 word home and invalid, and its TLBs (R384, R394). -/
def State.emptyCaches (s : State) (b : BitVec 4) : State :=
  { s with
    cores := s.cores.map fun c => if s.coreIn b c.1 then (c.1, { c.2 with l1 := [] }) else c
    owners := s.owners.filter fun x => !s.coreIn b x.2 }

/-- The harbourmaster, or the standby in its place, runs (R385). -/
def State.harboured (s : State) : Bool := [16, 17].any fun g => (s.agent g).any (·.run != .off)

/-- The end of a slice, which pauses while the standby takes over (R385): the next slot in turn that has work runs, and the outgoing VF's teams leave. -/
def execSliceEnd (b : BitVec 4) (s : State) : Host.Outcome State Fault Refusal :=
  let br := s.berth b
  let slots := s.slots b
  if br.state != 1 || slots.all (·.2 == 0) || s.clk < br.sliceEnd || !s.harboured then .next s
  else
    let cur := br.slot.toNat
    let turn := (List.range 4).map fun i => (cur + 1 + i) % 4
    let used := turn.filter fun i => match slots[i]? with | some x => x.2 != 0 | none => false
    let next := ((used.find? fun i => match slots[i]? with | some x => s.vfWork b x.1 | none => false)).getD
      (if used.contains cur then cur else used.headD cur)
    let len := match slots[next]? with | some x => 70000 * x.2 | none => 0
    let vfAt := fun (i : Nat) => match slots[i]? with | some x => x.1 | none => 16
    let s := if vfAt next = vfAt cur then s
      else
        let out := fun (g : Nat) => match s.vfOfGrid g with
          | some v => v.toNat != vfAt next
          | none => false
        let s := s.swapOutWhere fun t => (match s.gridOf t.grid with | some g => g.berth == b | none => false) && out t.grid
        let s := s.settleCopies fun o => o.berth == b && match s.teamOf o.team with
          | some t => out t.grid
          | none => false
        let s := s.emptyCaches b
        { s with tlb := s.tlb.filter (·.berth != b) }
    .next (s.modBerth b fun x => { x with slot := BitVec.ofNat 2 next, sliceEnd := s.clk + len })

end Sys2Proof.Machine
end

