-- ==== Sys2Proof/Machine/Matrix.lean ====
section
/-!
DEFINITION. The matrix engine and its tile sequencer (spec/14_matrix_engine.md): tiles and their
handles, MMA with its segments and check channel, MXC, and drains.
-/

namespace Sys2Proof.Machine

/-! ### Tiles (R325, R328) -/

/-- Lines, and elements K, of a tile. -/
def Tile.lines (t : Tile) : Nat := if t.lines256 then 256 else 128
def Tile.k (t : Tile) : Nat := 256 * 2 ^ t.ksel.toNat
/-- Element width of a tile's format. -/
def Tile.w (t : Tile) : Nat := qFormat t.fmt.toNat
/-- Panels of a tile: panel row and K chunk. -/
def Tile.panels (t : Tile) : List (Nat × Nat) :=
  (List.range (t.lines / 128)).flatMap fun m => (List.range ((t.k + 1023) / 1024)).map (m, ·)
/-- Address of a panel. -/
def Tile.panelAt (t : Tile) (m c : Nat) : Nat := t.base + m * t.mstride + c * t.kstride

/-- A descriptor's tile, none where its eight words break R325. -/
def Tile.of (w : Nat → Word) : Option Tile :=
  let t : Tile := ⟨(w 0).toNat, bits (w 1) 63 32, bits (w 1) 31 0, (w 2).extractLsb' 4 2, (w 2).getLsbD 3, (w 2).extractLsb' 0 3⟩
  if bits (w 0) 7 0 != 0 || bits (w 0) 63 56 != 0 || t.mstride % 256 != 0 || (!t.lines256 && t.mstride != 0)
      || t.kstride % 256 != 0 || (t.ksel != 3 && t.kstride != 0) || bits (w 2) 63 6 != 0 || 2 < t.fmt.toNat
      || !([3, 4, 5, 6, 7].all fun i => w i == 0) then none
  else some t

/-- The descriptor at an address read as a load of 64 bytes, and the checks of its tile's panels (R328). -/
def readTile (va : Word) : Act Tile := do
  let ts ← checkAccesses [(0, va)] .read 64 false
  let s ← get
  let a := s.cur
  match ts with
  | [] => trapFree 0x71
  | t :: _ =>
    if s.pend.any fun p => p.agent == a.id && p.meets t.pa 64 then hold .operand
    let r := (List.range 8).foldl (fun (acc : List Word × Bool × State) i =>
      let (x, s) := acc.2.2.homeGet ⟨(acc.2.2.treeOf a).1, t.key, t.t, 1⟩ (t.pa + 8 * i)
      (acc.1 ++ [x.1], acc.2.1 || x.2.1 || x.2.2, s)) ([], false, s)
    set r.2.2
    if r.2.1 then trap 0x28 1
    match Tile.of fun i => r.1.getD i 0 with
    | none => trapFree 0x71
    | some tile =>
      let spans := tile.panels.map fun p =>
        (⟨BitVec.ofNat 64 (tile.panelAt p.1 p.2), panelMax tile.w, false, 1⟩ : Span)
      let _ ← checkSpans spans (fun _ => false) fun _ p => if isHbm p.pa then none else some 0x76
      return tile

/-- The panels' ranges as source locks (R328). -/
def tileLocks (s : State) (a : Agent) (op : Nat) (t : Tile) : List RangeLock :=
  t.panels.map fun p => spanLock s a op ⟨BitVec.ofNat 64 (t.panelAt p.1 p.2), panelMax t.w, false, 1⟩

/-- A tile fetch accepted in the sequencer's cluster: its entry and locks taken (R328). -/
def State.acceptTile (s : State) (t : Tile) : State × Nat × Entry :=
  let a := s.cur
  let c := a.id - 64
  let k := s.cluster c
  let op := s.nextOp
  let (k, e) := k.take (k.freeEntry.getD 0) op .tile 0 0 a.grid a.team (some t)
  ({ s.setCluster c { k with locks := k.locks ++ tileLocks s a op t } with nextOp := op + 1 }, 64 * c + e.idx, e)

/-- Entries and locks are free for some tiles. -/
def Cluster.tilesFit (c : Cluster) (ts : List Tile) : Bool :=
  c.locksFit (ts.foldl (fun acc t => acc + t.panels.length) 0)
    && decide (ts.length ≤ ((List.range 64).filter fun i => !c.table.any fun e => e.idx == i && e.st != .free).length)

/-- The engine of a cluster is stopped: its berth is quiescing or quiesced (R394). -/
def State.mxStopped (s : State) (c : Nat) : Bool :=
  (List.range 16).any fun b => s.coreIn (BitVec.ofNat 4 b) (4 * c) && ((s.berth (BitVec.ofNat 4 b)).state == 2 || (s.berth (BitVec.ofNat 4 b)).state == 3)

/-- Events of the matrix and tile units go to the sequencer that holds a quad (R320, R341, R342). -/
def State.mxEvent (s : State) (quad : Option Nat) : State :=
  match s.clusters.find? fun x => quad.isSome && x.2.mx.quad == quad with
  | none => s
  | some (c, _) => s.readyAll fun a w => a.id == 64 + c && (w == .matrix || w == .event || w == .engines)

def execTfetch (d a : Reg) (s : State) : Host.Outcome State Fault Refusal :=
  unit (wordT 74 d a 0 0) (fun u => do
    let t ← readTile (lane u.va 0)
    release
    let s ← get
    if !(s.cluster (s.cur.id - 64)).tilesFit [t] then hold .matrix
    let (s, _, e) := s.acceptTile t
    set s
    writeScalar (u.d - 96) (handleOf s s.cur (s.cur.id - 64) e)) s

def execTunpin (a : Reg) (s : State) : Host.Outcome State Fault Refusal :=
  unit (wordT 74 0 a 0 1) (fun u => do
    let s ← get
    match handleEntry s s.cur (lane u.va 0) with
    | none => trapFree 0x64
    | some (c, e) =>
      if e.kind != .tile then trapFree 0x70
      modify fun s =>
        if e.st == .draining then s.modCluster c (·.setEntry { e with dying := true })
        else s.freeEntryOf c e.idx) s

/-- A sequencer held at a TFETCH or MMA tries again (R328, R330). -/
def retryMatrix (c : BitVec 6) (s : State) : State :=
  match s.agent (64 + c.toNat) with
  | some a => if a.waits == some .matrix then s.ready a.id else s
  | none => s

def execTfetchAccept (c : BitVec 6) (s : State) : Host.Outcome State Fault Refusal := .next (retryMatrix c s)
def execMmaAccept (c : BitVec 6) (s : State) : Host.Outcome State Fault Refusal := .next (retryMatrix c s)

/-! ### Streams (R328, R331) -/

/-- A byte of a streamed line and whether it is poisoned. -/
abbrev StreamByte := Byte × Bool

/-- What a stream gives: its bytes; or nothing yet, with the cause and the address of a stage-2 failure that
holds the engine, or while no walker is free or a stack refuses requests (R27). -/
abbrev Streamed (α : Type) := Except (Option (BitVec 8 × Nat)) α

/-- Lines read at their homes, translated for the sequencer through its TLBs (R328). A line whose stage-1
translation fails, or that its tables no longer let it read, is poisoned, as is one whose error persists, and the
pilot hears of it; of a line whose tag fails nothing is read (R409). -/
def streamLines (a : Agent) (err : List Nat) : List Nat → State → Streamed (List StreamByte) × State
  | [], s => (.ok [], s)
  | l :: ls, s =>
    let dead := List.replicate 64 ((0, true) : StreamByte)
    let (bs, s) : Streamed (List StreamByte) × State := match s.translate a (64 * l / 2 ^ 16) with
      | (none, s) => (.error none, s)
      | (some (.error .s1), s) => (.ok dead, s.note 0x29 a.id (BitVec.ofNat 64 (64 * l)))
      | (some (.error e), s) => (.error (some (e.cause, 64 * l)), s)
      | (some (.ok p), s) =>
        let pa := p.pa + 64 * l % 2 ^ 16
        if !p.r then (.ok dead, s.note 0x29 a.id (BitVec.ofNat 64 (64 * l)))
        else if !s.there pa then (.error (some (0x25, 64 * l)), s)
        else if s.refuses pa then (.error none, s)
        else
          let r : Req := ⟨(s.treeOf a).1, p.key, p.t, 1⟩
          let (s, bad) := (s.count r pa false).openLine r pa
          let e := err.contains (pa / 64)
          let s := if e then s.note 0x29 a.id (BitVec.ofNat 64 pa) else s
          (.ok (if bad then dead else (List.range 64).map fun i => (s.mem.byte (pa + i), e || s.mem.marked (pa + i))), s)
    match bs with
    | .error e => (.error e, s)
    | .ok bs => match streamLines a err ls s with
      | (.error e, s) => (.error e, s)
      | (.ok rest, s) => (.ok (bs ++ rest), s)

/-- What a stream that cannot go on yet leaves: the walks it has asked for. -/
def State.askedBy (s t : State) : State := { s with walks := t.walks }

/-- The failures of an engine's walks met: its next access walks again. -/
def State.forgetAll (s : State) (g : Nat) : State := s.modAgent g fun a => { a with xfail := [] }

/-- The n bytes from va. -/
def streamBytes (a : Agent) (err : List Nat) (va n : Nat) (s : State) : Streamed (List StreamByte) × State :=
  let r := streamLines a err (linesIn va (va + n)) s
  (r.1.map fun bs => (bs.drop (va % 64)).take n, r.2)

/-- A panel's bitmap with bit 0 as one, and whether it is poisoned (R97, R331). -/
def panelMap (bs : List StreamByte) : Nat × Bool := (ofBytes (bs.map (·.1)) ||| 1, bs.any (·.2))

/-- Granules of a chunk at which a block begins. -/
def blockStarts (bbm : Nat) : List Nat := (List.range 64).filter bbm.testBit

/-- What a segment reads of one operand: for each line, the scale's value, none when it is poison, and
the elements from k0 to k1 − 1 of its chunk. -/
abbrev TileRows := List (Option (Nat × Int) × List (Option Int))

/-- Code of element k of a line's bytes, read from byte from_ on, at width w. -/
def codeAt (w : Nat) (bs : List StreamByte) (bit : Nat) : Nat × Bool :=
  let q := qWidth w
  let xs := (bs.drop (bit / 8)).take ((q + 7) / 8)
  (ofBytes (xs.map (·.1)) >>> (bit % 8) % 2 ^ q, xs.any (·.2))

/-- The elements from k0 to k1 − 1 of the lines of a panel, line by line (R96, R331): at is where the panel's
elements begin, and scales gives the scale of each line. -/
def panelRows (a : Agent) (err : List Nat) (w at_ e0 n : Nat) (scale : Nat → Option (Nat × Int)) (bad : Bool) :
    List Nat → State → Streamed TileRows × State
  | [], s => (.ok [], s)
  | i :: is, s =>
    let q := qWidth w
    let lo := e0 * q / 8
    match streamBytes a err (at_ + panelW w * i + lo) ((e0 + n) * q / 8 - lo) s with
    | (.error e, s) => (.error e, s)
    | (.ok els, s) =>
      let row := (List.range n).map fun k =>
        let y := codeAt w els (q * k)
        if bad || y.2 then none else qVal w y.1
      match panelRows a err w at_ e0 n scale bad is s with
      | (.error e, s) => (.error e, s)
      | (.ok rows, s) => (.ok ((scale i, row) :: rows), s)

/-- The rows of a tile for elements k0 to k1 − 1 of a segment within one chunk, panel by panel (R96, R331). -/
def tileRows (a : Agent) (err : List Nat) (t : Tile) (k0 k1 : Nat) : List Nat → State → Streamed TileRows × State
  | [], s => (.ok [], s)
  | m :: ms, s =>
    let base := t.panelAt m (k0 / 1024)
    let e0 := k0 % 1024
    match streamBytes a err base 8 s with
    | (.error e, s) => (.error e, s)
    | (.ok bs, s) =>
    let (bbm, bad) := panelMap bs
    let starts := blockStarts bbm
    let stride := 8 * ((starts.length + 7) / 8)
    let blk := (starts.filter (· ≤ e0 / 16)).length - 1
    match streamBytes a err (base + 8) (128 * stride) s with
    | (.error e, s) => (.error e, s)
    | (.ok scales, s) =>
    let scale := fun i =>
      let sc := scales.getD (stride * i + blk) (0, true)
      if bad || sc.2 then none else se8Val sc.1.toNat
    match panelRows a err t.w (base + 256 * ((8 + 128 * stride + 255) / 256)) e0 (k1 - k0) scale bad (List.range 128) s with
    | (.error e, s) => (.error e, s)
    | (.ok rows, s) => match tileRows a err t k0 k1 ms s with
      | (.error e, s) => (.error e, s)
      | (.ok rest, s) => (.ok (rows ++ rest), s)

/-- The end of the segment that begins at element k0 (R332), from the bitmaps of both operands. -/
def segmentLimit (k0 k : Nat) (a b : List Nat) (limit : Nat) : Nat :=
  let c := k0 / 1024 * 1024
  let cuts := ((a ++ b).map fun g => c + 16 * g).filter (k0 < ·)
  (cuts ++ [c + 1024, k, k0 + limit]).foldl min (c + 1024)

/-- Products that a segment may hold by format (R332). -/
def productLimit (fmt : BitVec 2) : Nat := match fmt.toNat with
  | 1 => 65536
  | 2 => 128
  | _ => 32768

/-- The contribution of a segment to one cell: none when it is poisoned (R331). -/
def cellSum (x y : Option (Nat × Int) × List (Option Int)) : Option Int :=
  match x.1, y.1 with
  | some (m, e), some (n, f) =>
    ((x.2.zip y.2).foldl (fun (acc : Option Int) p => match acc, p.1, p.2 with
      | some v, some a, some b => some (v + a * b)
      | _, _, _ => none) (some 0)).map fun v => v * (m * n) * 2 ^ (e + f + 36).toNat
  | _, _ => none

/-- Non-zero cells with contributions added, both in rising order; the sum is modulo 2^128. -/
def mergeCells : Nat → List (Nat × BitVec 128) → List (Nat × Int) → List (Nat × BitVec 128)
  | 0, cs, _ => cs
  | _ + 1, cs, [] => cs
  | n + 1, [], (j, v) :: vs =>
    let r := BitVec.ofInt 128 v
    if r = 0 then mergeCells n [] vs else (j, r) :: mergeCells n [] vs
  | n + 1, (i, x) :: cs, (j, v) :: vs =>
    if i < j then (i, x) :: mergeCells n cs ((j, v) :: vs)
    else if i = j then
      let r := x + BitVec.ofInt 128 v
      if r = 0 then mergeCells n cs vs else (i, r) :: mergeCells n cs vs
    else
      let r := BitVec.ofInt 128 v
      if r = 0 then mergeCells n ((i, x) :: cs) vs else (j, r) :: mergeCells n ((i, x) :: cs) vs

/-- Number of a cell in State. -/
def cellNo (acc : BitVec 1) (i j : Nat) : Nat := 65536 * acc.toNat + 256 * i + j

/-- Rows and columns of a shape code (R329). -/
def shapeM (c : Nat) : Nat := if c < 2 then 256 else 128
def shapeN (c : Nat) : Nat := if c % 2 = 0 then 256 else 128

/-- The cell lies in a region. -/
def inRegionOf (acc : BitVec 1) (ro co m n : Nat) (x : Nat) : Bool :=
  x / 65536 == acc.toNat && ro ≤ x % 65536 / 256 && x % 65536 / 256 < ro + m && co ≤ x % 256 && x % 256 < co + n

/-- Cells of a region made zero with poison clear. -/
def Matrix.clear (x : Matrix) (p : Nat → Bool) : Matrix :=
  { x with cells := x.cells.filter fun c => !p c.1, poison := x.poison.filter fun c => !p c }

/-! ### MMA (R329, R330) -/

/-- An operand at issue: a tile entry by its handle, or a tile to be fetched. -/
inductive MxRef where
  | held (entry op : Nat) (t : Tile)
  | fetch (t : Tile)

/-- The tile that an operand names. -/
def MxRef.tile : MxRef → Tile
  | .held _ _ t => t
  | .fetch t => t

/-- A reference resolved (R326). -/
def mxOperand (x : Word) : Act MxRef := do
  if x.getLsbD 63 then
    if bits x 62 56 != 0 || bits x 5 0 != 0 then trapFree 0x70
    let t ← readTile (x &&& 0x00FFFFFFFFFFFFC0)
    return .fetch t
  else
    let s ← get
    match handleEntry s s.cur x with
    | none => trapFree 0x64
    | some (c, e) =>
      match e.kind, e.tile with
      | .tile, some t => return .held (64 * c + e.idx) e.op t
      | _, _ => trapFree 0x70

/-- Operand formats of MXCONF (R324), as tile format codes of A and B. -/
def confFormats (f : BitVec 2) : Nat × Nat := match f.toNat with
  | 0 => (1, 1)
  | 1 => (0, 0)
  | 2 => (2, 2)
  | _ => (1, 0)

/-- An operand taken at acceptance: a fetched tile takes its entry, freed at completion. -/
def State.takeOperand (s : State) (x : MxRef) (drop : Bool) : State × MxOperand :=
  match x with
  | .held e op t => (s, ⟨e, op, t, drop⟩)
  | .fetch t => let (s, e, en) := s.acceptTile t; (s, ⟨e, en.op, t, true⟩)

/-- An operation joins the engine's queue (R324). -/
def State.acceptMx (s : State) (acc : BitVec 1) (kind : MxKind) : State :=
  let c := s.cur.id - 64
  let op : MxOp := ⟨s.nextOp, acc, kind, (s.cluster c).mx.conf, s.cur.grid, false, 0⟩
  { s.modCluster c fun k => { k with mx := { k.mx with ops := k.mx.ops ++ [op] } } with nextOp := s.nextOp + 1 }

/-- MMA.MxNxK accA, sa, sb. -/
def mmaForm (u : U) : Act Unit := do
  let z := u.d.testBit 1
  let ra := u.d.testBit 2
  let rb := u.d.testBit 3
  let ro := u.d.testBit 4
  let co := u.d.testBit 5
  let a ← mxOperand (lane u.va 0)
  let b ← mxOperand (lane u.vb 0)
  let m := shapeM (u.f / 4)
  let n := shapeN (u.f / 4)
  let k := 256 * 2 ^ (u.f % 4)
  if a.tile.lines != m || b.tile.lines != n || a.tile.k != k || b.tile.k != k || (ro && m == 256) || (co && n == 256) then
    trapFree 0x72
  let s ← get
  let c := s.cluster (s.cur.id - 64)
  let (fa, fb) := confFormats c.mx.conf
  if a.tile.fmt.toNat != fa || b.tile.fmt.toNat != fb then trapFree 0x73
  release
  let ts := [a, b].filterMap fun x => match x with | .fetch t => some t | _ => none
  if 4 ≤ c.mx.ops.length || !c.tilesFit ts then hold .matrix
  modify fun s =>
    let (s, oa) := s.takeOperand a ra
    let (s, ob) := s.takeOperand b rb
    s.acceptMx (BitVec.ofNat 1 u.d) (.mma z ro co (BitVec.ofNat 4 u.f) oa ob)

def execMma (c r y x z q : BitVec 1) (a b : Reg) (m k : BitVec 2) (s : State) : Host.Outcome State Fault Refusal :=
  unit (wordT 72 (0#1 ++ c ++ r ++ y ++ x ++ z ++ q) a b (m ++ k)) mmaForm s

/-- The entry of an operand as it stands, when the operation that took it still holds it. -/
def operandEntry (s : State) (o : MxOperand) : Option Entry :=
  let e := (s.cluster (o.entry / 64)).entry (o.entry % 64)
  if e.st != .free && e.op == o.op then some e else none

/-- The state of an operand's entry changed. -/
def State.setOperand (s : State) (o : MxOperand) (st : EntryState) : State :=
  match operandEntry s o with
  | some e => (s.modCluster (o.entry / 64) (·.setEntry { e with st := st })).entryEvent (o.entry / 64) (o.entry % 64)
  | none => s

/-- An earlier operation on the accumulator has not completed (R342). -/
def accBusy (ops : List MxOp) (k : Nat) (acc : BitVec 1) : Bool := (ops.take k).any (·.acc == acc)

/-- An operation of the engine replaced, or taken out. -/
def State.setMxOp (s : State) (c k : Nat) (o : MxOp) : State :=
  s.modCluster c fun x => { x with mx := { x.mx with ops := changeAt (fun _ => o) k x.mx.ops } }
def State.endMxOp (s : State) (c k : Nat) : State :=
  let q := (s.cluster c).mx.quad
  (s.modCluster c fun x => { x with mx := { x.mx with ops := dropAt k x.mx.ops } }).mxEvent q

/-- One more line of a berth can be pinned in its set: it lies in a way of the berth, and fewer than half of those
ways, at most 8, hold pinned lines there (R328). -/
def State.canPin (s : State) (b : BitVec 4) (n : Nat) : Bool :=
  let ways := s.waysAt b (64 * n)
  let mine := s.l2.filter fun l => sameSet l.line n && ways.getLsbD l.way
  mine.any (·.line == n)
    && (s.pinsLine n || decide ((mine.filter fun l => s.pinsLine l.line).length < min 8 (popcount 16 ways.toNat / 2)))

/-- A line that a tile fetch reads: brought into its slice, and pinned there where that can be (R328). -/
def State.fetchTileLine (a : Agent) (h : Nat) (s : State) (l : Nat) : State :=
  match s.pageOf a (64 * l / 2 ^ 16) with
  | some (.ok p) =>
    let pa := p.pa + 64 * l % 2 ^ 16
    if !s.there pa then s
    else
      let r : Req := ⟨(s.treeOf a).1, p.key, p.t, 1⟩
      let s := ((s.count r pa false).openLine r pa).1
      if s.canPin r.b (pa / 64) then
        s.modCluster (a.id - 64) fun k => k.setEntry { k.entry h with pins := (k.entry h).pins ++ [pa / 64] }
      else s
  | _ => s

/-- The pages of some lines that the sequencer knows nothing of yet. -/
def State.missingPages (s : State) (a : Agent) (ls : List Nat) : List Nat :=
  (ls.map fun l => 64 * l / 2 ^ 16).eraseDups.filter fun v => (s.pageOf a v).isNone

/-- The lines that hold the bitmaps of a tile's panels. -/
def Tile.heads (t : Tile) : List Nat := t.panels.flatMap fun p => linesIn (t.panelAt p.1 p.2) (t.panelAt p.1 p.2 + 8)

/-- The lines that a tile's fetch reads: of each panel its bitmap, its scales and the elements that its K names
(R325, R328). -/
def fetchLines (a : Agent) (t : Tile) (s : State) : List Nat :=
  t.panels.flatMap fun p =>
    let base := t.panelAt p.1 p.2
    let bbm := match (streamBytes a [] base 8 s).1 with
      | .ok bs => (panelMap bs).1
      | .error _ => 1
    let stride := 8 * (((blockStarts bbm).length + 7) / 8)
    let e := 256 * ((8 + 128 * stride + 255) / 256)
    linesIn base (base + 8 + 128 * stride) ++ (List.range 128).flatMap fun i =>
      let at_ := base + e + panelW t.w * i
      linesIn at_ (at_ + min t.k 1024 * qWidth t.w / 8)

/-- Every line of a tile has been read, once the pages of its lines have been walked: the entry becomes full, with the pins
its berth's ways allow (R328). -/
def execTileFull (c h : BitVec 6) (s : State) : Host.Outcome State Fault Refusal :=
  let e := (s.cluster c.toNat).entry h.toNat
  match e.tile, s.agent (64 + c.toNat) with
  | some t, some a =>
    let heads := s.missingPages a t.heads
    if e.st != .filling || e.kind != .tile then .next s
    else if heads != [] then .next (heads.foldl (fun s v => s.askWalkOf a v) s)
    else
    let ls := (fetchLines a t s).eraseDups
    let rest := s.missingPages a ls
    if rest != [] then .next (rest.foldl (fun s v => s.askWalkOf a v) s)
    else
      let s := (ls.foldl (State.fetchTileLine a h.toNat) s).forgetAll a.id
      let s := s.modCluster c.toNat fun k => k.setEntry { k.entry h.toNat with st := .full }
      .next ((s.entryEvent c.toNat h.toNat).mxEvent (some e.quad))
  | _, _ => .next s

/-- An MMA starts its array (R330). -/
def execMmaStart (c : BitVec 6) (k : Nat) (s : State) : Host.Outcome State Fault Refusal :=
  let x := (s.cluster c.toNat).mx
  match x.ops[k]? with
  | none => .next s
  | some o =>
    match o.kind with
    | .mma z ro co shape a b =>
      let ready := fun (p : MxOperand) => match operandEntry s p with
        | some e => e.st == .full
        | none => true
      if o.started || s.mxStopped c.toNat || accBusy x.ops k o.acc || !ready a || !ready b then .next s
      else
        let s := (s.setOperand a .draining).setOperand b .draining
        let region := inRegionOf o.acc (if ro then 128 else 0) (if co then 128 else 0) (shapeM (shape.toNat / 4)) (shapeN (shape.toNat / 4))
        let s := if z then s.modCluster c.toNat fun y => { y with mx := y.mx.clear region } else s
        .next (s.setMxOp c.toNat k { o with started := true })
    | _ => .next s

/-- The berth and tree a matrix operation translates under. -/
def mxTree (s : State) (o : MxOp) : BitVec 4 × Stage1 := match s.gridOf o.grid with
  | some g => (g.berth, g.ctx)
  | none => (0, .none)

/-- The granules at which a block of some panel begins in the chunk of a tile that holds element k0. -/
def chunkStarts (a : Agent) (t : Tile) (k0 : Nat) : List Nat → State → Streamed (List Nat) × State
  | [], s => (.ok [], s)
  | m :: ms, s => match streamBytes a [] (t.panelAt m (k0 / 1024)) 8 s with
    | (.error e, s) => (.error e, s)
    | (.ok bs, s) => match chunkStarts a t k0 ms s with
      | (.error e, s) => (.error e, s)
      | (.ok rest, s) => (.ok (blockStarts (panelMap bs).1 ++ rest), s)

/-- What a segment that begins at element k0 reads (R332): its end and the rows of both operands. -/
def readSegment (a : Agent) (err : List Nat) (x y : Tile) (limit k0 : Nat) (s : State) :
    Streamed (Nat × TileRows × TileRows) × State :=
  let panels := fun (t : Tile) => List.range (t.lines / 128)
  match chunkStarts a x k0 (panels x) s with
  | (.error e, s) => (.error e, s)
  | (.ok gx, s) => match chunkStarts a y k0 (panels y) s with
    | (.error e, s) => (.error e, s)
    | (.ok gy, s) =>
      let k1 := segmentLimit k0 x.k gx gy limit
      match tileRows a err x k0 k1 (panels x) s with
      | (.error e, s) => (.error e, s)
      | (.ok rx, s) => match tileRows a err y k0 k1 (panels y) s with
        | (.error e, s) => (.error e, s)
        | (.ok ry, s) => (.ok (k1, rx, ry), s)

/-- The record of a stage-2 failure that holds an engine's operation, and the pilot has not served (R182, R328). -/
def State.mxHeld (s : State) (c : Nat) (o : MxOp) : Bool :=
  s.records.any fun r => r.live && r.kind == 5 && r.agent == 64 + c && r.sub == BitVec.ofNat 64 o.id

/-- The check channel's answer for a segment (R334): passes with a mismatch that the next one follows. The cluster
is to be retired at this segment when the second value is true. -/
def State.checkSegment (s : State) (c : Nat) (pass1 pass2 pass3 : List (BitVec 8)) : State × Bool :=
  let x := (s.cluster c).mx
  if pass1.isEmpty then (s, false)
  else if pass2.isEmpty then
    ((s.modCluster c fun y => { y with mx := { y.mx with rpl := if y.mx.rpl = 0xFFFF then y.mx.rpl else y.mx.rpl + 1 } }).note
      0xB0 c 0, false)
  else
    let cols := (pass1.filter fun j => pass2.contains j).eraseDups
    if 2 < x.spared.length + cols.length then (s, true)
    else ((s.modCluster c fun y => { y with mx := { y.mx with spared := y.mx.spared ++ cols, spr := true } }).note 0xB2 c 0,
      !pass3.isEmpty)

/-- The next segment of an MMA converted, checked and added (R331 to R334). pass1 to pass3 list the array
columns with a mismatch in each pass; err lists the lines whose error persists, ecc the cells whose
storage has an uncorrectable error, and soft says that some had one that was corrected (R335). -/
def execSegmentEnd (c : BitVec 6) (k : Nat) (pass1 pass2 pass3 : List (BitVec 8)) (err ecc : List Nat) (soft : Bool)
    (s : State) : Host.Outcome State Fault Refusal :=
  match (s.cluster c.toNat).mx.ops[k]?, s.agent (64 + c.toNat) with
  | some o, some ag =>
    match o.kind with
    | .mma _ ro co shape a b =>
      if !o.started || s.mxStopped c.toNat || a.tile.k ≤ o.progress || s.mxHeld c.toNat o then .next s
      else
        match readSegment ag err a.tile b.tile (productLimit o.fmt) o.progress s with
        | (.error none, s') => .next (s.askedBy s')
        | (.error (some (cause, va)), _) =>
          .next (((s.forgetAll ag.id).note cause ag.id (BitVec.ofNat 64 va)).service ag 20 cause (BitVec.ofNat 64 va)
            (BitVec.ofNat 64 o.id))
        | (.ok (k1, ra, rb), s) =>
          let s := s.forgetAll ag.id
          let (s, gone) := s.checkSegment c.toNat pass1 pass2 pass3
          if gone then .next (s.retireCluster c.toNat)
          else
            let m := shapeM (shape.toNat / 4)
            let n := shapeN (shape.toNat / 4)
            let r0 := if ro then 128 else 0
            let c0 := if co then 128 else 0
            let sums : List (Nat × Option Int) := ((List.range m).zip ra).flatMap fun p =>
              ((List.range n).zip rb).map fun q => (cellNo o.acc (r0 + p.1) (c0 + q.1), cellSum p.2 q.2)
            let adds := sums.filterMap fun p => match p.2 with
              | some v => if v = 0 then none else some (p.1, v)
              | none => none
            let bad := (sums.filter (·.2.isNone)).map (·.1) ++ ecc.filter (inRegionOf o.acc r0 c0 m n)
            let s := if ecc = [] then s else s.note 0x77 c.toNat 0
            let s := if soft then s.note 0 c.toNat 0 else s
            .next ((s.modCluster c.toNat fun y => { y with mx := { y.mx with
              cells := mergeCells (y.mx.cells.length + adds.length) y.mx.cells adds
              poison := bad.foldl (fun ps i => ins i ps) y.mx.poison } }).setMxOp c.toNat k { o with progress := k1 })
    | _ => .next s
  | _, _ => .next s

/-- An operand's entry when its MMA completes: freed, or full again (R326, R329, R330). -/
def State.dropOperand (s : State) (o : MxOperand) (drop : Bool) : State :=
  match operandEntry s o with
  | none => s
  | some e =>
    if drop || e.dying then s.freeEntryOf (o.entry / 64) (o.entry % 64) else s.setOperand o .full

def execMmaComplete (c : BitVec 6) (k : Nat) (s : State) : Host.Outcome State Fault Refusal :=
  match (s.cluster c.toNat).mx.ops[k]? with
  | none => .next s
  | some o =>
    match o.kind with
    | .mma _ _ _ _ a b =>
      if !o.started || o.progress < a.tile.k then .next s
      else .next (((s.dropOperand a a.drop).dropOperand b b.drop).endMxOp c.toNat k)
    | _ => .next s

/-! ### MXCFG, MXZERO, MXWAIT, MXFENCE (R337, R338, R341, R342) -/

def execMxcfg (a : Reg) (s : State) : Host.Outcome State Fault Refusal :=
  unit (wordT 73 0 a 0 0) (fun u => do
    if bits (lane u.va 0) 63 2 != 0 then trapFree 0x74
    let s ← get
    let c := s.cur.id - 64
    let ops := (s.cluster c).mx.ops
    if 4 ≤ ops.length || ops.any (fun o => match o.kind with | .mma _ _ _ _ _ _ => true | _ => false) then hold .matrix
    set (s.modCluster c fun k => { k with mx := { k.mx with conf := (lane u.va 0).extractLsb' 0 2 } })) s

def execMxzero (q : BitVec 1) (s : State) : Host.Outcome State Fault Refusal :=
  unit (wordT 73 (0#6 ++ q) 0 0 1) (fun _ => do
    let s ← get
    if 4 ≤ (s.cluster (s.cur.id - 64)).mx.ops.length then hold .matrix
    set (s.acceptMx q .zero)) s

def execMxzeroDone (c : BitVec 6) (k : Nat) (s : State) : Host.Outcome State Fault Refusal :=
  let x := (s.cluster c.toNat).mx
  match x.ops[k]? with
  | none => .next s
  | some o =>
    match o.kind with
    | .zero =>
      if s.mxStopped c.toNat || accBusy x.ops k o.acc then .next s
      else .next ((s.modCluster c.toNat fun y => { y with mx := y.mx.clear fun i => i / 65536 == o.acc.toNat }).endMxOp c.toNat k)
    | _ => .next s

def execMxwait (d : Reg) (sl : BitVec 7) (s : State) : Host.Outcome State Fault Refusal :=
  unit (wordT 73 d 0 sl 3) (fun u => do
    let s ← get
    let c := s.cur.id - 64
    let x := (s.cluster c).mx
    if x.ops.any (fun o => u.b.testBit o.acc.toNat) then hold .matrix
    let busy := fun (n : Nat) => (x.ops.any (·.acc.toNat == n)).toNat
    writeScalar (u.d - 96) (BitVec.ofNat 64 (busy 0 + 2 * busy 1 + x.pdr.toNat * 2 ^ 16 + x.spr.toNat * 2 ^ 17
      + x.qcl.toNat * 2 ^ 18 + x.rpl.toNat * 2 ^ 32))
    modify fun s => s.modCluster c fun k => { k with mx := { k.mx with rpl := 0, qcl := false, spr := false, pdr := false } }) s

def execMxfence (s : State) : Host.Outcome State Fault Refusal :=
  unit (wordT 73 0 0 0 4) (fun _ => do
    let s ← get
    if !(s.cluster (s.cur.id - 64)).mx.ops.isEmpty || s.fetchBusy s.cur.team then hold .matrix
    acquireNow) s

/-! ### MXDRAIN (R339, R340) -/

/-- The fields of a drain's control word. -/
structure DrainCtl where
  acc : BitVec 1
  fmt : Nat
  rtz : Bool
  clr : Bool
  mn : Nat
  ro : Bool
  co : Bool
  deriving DecidableEq, Repr

def DrainCtl.of (w : Word) : DrainCtl :=
  ⟨w.extractLsb' 0 1, bits w 2 1, w.getLsbD 3, w.getLsbD 4, bits w 9 8, w.getLsbD 10, w.getLsbD 11⟩

/-- The control word breaks its layout (R339). -/
def drainBad (w : Word) : Bool :=
  let c := DrainCtl.of w
  bits w 63 12 != 0 || bits w 7 5 != 0 || c.fmt == 3 || (c.fmt == 2 && c.rtz)
    || (c.ro && shapeM c.mn == 256) || (c.co && shapeN c.mn == 256)

/-- Bytes of a result, and entries of 256 bytes in a drain. -/
def DrainCtl.size (c : DrainCtl) : Nat := match c.fmt with | 0 => 4 | 1 => 2 | _ => 16
def DrainCtl.bytes (c : DrainCtl) : Nat := shapeM c.mn * shapeN c.mn * c.size
def DrainCtl.entries (c : DrainCtl) : Nat := c.bytes / 256

/-- The number of the n-th cell of a drain, in row order. -/
def DrainCtl.cell (c : DrainCtl) (n : Nat) : Nat :=
  let w := shapeN c.mn
  cellNo c.acc ((if c.ro then 128 else 0) + n / w) ((if c.co then 128 else 0) + n % w)

def execMxdrain (d a : Reg) (s : State) : Host.Outcome State Fault Refusal :=
  unit (wordT 73 d a 0 2) (fun u => do
    let w := lane u.va 0
    if drainBad w then trapFree 0x75
    let c := DrainCtl.of w
    let s ← get
    let ag := s.cur
    let cl := ag.id - 64
    let full := 4 ≤ (s.cluster cl).mx.ops.length
    if 120 ≤ u.d then
      let n := u.d - 120
      let k := ag.kbyte n
      match portOf s ag n true with
      | .error x => trapFree x
      | .ok _ => pure ()
      release
      if full then hold .matrix
      modify fun s => s.acceptMx c.acc (.drain w (some (k, ag.kcore.extractLsb' (2 * n) 2)) 0 none [])
    else
      needRegs [.scalar (u.d - 95)]
      let va := lane u.vd 0
      let r : Span := ⟨va, c.bytes, true, 256⟩
      let pages ← checkSpans [r] (fun _ => false) fun _ p => if isHbm p.pa || isHost p.pa then none else some 0x76
      release
      let s ← get
      let k := s.cluster cl
      match k.freeEntry with
      | none => hold .matrix
      | some i =>
        if full || !k.locksFit 1 then hold .matrix
        -- the entry is taken by the drain's own operation, which acceptMx numbers next
        let (k, e) := k.take i s.nextOp .drain va.toNat (va.toNat + c.bytes - 1) ag.grid ag.team none
        let k := { k with locks := k.locks ++ [spanLock s ag s.nextOp r] }
        set ((s.setCluster cl k).acceptMx c.acc (.drain w none va (some (64 * cl + i)) pages))
        writeScalar (u.d - 95) (handleOf s ag cl e)) s

/-- One cell as a drain delivers it: its bytes, and whether they carry a mark. -/
def drainCell (c : DrainCtl) (v : BitVec 128) (poison : Bool) : List Byte × Bool :=
  if c.fmt = 2 then (toBytes 16 v.toNat, poison)
  else
    let f := if c.fmt = 0 then Fmt.f32 else Fmt.bf16
    let x := v.toInt
    let r := if poison then f.poison
      else if x = 0 then 0
      else (roundFp f (if c.rtz then .rtz else .rne) (Exact.dyadic (decide (x < 0)) x.natAbs (-36))).1
    (toBytes c.size r, false)

/-- A drain delivers its next 256 bytes: into its queue where it has room, to memory, or not at all where
the queue is closed, which ends the drain. ecc lists the cells whose storage has an uncorrectable error
(R335), and soft says that some had one that was corrected. -/
def execDrainEntryPush (c : BitVec 6) (k : Nat) (ecc : List Nat) (soft : Bool) (s : State) : Host.Outcome State Fault Refusal :=
  let x := (s.cluster c.toNat).mx
  match x.ops[k]? with
  | none => .next s
  | some o =>
    match o.kind with
    | .drain w port addr _ pages =>
      let ctl := DrainCtl.of w
      if s.mxStopped c.toNat || accBusy x.ops k o.acc || ctl.entries ≤ o.progress || pages.any (fun p => s.refuses p.2.1) then .next s
      else
        let team := match port with
          | some (_, core) => match x.quad with
            | some q => s.member q core.toNat
            | none => none
          | none => none
        let q := match port with | some (kb, _) => kb.toNat % 64 | none => 0
        let closed := match team with | some t => qClosed t.scratch q | none => false
        let full := match team with | some t => decide (15 ≤ qCount t.scratch q) | none => false
        if closed then
          .next ((s.modCluster c.toNat fun y => { y with mx := { y.mx with qcl := true } }).endMxOp c.toNat k)
        else if full then .next s
        else
          let per := 256 / ctl.size
          let cells := (List.range per).map fun i => ctl.cell (per * o.progress + i)
          let s := if (ecc.filter cells.contains) = [] then s else s.note 0x77 c.toNat 0
          let s := if soft then s.note 0 c.toNat 0 else s
          let bad := fun i => x.poison.contains i || ecc.contains i
          let out := cells.map fun i => drainCell ctl (findD i 0 x.cells) (bad i)
          let bytes := out.flatMap (·.1)
          let marks := out.flatMap fun p => List.replicate ctl.size p.2
          let unitAt := fun (j : Nat) => (BitVec.ofNat 64 (ofBytes ((bytes.drop (8 * j)).take 8)) : Word)
          let s := match port, team with
            | some _, some t => s.push t.id q (lanesOf unitAt) (maskOf fun j => marks.getD (8 * j) false)
            | some _, none => s
            | none, _ => (List.range 32).foldl (fun (s : State) (j : Nat) =>
                let va := addr.toNat + 256 * o.progress + 8 * j
                match frameIn pages va with
                | some (pa, key, ts) => s.homePut ⟨(mxTree s o).1, key, ts, 1⟩ pa 0xFF (unitAt j) (marks.getD (8 * j) false) none
                | none => s) s
          let s := s.modCluster c.toNat fun y =>
            let m := if ctl.clr then y.mx.clear cells.contains
              else { y.mx with poison := (ecc.filter cells.contains).foldl (fun ps i => ins i ps) y.mx.poison }
            { y with mx := { m with pdr := m.pdr || cells.any bad } }
          .next (s.setMxOp c.toNat k { o with started := true, progress := o.progress + 1 })
    | _ => .next s

/-- A drain that has delivered everything completes: a memory drain's entry becomes full and its lock is
released (R340). -/
def execDrainComplete (c : BitVec 6) (k : Nat) (s : State) : Host.Outcome State Fault Refusal :=
  match (s.cluster c.toNat).mx.ops[k]? with
  | none => .next s
  | some o =>
    match o.kind with
    | .drain w _ _ entry _ =>
      if o.progress < (DrainCtl.of w).entries then .next s
      else
        let s := s.unlock o.id
        let s := match entry with
          | none => s
          | some x =>
            let e := (s.cluster (x / 64)).entry (x % 64)
            if e.st == EntryState.filling && e.op == o.id then
              (if e.dying then s.freeEntryOf (x / 64) (x % 64)
               else (s.modCluster (x / 64) (·.setEntry { e with st := .full })).entryEvent (x / 64) (x % 64))
            else s
        .next (s.endMxOp c.toNat k)
    | _ => .next s

/-! ### EXIT (R321) -/

/-- After EXIT's operations have completed, the sequencer frees the entries it holds and closes the queues
it pushes to; sequencer and engine are free. -/
def execSequencerExitDone (c : BitVec 6) (s : State) : Host.Outcome State Fault Refusal :=
  match s.agent (64 + c.toNat), (s.cluster c.toNat).mx.quad with
  | some a, some q =>
    if a.run != .closing || !(s.cluster c.toNat).mx.ops.isEmpty then .next s
    else
      let s := s.freeEntries fun _ e => e.kind != .copy && e.quad == q
      let s := s.closeQueues a fun k => k.getLsbD 6
      let s := s.modAgent a.id fun a => { a with run := .off }
      .next (s.modCluster c.toNat fun x => { x with mx := { x.mx with quad := none } })
  | _, _ => .next s

end Sys2Proof.Machine
end

