-- ==== Sys2Proof/Machine/Berths.lean ====
section
/-!
DEFINITION. Berths (spec/17_berths.md): their registers (R388, R389, R391), the berth operations (R393 to
R401), and skim (R404, R405).
-/

namespace Sys2Proof.Machine

/-! ### Numbers of a berth's registers -/

def bclust (b : BitVec 4) : Nat := dev (0x400 + b.toNat)
def bquad (b : BitVec 4) : Nat := dev (0x480 + b.toNat)
def bseg (b : BitVec 4) : Nat := dev (0x500 + b.toNat)
def bkey (b : BitVec 4) (i : Nat) : Nat := dev (0x700 + 8 * b.toNat + i)
def berthctl (b : BitVec 4) : Nat := dev (0x380 + b.toNat)
def hmslice (b : BitVec 4) : Nat := dev (0x300 + b.toNat)
def waymask (sl : Nat) (b : BitVec 4) : Nat := dev (0x2000 + 16 * sl + b.toNat)

/-- Every berth index. -/
def allBerths : List (BitVec 4) := (List.range 16).map (BitVec.ofNat 4)

/-- The VFs assigned to a berth (R388). -/
def State.vfsOf (s : State) (b : BitVec 4) : BitVec 16 := (s.sysreg (berthctl b) 0).extractLsb' 16 16

/-- FWXLATE of pilot core i after its VF has been given to a berth: BERTH of a register that has been written is
written again (R439). -/
def State.pilotBerth (s : State) (i : Nat) (b : BitVec 4) : State :=
  match find? (dev (0xA40 + i)) s.sysregs with
  | some w => s.setSysreg (dev (0xA40 + i)) (setBits w 4 4 b.toNat)
  | none => s

/-- VFS of a berth replaced; the pilot cores of its VFs are the berth's (R58, R387). -/
def State.setVfs (s : State) (b : BitVec 4) (v : BitVec 16) : State :=
  ((List.range 16).filter fun i => v.getLsbD i).foldl (fun s i => (s.modAgent i fun a => { a with berth := b }).pilotBerth i b)
    (s.setSysreg (berthctl b) (setBits (s.sysreg (berthctl b) 0) 16 16 v.toNat))

/-- The berth a VF is assigned to (R390). -/
def State.berthOfVf (s : State) (v : Nat) : Option (BitVec 4) := allBerths.find? fun b => (s.vfsOf b).getLsbD v

/-! ### BERTHCTL (R388, R390) -/

/-- A VF that loses its assignment while locked or running: its TDI is in ERROR (R390). -/
def State.tdiLost (s : State) (v : Nat) : State :=
  let x := s.vf (BitVec.ofNat 4 v)
  if x.tdi == .locked || x.tdi == .run then
    (s.modVf (BitVec.ofNat 4 v) fun x => { x with tdi := .error }).note 0xB7 v 0
  else s

/-- A write of BERTHCTL: CONF, VERIFY and ADMIT, and VFS, to which an active berth adds no bit. A VF given
to another berth leaves the one it had. -/
def State.writeBerthctl (s : State) (b : BitVec 4) (v : Word) : State :=
  let n := berthctl b
  let old := s.vfsOf b
  let new : BitVec 16 := v.extractLsb' 16 16
  let s := s.setSysreg n (setBits (s.sysreg n 0) 0 3 (bits v 2 0))
  if (s.berth b).state = 1 && new &&& ~~~old != 0 then s
  else
    let gone := (List.range 16).filter fun i => old.getLsbD i && !new.getLsbD i
    let come := (List.range 16).filter fun i => !old.getLsbD i && new.getLsbD i
    let s := come.foldl (fun s i => match s.berthOfVf i with
      | some b' => (s.setVfs b' (setBit (s.vfsOf b') i false)).tdiLost i
      | none => s) s
    (gone.foldl State.tdiLost s).setVfs b new

def execBerthctlWrite (b : BitVec 4) (v : Word) (s : State) : Host.Outcome State Fault Refusal :=
  .next (s.writeBerthctl b v)

/-! ### Resources (R389) -/

/-- The berth whose resource register this is: BCLUST, BQUAD, BSEG or BKEY. -/
def resourceBerth (num : Nat) : Option (BitVec 4) :=
  if 0x400 ≤ num && num < 0x410 || 0x480 ≤ num && num < 0x490 || 0x500 ≤ num && num < 0x510 then
    some (BitVec.ofNat 4 (num % 16))
  else if 0x700 ≤ num && num < 0x780 then some (BitVec.ofNat 4 ((num - 0x700) / 8))
  else none

/-- The same register of another berth. -/
def resourceOf (num : Nat) (b : BitVec 4) : Nat :=
  if num < 0x700 then num / 16 * 16 + b.toNat else 0x700 + 8 * b.toNat + num % 8

/-- A write of a resource register, ignored and logged outside STATE 0 and 3 and where another berth owns
what it gives. The teams on a cluster that leaves are swapped out. -/
def State.writeResource (s : State) (num : Nat) (v : Word) : State :=
  match resourceBerth num with
  | none => s
  | some b =>
    let v := if 0x500 ≤ num && num < 0x510 then v &&& 0xFFFF else v
    let taken := allBerths.any fun x => x != b && s.sysreg (dev (resourceOf num x)) 0 &&& v != 0
    if !((s.berth b).state = 0 || (s.berth b).state = 3) || taken then s.note 0 b.toNat (BitVec.ofNat 64 num)
    else
      let old := s.sysreg (dev num) 0
      let isClust := num / 16 = 0x40
      let s := if isClust then s.swapOutWhere fun t => match t.placed with
          | some c => old.getLsbD (c.toNat / 4) && !v.getLsbD (c.toNat / 4) && (s.gridOf t.grid).any (·.berth == b)
          | none => false
        else s
      let s := s.setSysreg (dev num) v
      if isClust && v = 0 then s.modBerth b fun x => { x with state := 0 } else s

def execBerthResourceWrite (num : BitVec 16) (v : Word) (s : State) : Host.Outcome State Fault Refusal :=
  .next (s.writeResource num.toNat v)

/-! ### Way masks (R391) -/

/-- A way of a slice is being removed: kept in bits [47:32] of the register, which read as zero. -/
def State.removing (s : State) (sl w : Nat) : Bool :=
  allBerths.any fun b => (s.sysreg (waymask sl b) 0).getLsbD (32 + w)

/-- Lines of a slice that lie in ways under removal. -/
def State.leaving (s : State) (sl : Nat) : List L2Line :=
  s.l2.filter fun l => isHbm (64 * l.line) && sliceOf (64 * l.line) == sl && s.removing sl l.way

/-- Removals of a slice that have taken every line are over. -/
def State.settleWays (s : State) (sl : Nat) : State :=
  if s.leaving sl != [] then s
  else allBerths.foldl (fun s b =>
    let x := s.sysreg (waymask sl b) 0
    if x.getLsbD 31 then s.setSysreg (waymask sl b) (x &&& 0xFFFF) else s) s

/-- A write of WAYMASK: ways added at once, and the removal of ways begun. -/
def State.writeWaymask (s : State) (sl : Nat) (b : BitVec 4) (v : Word) : State :=
  let n := waymask sl b
  let old := s.sysreg n 0
  let new := v &&& 0xFFFF
  let others := allBerths.any fun x => x != b && s.sysreg (waymask sl x) 0 &&& new != 0
  if old.getLsbD 31 || others then s.note 0 b.toNat (BitVec.ofNat 64 (0x2000 + 16 * sl + b.toNat))
  else
    let gone := old &&& 0xFFFF &&& ~~~new
    if gone = 0 then s.setSysreg n new
    else (s.setSysreg n (new ||| (gone <<< 32) ||| 0x80000000)).settleWays sl

/-- A line of a removed way taken: written back, made invalid, its pins lost. -/
def State.takeLine (s : State) (line : Nat) : State :=
  let s := (s.writeBackLine line).dropLine line
  { s with clusters := s.clusters.map fun c => (c.1, { c.2 with
      table := c.2.table.map fun e => ({ e with pins := e.pins.filter (· != line) } : Entry) }) }

def execWaymaskWrite (sl : BitVec 8) (b : BitVec 4) (v : Word) (s : State) : Host.Outcome State Fault Refusal :=
  .next (s.writeWaymask sl.toNat b v)
def execWaymaskLineTake (sl : BitVec 8) (line : Nat) (s : State) : Host.Outcome State Fault Refusal :=
  if (s.leaving sl.toNat).any (·.line == line) then .next ((s.takeLine line).settleWays sl.toNat) else .next s

/-! ### BOPCMD (R393) -/

/-- The fields of a command. -/
def bopB (c : Word) : BitVec 4 := c.extractLsb' 4 4
def bopSrc (c : Word) : BitVec 4 := c.extractLsb' 8 4
def bopMig (c : Word) : Bool := c.getLsbD 23
def bopArea (c : Word) : Nat := bits c 47 24 * 2 ^ 24
def bopVfs (c : Word) : BitVec 16 := c.extractLsb' 48 16

/-- BOPSTAT reads BUSY. -/
def State.bopBusy (s : State) : Bool := (s.sysreg (dev 0x588) 0).getLsbD 63

/-- An operation refused (R401). -/
def State.refuseBop (s : State) (op reason : Nat) : State :=
  (s.setBopStat false reason op 0xB6).note 0xB6 op (BitVec.ofNat 64 reason)

/-! ### QUIESCE, RESUME, ABANDON (R394, R397, R400) -/

/-- An engine stopped at a boundary with its accumulators saved in its quad's matrix frame (R323, R394);
the sequencer and the engine stay held. -/
def State.saveEngine (s : State) (c : Nat) : State :=
  match (s.cluster c).mx.quad with
  | none => s
  | some q => match s.teamOf q with
    | none => s
    | some t => match s.gridOf t.grid with
      | none => s
      | some g =>
        let used := (s.teams.filter (·.grid == t.grid)).filterMap (·.mxFrame)
        let frame := match t.mxFrame with
          | some n => some n
          | none => (List.range g.mfCount).find? (!used.contains ·)
        match frame, s.agent (64 + c) with
        | some n, some a => (s.modTeam q fun t => { t with mxFrame := some n }).saveMatrixFrame g n (s.cluster c).mx a
        | _, _ => s

/-- QUIESCE begun: no packet is taken, every queue is unmapped, every gang leaves its slot. -/
def State.quiesce (s : State) (c : Word) : State :=
  let b := bopB c
  if (s.berth b).state != 1 then s.refuseBop 1 1
  else
    let tmo := bits c 15 12
    let s := (s.setBopStat true 0 1 0).setAdmit b false
    let s := s.modBerth b fun x => { x with
      state := 2, stopped := s.clk, quiesceEnd := if tmo = 0 then none else some (s.clk + 2 ^ tmo * 700000) }
    let s := (s.queues.filter fun q => q.berth == b && q.mapped).foldl State.unmapQueue s
    let gangs := s.all.filter fun a => a.prof == .full && a.berth == b && a.inSlot && a.run != .leaving
    let s := gangs.foldl (fun s a => s.leaveSlot a.id true) s
    ((List.range 64).filter fun c => s.coreIn b (4 * c)).foldl State.saveEngine s

def execQuiesce (c : Word) (s : State) : Host.Outcome State Fault Refusal :=
  .next (if s.bopBusy then s else s.quiesce c)

/-- Work of a quiescing berth that its end waits for: copies, walks, and a prologue run. -/
def State.quiesceBusy (s : State) (b : BitVec 4) : Bool :=
  s.clusters.any (fun c => c.2.copies.any (·.berth == b)) || s.walks.any (·.berth == b)
    || !s.engineFree b || s.all.any fun a => a.prof == .full && a.berth == b && a.run == .leaving

/-- Step 4 of QUIESCE, and its end. -/
def execQuiesceComplete (b : BitVec 4) (s : State) : Host.Outcome State Fault Refusal :=
  if (s.berth b).state != 2 || s.quiesceBusy b then .next s
  else
    let gangs := s.all.filter fun a => a.prof == .full && a.berth == b && a.run != .off
    let s := gangs.foldl (fun s a => s.flushGang a.id false) s
    -- a line whose page is still walked, or served by the pilot, is waited for
    if gangs.any fun a => (s.agent a.id).any (·.unflushed false) then .next s
    else .next (((s.emptyCaches b).modBerth b fun x => { x with state := 3, quiesceEnd := none }).setBopStat false 0 1 0)

/-- The time for which a berth's queued records have waited leaves out its stop up to now, for each from when it was
queued (R394); what is still to come of the stop begins now. -/
def State.creditStop (s : State) (b : BitVec 4) : State :=
  let st := (s.berth b).stopped
  let wait := fun (r : Record) => ({ r with since := r.since + (s.clk - max r.since st) } : Record)
  let s : State := { s with records := changeIf (fun r => r.berth == b && r.queued) wait s.records }
  s.modBerth b fun x => { x with stopped := s.clk }

/-- The berth active again: recorded cancellations are performed, and waiting times go on (R394, R400). -/
def State.reactivate (s : State) (b : BitVec 4) : State :=
  (((s.creditStop b).modBerth b fun x => { x with state := 1, quiesceEnd := none, exported := none }).setAdmit b true).recorded b

def State.resume (s : State) (c : Word) : State :=
  if (s.berth (bopB c)).state != 3 then s.refuseBop 4 1 else (s.reactivate (bopB c)).setBopStat false 0 4 0

def State.abandon (s : State) (c : Word) : State :=
  let st := (s.berth (bopB c)).state
  (if st = 2 || st = 3 then s.reactivate (bopB c) else s).setBopStat false 0 5 0

def execResume (c : Word) (s : State) : Host.Outcome State Fault Refusal :=
  .next (if s.bopBusy then s else s.resume c)
def execAbandon (c : Word) (s : State) : Host.Outcome State Fault Refusal :=
  .next (if s.bopBusy then s else s.abandon c)

/-- The limit of TMO has passed first. -/
def execQuiesceTimeout (b : BitVec 4) (s : State) : Host.Outcome State Fault Refusal :=
  let x := s.berth b
  match x.quiesceEnd with
  | some t => if x.state != 2 || s.clk < t then .next s else .next ((s.reactivate b).refuseBop 1 6)
  | none => .next s

/-! ### EXPORT (R395, R436) -/

/-- Words of a tensor entry (R415). -/
def Tensor.w0 (t : Tensor) : Nat := t.size.toNat * 2 ^ 32 + t.base.toNat
def Tensor.w1 (t : Tensor) : Nat :=
  t.ver.toNat * 2 ^ 32 + t.v.toNat * 2 ^ 13 + t.shut.toNat * 2 ^ 12 + t.kslot.toNat

/-- The 64 bytes of a queue descriptor (R367). -/
def Queue.bytes (q : Queue) : List Byte :=
  [q.header.toNat, q.log2n.toNat + q.pw.toNat * 2 ^ 8 + q.mapped.toNat * 2 ^ 9 + q.nidx.toNat * 2 ^ 10, q.rptr.toNat
    , q.wptr.toNat, q.vector.toNat, q.poolBase.toNat, q.poolSize.toNat
    , q.tslot.toNat * 2 ^ 52 + q.key.toNat * 2 ^ 43].flatMap (toBytes 8)

/-- Requests of the harbourmaster under its own key slot. -/
def State.hmReq (s : State) : Req :=
  let x := s.fwxlate (if s.standby then 17 else 16)
  ⟨x.extractLsb' 4 4, x.extractLsb' 43 9, x.extractLsb' 52 12, 3⟩

/-- Bytes padded with zeros. -/
def padTo (n : Nat) (bs : List Byte) : List Byte := bs ++ List.replicate (n - bs.length) 0

/-- Lath channels that a berth's packets hold. -/
def State.lathHeld (s : State) (b : BitVec 4) : Nat :=
  ((s.packets.filter fun p => p.berth == b && p.phase < 5).flatMap (·.lath)).eraseDups.foldl (fun acc c => acc + 2 ^ c) 0

/-- The first kilobyte of the area, up to the way masks. -/
def State.areaHead (s : State) (b : BitVec 4) (mig : Bool) : List Byte :=
  let ctl := s.sysreg (berthctl b) 0
  let seg := bits (s.sysreg (bseg b) 0) 15 0
  let w0 := b.toNat + 1 * 2 ^ 4 + bits ctl 1 1 * 2 ^ 8 + bits ctl 2 2 * 2 ^ 9 + mig.toNat * 2 ^ 10
    + (s.vfsOf b).toNat * 2 ^ 16 + seg * 2 ^ 32
  let words := [w0, (s.sysreg (bclust b) 0).toNat, (s.sysreg (bquad b) 0).toNat, (s.sysreg (dev (0x680 + b.toNat)) 0).toNat]
    ++ ((List.range 8).map fun i => (s.sysreg (bkey b i) 0).toNat)
    ++ [(s.sysreg (hmslice b) 0).toNat, (s.sysreg (dev (0x200 + b.toNat)) 0x0000001400000000).toNat,
      (s.sysreg (dev (0x280 + b.toNat)) 0).toNat, s.lathHeld b % 2 ^ 16]
  words.flatMap (toBytes 8) ++ (List.range 256).flatMap fun i => toBytes 2 (bits (s.sysreg (waymask i b) 0) 15 0)

/-- Segments of a berth, in increasing number. -/
def State.segments (s : State) (b : BitVec 4) : List Nat := (List.range 16).filter (s.sysreg (bseg b) 0).getLsbD

/-- Key slots of a berth, in increasing number. -/
def State.keySlots (s : State) (b : BitVec 4) : List Nat :=
  (List.range 512).filter fun k => (s.sysreg (bkey b (k / 64)) 0).getLsbD (k % 64)

/-- The block of a segment: its entries and its seal counters. -/
def State.segBlock (s : State) (g : Nat) : List Byte :=
  ((List.range 4096).flatMap fun i =>
    let t := s.tensor (BitVec.ofNat 4 g) (BitVec.ofNat 12 i)
    toBytes 8 t.w0 ++ toBytes 8 t.w1)
  ++ (List.range 1024).flatMap fun i => toBytes 8 (findD (1024 * g + i) (0 : Word) s.counters).toNat

/-- The record of a key slot: K1 in its first bytes. -/
def State.keyRecord (s : State) (k : Nat) : List Byte :=
  let x := (s.slotKeys (BitVec.ofNat 9 k)).getD 0
  padTo 256 (toBytes 2 k ++ [(s.slotSeg (BitVec.ofNat 9 k)).setWidth 8] ++ List.replicate 5 0
    ++ (toBytes 128 x.toNat).reverse)

/-- The work of a berth that leaves the device: what its VFs' and interfaces' packets have (R396). -/
def State.movingOf (s : State) (b : BitVec 4) : Moving :=
  let gs := s.grids.filter fun g => g.berth == b && !g.flushed
  let has := fun (n : Nat) => gs.any (·.id == n)
  { packets := s.packets.filter fun p => p.berth == b && p.phase < 5
    grids := gs
    teams := s.teams.filter fun t => has t.grid && !t.ended
    records := s.records.filter fun r => r.live && r.berth == b
    agents := s.all.filter fun a => a.prof == .full && a.run != .off && has a.grid }

/-- A list cut or padded with zeros to n bytes. -/
def fit (n : Nat) (bs : List Byte) : List Byte := padTo n (bs.take n)

/-- Clusters of a mask, in increasing order. -/
def clustersIn (m : Nat) : List Nat := (List.range 64).filter m.testBit

/-- EXPORT: the blocks of the area, written under the harbourmaster's key. -/
def State.exportBerth (s : State) (c : Word) : State :=
  let b := bopB c
  if (s.berth b).state != 3 then s.refuseBop 2 1
  else
    let s := if bopMig c then s.swapOutWhere fun t => (s.gridOf t.grid).any (·.berth == b) else s
    let r := s.hmReq
    let put := fun (s : State) (off : Nat) (bs : List Byte) => s.homePutBytes r (bopArea c + off) bs fun _ => false
    let s := put s 0 (padTo 0x1000 (s.areaHead b (bopMig c)))
    let w := s.movingOf b
    let x := s.berth b
    let s := put s 0x1000 (fit 0x4000 (Config.heapBlock w))
    let s := put s 0x5000 (padTo 0x1000 (((s.queues.filter (·.berth == b)).take 64).flatMap Queue.bytes))
    let s := put s 0x6000 (fit 0x1000 (Config.levelBlock w (x.seqs, x.launches, x.admits)))
    let s := put s 0x7000 (fit 0x9000 ((clustersIn (s.sysreg (bclust b) 0).toNat).flatMap fun k =>
      fit 576 (Config.clusterBlock (s.cluster k))))
    let gs := s.segments b
    let s := ((List.range gs.length).zip gs).foldl (fun s x => put s (0x10000 + 0x12000 * x.1) (s.segBlock x.2)) s
    let ks := s.keySlots b
    let s := if bopMig c then
        ((List.range ks.length).zip ks).foldl (fun s x => put s (0x58000 + 256 * x.1) (s.keyRecord x.2)) s
      else s
    (s.modBerth b fun x => { x with exported := some x.gen }).setBopStat false 0 2 0

def execExportBerth (c : Word) (s : State) : Host.Outcome State Fault Refusal :=
  .next (if s.bopBusy then s else s.exportBerth c)

/-! ### IMPORT (R396 to R399) -/

/-- What the area lists. -/
structure Area where
  word0 : Nat
  clusters : Nat
  quads : Nat
  keys : List Nat
  slice : Word
  ways : List Nat
  deriving DecidableEq, Repr

/-- The first bytes of the area read at their homes under the harbourmaster's key, and whether a tag fails. -/
def State.readArea (s : State) (c : Word) : (Area × Bool) × State :=
  let ((bs, bad), s) := s.homeGetBytes s.hmReq (bopArea c) 0x280
  let at_ := fun (off n : Nat) => ofBytes ((bs.drop off).take n)
  let w := fun (off : Nat) => at_ off 8
  (({ word0 := w 0, clusters := w 8, quads := w 0x10, keys := (List.range 8).map fun i => w (0x20 + 8 * i)
      slice := BitVec.ofNat 64 (w 0x60), ways := (List.range 256).map fun i => at_ (0x80 + 2 * i) 2 }, bad), s)

/-- Used HMSLICE slots of a register value. -/
def usedSlots (w : Word) : List Nat := (List.range 4).filter fun i => bits w (16 * i + 11) (16 * i) != 0
def slotAt (w : Word) (i : Nat) : Nat := bits w (16 * i + 15) (16 * i)

/-- Slots appended to the free slots of a register. -/
def appendSlots (w : Word) : List Nat → Word
  | [] => w
  | x :: xs => match (List.range 4).find? fun i => !(usedSlots w).contains i with
    | some i => appendSlots (setBits w (16 * i) 16 x) xs
    | none => w

/-- Queues, packets, grids, records and agents of some owners moved from one berth to another, in their
order after what the other has (R396, R397). -/
def State.moveWork (s : State) (src b : BitVec 4) (mine : QOwner → Bool) : State :=
  let x := s.berth b
  let y := s.berth src
  let packets := (s.packets.filter fun p => p.berth == src && mine p.owner).map (·.id)
  let grids := (s.grids.filter fun g => g.berth == src && packets.contains g.packet).map (·.id)
  let s : State := { s with
    queues := changeIf (fun q => q.berth == src && mine q.owner) (fun q => ({ q with berth := b, mapped := false } : Queue)) s.queues
    packets := changeIf (fun p => packets.contains p.id) (fun p =>
      ({ p with berth := b, order := p.order + x.admits, launchNo := p.launchNo + x.launches } : Packet)) s.packets
    grids := changeIf (fun g => grids.contains g.id) (fun g => ({ g with berth := b, launchNo := g.launchNo + x.launches } : Grid)) s.grids
    records := changeIf (fun r => grids.contains r.grid && r.berth == src)
      (fun r => ({ r with berth := b, seq := r.seq + x.seqs } : Record)) s.records
    agents := changeIf (fun a => grids.contains a.grid && (a.prof == .full || a.prof == .tile)) (fun a => ({ a with berth := b } : Agent)) s.agents
    cur := if grids.contains s.cur.grid && (s.cur.prof == .full || s.cur.prof == .tile) then { s.cur with berth := b } else s.cur
    pend := changeIf (fun p => grids.contains p.grid) (fun p => ({ p with berth := b } : Pending)) s.pend
    tlb := s.tlb.filter fun t => t.berth != src
    cores := s.cores.map fun c => (c.1, { c.2 with
      icache := c.2.icache.filter fun l => l.berth != src })
    clusters := s.clusters.map fun c => (c.1, { c.2 with
      locks := c.2.locks.map fun l => match l.space with
        | .global b' x => if b' == src && (match x with | .vf v _ => mine (.vf v) | .qi i _ => mine (.qi i) | _ => false)
            then { l with space := .global b x } else l
        | _ => l }) }
  let s : State := { s with records := changeIf (fun r => r.cause == 0xAC && r.berth == src
      && s.queues.any fun q => q.berth == b && queueNum q.owner q.nidx == r.sub.toNat) (fun r => ({ r with berth := b } : Record)) s.records }
  let moved := y.cancels.filter fun c => packets.contains c.1
  let s := s.modBerth src fun z => { z with cancels := z.cancels.filter fun c => !packets.contains c.1 }
  s.modBerth b fun z => { z with
    seqs := z.seqs + y.seqs, launches := z.launches + y.launches, admits := z.admits + y.admits, cancels := z.cancels ++ moved }

/-- Resources listed in the area moved (a merge). -/
def State.moveResources (s : State) (src b : BitVec 4) (a : Area) : State :=
  let move := fun (s : State) (n : BitVec 4 → Nat) (m : Nat) =>
    let m := BitVec.ofNat 64 m
    (s.setSysreg (n src) (s.sysreg (n src) 0 &&& ~~~m)).setSysreg (n b) (s.sysreg (n b) 0 ||| m)
  let s := move s bclust a.clusters
  let s := move s bquad a.quads
  let s := move s bseg (a.word0 >>> 32 % 2 ^ 16)
  let s := (List.range 8).foldl (fun s i => move s (fun x => bkey x i) (a.keys.getD i 0)) s
  (List.range 256).foldl (fun s i =>
    let m := a.ways.getD i 0
    if m = 0 then s
    else
      let lines := s.l2.filter fun l => isHbm (64 * l.line) && sliceOf (64 * l.line) == i && m.testBit l.way
      move (lines.foldl (fun s l => s.takeLine l.line) s) (waymask i) m) s

/-- Why an IMPORT from a berth of this device is refused, if it is (R401); bad is a failing tag of the area. -/
def State.importBad (s : State) (c : Word) (a : Area) (bad : Bool) : Option Nat :=
  let b := bopB c
  let src := bopSrc c
  let vs := bopVfs c
  let merge := vs == 0
  let vfs := if merge then s.vfsOf src else vs
  let third := fun (n : BitVec 4 → Nat) (m : Nat) => allBerths.any fun x => x != b && x != src && (s.sysreg (n x) 0).toNat &&& m != 0
  let slots := (usedSlots (s.sysreg (hmslice src) 0)).filter fun i => vfs.getLsbD (slotAt (s.sysreg (hmslice src) 0) i / 2 ^ 12)
  let moving := s.heldPackets.filter fun p => p.berth == src && match p.owner with
    | .vf v => vfs.getLsbD v.toNat
    | .qi i => merge && findD i.toNat (0 : BitVec 4) s.qiBerth == src
  let stB := (s.berth b).state
  if !(stB = 3 || stB = 0) || (s.berth src).state != 3 then some 1
  else if bad || a.word0 >>> 4 % 16 != 1 || a.word0 % 16 != src.toNat || (s.berth src).exported != some (s.berth src).gen then some 8
  else if !merge && vs &&& ~~~(s.vfsOf src) != 0 then some 10
  else if merge && (third bclust a.clusters || third bquad a.quads || third bseg (a.word0 >>> 32 % 2 ^ 16)
      || (List.range 8).any (fun i => third (fun x => bkey x i) (a.keys.getD i 0))
      || (List.range 256).any (fun i => third (waymask i) (a.ways.getD i 0))) then some 2
  else if 256 < (s.heldPackets.filter (·.berth == b)).length + moving.length then some 3
  else if 4 < popcount 16 (s.vfsOf b ||| vfs).toNat || 4 < (usedSlots (s.sysreg (hmslice b) 0)).length + slots.length then some 4
  else if merge && 4 < popcount 16 ((s.sysreg (bseg b) 0).toNat ||| (a.word0 >>> 32 % 2 ^ 16)) then some 5
  else if !merge && [b, src].any (fun x => (s.keySlots x).any fun k =>
      (s.slotKeys (BitVec.ofNat 9 k)).isSome && !(s.segments x).contains (s.slotSeg (BitVec.ofNat 9 k)).toNat) then some 9
  else none

/-- A berth before work comes into it: waiting times are counted up to now, and one in STATE 0 is created (R394, R434). -/
def State.begun (s : State) (b : BitVec 4) : State :=
  if (s.berth b).state = 0 then
    { s.modBerth b fun x => { x with stopped := s.clk } with mancut := put b.toNat (0, s.time, List.replicate 48 (0 : Byte)) s.mancut }
  else s.creditStop b

/-- IMPORT from a berth of this device: a merge or a split. -/
def State.importLocal (s : State) (c : Word) : State :=
  let ((a, bad), s) := s.readArea c
  match s.importBad c a bad with
  | some r => s.refuseBop 3 r
  | none =>
    let b := bopB c
    let src := bopSrc c
    let merge := bopVfs c == 0
    let vfs := if merge then s.vfsOf src else bopVfs c
    let s := if merge then s.moveResources src b a else s
    let w := s.sysreg (hmslice src) 0
    let slots := (usedSlots w).filter fun i => vfs.getLsbD (slotAt w i / 2 ^ 12)
    let s := s.setSysreg (hmslice b) (appendSlots (s.sysreg (hmslice b) 0) (slots.map (slotAt w)))
    let s := s.setSysreg (hmslice src) (slots.foldl (fun w i => setBits w (16 * i) 16 0) w)
    let s := (s.setVfs src (s.vfsOf src &&& ~~~vfs)).setVfs b (s.vfsOf b ||| vfs)
    let s := (s.creditStop src).begun b
    let ifaces := fun (i : BitVec 3) => merge && findD i.toNat (0 : BitVec 4) s.qiBerth == src
    let s := s.moveWork src b fun o => match o with
      | .vf v => vfs.getLsbD v.toNat
      | .qi i => ifaces i
    let s : State := { s with qiBerth := if merge then s.qiBerth.map (fun x => if x.2 == src then (x.1, b) else x) else s.qiBerth }
    let s := s.swapOutWhere fun t => match t.placed, s.gridOf t.grid with
      | some k, some g => g.berth == b && !s.coreIn b k.toNat
      | _, _ => false
    let s := s.modBerth b fun x => { x with gen := x.gen + 1, state := 3 }
    let left := s.sysreg (bclust src) 0 != 0
    let s := s.modBerth src fun x => { x with exported := if left then x.exported else none, state := if left then x.state else 0 }
    s.setBopStat false 0 3 0

/-- A queue from the words of its descriptor (R367). -/
def queueFrom (b : BitVec 4) (owner : QOwner) (ws : List Word) : Queue :=
  let w := fun (i : Nat) => ws.getD i 0
  { owner := owner, nidx := (w 1).extractLsb' 10 10, berth := b, header := (w 0).setWidth 48
    log2n := (w 1).extractLsb' 0 5, pw := (w 1).getLsbD 8, mapped := false, rptr := w 2, wptr := w 3
    vector := (w 4).setWidth 11, poolBase := w 5, poolSize := w 6, poolUsed := []
    tslot := (w 7).extractLsb' 52 12, key := (w 7).extractLsb' 43 9 }

/-- The blocks of an area from another device, read at their homes. -/
structure AreaBlocks where
  heap : List Byte
  queues : List Byte
  levels : List Byte
  clusters : List Byte
  segs : List Byte
  keys : List Byte
  deriving DecidableEq, Repr

def State.readBlocks (s : State) (c : Word) (segs keys : Nat) : (AreaBlocks × Bool) × State :=
  let get := fun (s : State) (off n : Nat) => s.homeGetBytes s.hmReq (bopArea c + off) n
  let ((h, b1), s) := get s 0x1000 0x4000
  let ((q, b2), s) := get s 0x5000 0x1000
  let ((l, b3), s) := get s 0x6000 0x1000
  let ((k, b4), s) := get s 0x7000 0x9000
  let ((g, b5), s) := get s 0x10000 (0x12000 * segs)
  let ((y, b6), s) := get s 0x58000 (256 * keys)
  ((⟨h, q, l, k, g, y⟩, b1 || b2 || b3 || b4 || b5 || b6), s)

/-- The entries and seal counters of segment g as its block gives them (R436). -/
def State.restoreSegment (s : State) (g : Nat) (bs : List Byte) : State :=
  let word := fun (off : Nat) => ofBytes ((bs.drop off).take 8)
  let entries := (List.range 4096).filterMap fun i =>
    let w0 := word (16 * i)
    let w1 := word (16 * i + 8)
    if w0 = 0 && w1 = 0 then none
    else some (⟨BitVec.ofNat 4 g, BitVec.ofNat 12 i, BitVec.ofNat 32 w0, BitVec.ofNat 32 (w0 >>> 32), BitVec.ofNat 32 (w1 >>> 32),
      w1.testBit 13, w1.testBit 12, BitVec.ofNat 9 w1⟩ : Tensor)
  { s with
    tensors := s.tensors.filter (·.seg.toNat != g) ++ entries
    counters := (List.range 1024).foldl (fun acc i =>
      let v := word (0x10000 + 8 * i)
      if v = 0 then acc else put (1024 * g + i) (BitVec.ofNat 64 v) acc) (s.counters.filter fun x => x.1 / 1024 != g) }

/-- Key slot k as its record gives it (R436): keys that are all zero are those of an empty slot (log 40). -/
def State.restoreKey (s : State) (k : Nat) (bs : List Byte) : State :=
  let key : BitVec 1024 := BitVec.ofNat 1024 (ofBytes ((bs.drop 8).take 128).reverse)
  { s with keys := (if key = 0 then [] else [⟨BitVec.ofNat 9 k, key, (bs.getD 2 0).setWidth 4⟩]) ++ s.keys.filter (·.slot.toNat != k) }

/-- The numbers from which an area's work is counted. -/
def State.bases (s : State) : List Nat := [s.nextPacket, s.nextGrid, s.nextTeam, s.nextRecord, s.nextAgent, s.nextOp]

/-- What the berth of another device sent as the work of berth b: of the VFs that came, with their numbers after those in
use, in no slot and on no core, in the order of R397 after what b has. The lath channels of its packets are the lowest
free ones of b (log 40), and its handles' clusters are translated by rank (R399). -/
def Moving.arrive (w : Moving) (s : State) (b : BitVec 4) (vfs : BitVec 16) (rank : List (Nat × Nat)) : Moving :=
  let x := s.berth b
  let mine := fun (o : QOwner) => match o with | .vf v => vfs.getLsbD v.toNat | .qi _ => false
  let packets := w.packets.filter fun p => s.nextPacket ≤ p.id && mine p.owner
  let free := s.freeLath b
  let lath := fun (p : Packet) =>
    let before := ((packets.takeWhile (·.id != p.id)).map (·.lath.length)).foldl (· + ·) 0
    (free.drop before).take p.lath.length
  let name := fun (g : Grid) => if g.xmap = [] then rank
    else g.xmap.map fun m => (m.1, findD m.2 m.2 rank)
  let grids := w.grids.filter fun g => s.nextGrid ≤ g.id && packets.any (·.id == g.packet)
  let has := fun (n : Nat) => grids.any (·.id == n)
  { packets := packets.map fun p => { p with berth := b, order := p.order + x.admits, launchNo := p.launchNo + x.launches, lath := lath p }
    grids := grids.map fun g =>
      { g with berth := b, launchNo := g.launchNo + x.launches, xmap := name g, lath := ((packets.find? (·.id == g.packet)).map lath).getD [] }
    teams := (w.teams.filter fun t => s.nextTeam ≤ t.id && has t.grid).map fun t =>
      { t with placed := none, scratch := Mem.empty, suspended := t.suspended.map fun m => (m.1, { m.2 with berth := b }) }
    records := (w.records.filter fun r => s.nextRecord ≤ r.id && (has r.grid || r.kind == 5)).map fun r =>
      { r with berth := b, seq := r.seq + x.seqs, since := min r.since s.clk }
    agents := (w.agents.filter fun a => s.nextAgent ≤ a.id && a.prof == .full && a.run != .off && has a.grid && !a.inSlot).map fun a =>
      { a with berth := b, lines := [], need := [], wbacks := [], looks := [], check := none, atom := none, fresh := false, pfx := [] } }

/-- The largest of some numbers and one before them, and the number after it. -/
def after (n : Nat) (xs : List Nat) : Nat := (xs.map (· + 1)).foldl max n

/-- The work of an area taken in: its packets hold their channels, and its areas their places in the pools. -/
def State.takeWork (s : State) (b : BitVec 4) (w : Moving) (counts : Nat × Nat × Nat) : State :=
  let s : State := { s with
    packets := s.packets ++ w.packets, grids := s.grids ++ w.grids, teams := s.teams ++ w.teams
    records := s.records ++ w.records, agents := s.agents ++ w.agents
    nextPacket := after s.nextPacket (w.packets.map (·.id)), nextGrid := after s.nextGrid (w.grids.map (·.id))
    nextTeam := after s.nextTeam (w.teams.map (·.id)), nextRecord := after s.nextRecord (w.records.map (·.id))
    nextAgent := after s.nextAgent (w.agents.map (·.id)) }
  let s := w.packets.foldl (fun s p => p.lath.foldl (fun s c => s.modChannel c fun x => { x with en := true, packet := p.id }) s) s
  let s := w.grids.foldl (fun s g => match w.packets.find? (·.id == g.packet) with
    | some p => s.modQueue p.owner p.nidx fun q => { q with poolUsed := q.poolUsed ++ [(g.area - q.poolBase.toNat, g.areaSize)] }
    | none => s) s
  s.modBerth b fun x => { x with seqs := x.seqs + counts.1, launches := x.launches + counts.2.1, admits := x.admits + counts.2.2 }

/-- The buffer-table entries and range locks of a cluster created again with their INDEX and GEN; a tile is fetched and
pinned again (R399). -/
def State.takeTable (s : State) (k : Nat) (w : List Entry × List RangeLock) (grids : List Nat) : State :=
  let es := w.1.filter fun e => e.idx < 64 && s.nextOp ≤ e.op && grids.contains e.grid
  let s := es.foldl (fun s e => s.modCluster k fun c => c.setEntry { e with
    pins := [], st := if e.tile.isSome && e.st != .free then .filling else e.st }) s
  let s := s.modCluster k fun c => { c with locks := c.locks ++ w.2.filter fun l => es.any (·.op == l.owner) }
  { s with nextOp := after s.nextOp (es.map (·.op)) }

/-- IMPORT of an area from another device (R399): its VFs, slices, segments, seal counters and key slots, its queues, and
its work. The blocks that have no stated layout are read as the implementation reads them (log 40). -/
def State.importAway (s : State) (c : Word) : State :=
  let ((a, bad), s) := s.readArea c
  let b := bopB c
  let stB := (s.berth b).state
  let vfs := BitVec.ofNat 16 (a.word0 >>> 16)
  let gs := (List.range 16).filter fun i => (a.word0 >>> 32).testBit i
  let ks := (List.range 512).filter fun k => (a.keys.getD (k / 64) 0).testBit (k % 64)
  let third := fun (n : BitVec 4 → Nat) (m : Nat) => allBerths.any fun x => x != b && (s.sysreg (n x) 0).toNat &&& m != 0
  let here := clustersIn (s.sysreg (bclust b) 0).toNat
  let ((x, bad'), s) := s.readBlocks c gs.length ks.length
  let work := (Config.moving s.bases x.heap x.levels).arrive (s.begun b) b vfs ((clustersIn a.clusters).zip here)
  let held := work.packets.filter fun p => p.admitted && if p.best then p.phase == 0 else p.phase < 5
  if !(stB = 3 || stB = 0) then s.refuseBop 3 1
  else if bad || bad' || a.word0 >>> 4 % 16 != 1 || !a.word0.testBit 10
      || popcount 64 a.clusters != popcount 64 (s.sysreg (bclust b) 0).toNat then s.refuseBop 3 8
  else if third bseg (a.word0 >>> 32 % 2 ^ 16) || (List.range 8).any (fun i => third (fun x => bkey x i) (a.keys.getD i 0))
      || (List.range 16).any (fun i => vfs.getLsbD i && (s.berthOfVf i).any (· != b)) then s.refuseBop 3 2
  else if 256 < (s.heldPackets.filter (·.berth == b)).length + held.length then s.refuseBop 3 3
  else if 4 < popcount 16 (s.vfsOf b ||| vfs).toNat
      || 4 < (usedSlots (s.sysreg (hmslice b) 0)).length + (usedSlots a.slice).length then s.refuseBop 3 4
  else if 4 < popcount 16 ((s.sysreg (bseg b) 0).toNat ||| (a.word0 >>> 32 % 2 ^ 16)) then s.refuseBop 3 5
  else
    let s := s.begun b
    let s := s.setVfs b (s.vfsOf b ||| vfs)
    let s := s.setSysreg (bseg b) (s.sysreg (bseg b) 0 ||| BitVec.ofNat 64 (a.word0 >>> 32 % 2 ^ 16))
    let s := (List.range 8).foldl (fun s i =>
      s.setSysreg (bkey b i) (s.sysreg (bkey b i) 0 ||| BitVec.ofNat 64 (a.keys.getD i 0))) s
    let s := s.setSysreg (hmslice b) (appendSlots (s.sysreg (hmslice b) 0) ((usedSlots a.slice).map (slotAt a.slice)))
    let s := ((List.range gs.length).zip gs).foldl (fun s y => s.restoreSegment y.2 (x.segs.drop (0x12000 * y.1))) s
    let s := ((List.range ks.length).zip ks).foldl (fun s y => s.restoreKey y.2 ((x.keys.drop (256 * y.1)).take 256)) s
    let owner : QOwner := .vf (BitVec.ofNat 4 (((List.range 16).find? vfs.getLsbD).getD 0))
    let qs := ((List.range 64).map fun i => queueFrom b owner (wordsIn ((x.queues.drop (64 * i)).take 64))).filter fun q => q.header != 0
    let s : State := { s with queues := s.queues.filter (fun q => !qs.any fun x => x.owner == q.owner && x.nidx == q.nidx) ++ qs }
    let s := s.takeWork b work (Config.counters x.levels)
    let s := ((List.range here.length).zip here).foldl (fun s k =>
      s.takeTable k.2 (Config.clusterWork s.bases ((x.clusters.drop (576 * k.1)).take 576)) (work.grids.map (·.id))) s
    let s := (qs.filter fun q => q.pw || q.wptr != q.rptr).foldl State.wakeQueue s
    (s.modBerth b fun x => { x with gen := x.gen + 1, state := 3 }).setBopStat false 0 3 0

def State.importBerth (s : State) (c : Word) : State :=
  if bopMig c then s.importAway c else s.importLocal c

def execImportBerth (c : Word) (s : State) : Host.Outcome State Fault Refusal :=
  .next (if s.bopBusy then s else s.importBerth c)

/-- A write of BOPCMD (R393). -/
def State.writeBopcmd (s : State) (c : Word) : State :=
  if s.bopBusy then s
  else
    let s := s.setSysreg (dev 0x580) (setBits c 16 7 0)
    match bits c 3 0 with
    | 1 => s.quiesce c
    | 2 => s.exportBerth c
    | 3 => s.importBerth c
    | 4 => s.resume c
    | 5 => s.abandon c
    | op => s.refuseBop op 1

/-! ### Skim (R404, R405) -/

/-- One channel line read and checked: corrected, or, where its error persists, its units marked. -/
def execSkimLine (line : Nat) (corrected persist : Bool) (s : State) : Host.Outcome State Fault Refusal :=
  let pa := 64 * line
  if !isHbm pa || !s.there pa then .next s
  else if persist then
    let units := (List.range 8).map (8 * line + ·)
    let s := match s.l2.find? (·.line == line) with
      | some l =>
        if l.dirty then { s with l2 := changeFirst (·.line == line) (fun x : L2Line =>
            ({ x with chanMarks := units } : L2Line)) s.l2 }
        else { s with mem := units.foldl (fun m u => m.mark (8 * u) true) s.mem }
      | none => { s with mem := units.foldl (fun m u => m.mark (8 * u) true) s.mem }
    .next (s.note 0xB5 0 (BitVec.ofNat 64 pa))
  else if corrected then .next (s.note 0 0 (BitVec.ofNat 64 pa))
  else .next s

end Sys2Proof.Machine
end

