-- ==== Sys2Proof/Machine/Carry.lean ====
section
/-!
DEFINITION. The carry chain (spec/11_carry_chain.md): binding, long integers held across the lanes of
a group, exact accumulation and the conversions.
-/

namespace Sys2Proof.Machine

/-! ### BIND (R269) -/

def execBind (i : BitVec 11) (s : State) : Host.Outcome State Fault Refusal :=
  unit (wordI 64 0 0 i) (fun u => do
    let v := u.imm
    if v = 0 then modCur fun a => { a with ls := 0 }
    else if v = 2 || v = 4 || v = 8 || v = 16 || v = 32 then
      let n := v.toNat
      let a := (← get).cur
      let split := splitBy n a.em ||| splitBy n a.xm
      if split != 0 then trap 0x50 (split.setWidth 64)
      modCur fun a => { a with ls := BitVec.ofNat 8 (0x80 + n.log2) }
    else trap 0x51 (BitVec.ofInt 64 v)) s

/-! ### Group values (R267, R271) -/

/-- A group operand: the limbs of group g, or a scalar sign-extended, as its w bits. -/
def groupVal (n : Nat) (reg : Nat) (v : Lanes) (g : Nat) : Nat :=
  if 96 ≤ reg then wrap (64 * n) (lane v 0).toInt
  else joinEls 64 ((List.range n).map fun j => (lane v (n * g + j)).toNat)

/-- The limb-0 lane of group g, or the scalar. -/
def limb0 (n : Nat) (v : Lanes) (g : Nat) : Word := lane v (n * g)

/-- A unit of the chain: every active group's result, and its flags under FLAGS (R272). -/
def chain (u : U) (f : Nat → Nat → Nat × Nat) : Act Unit := do
  let n := (groupSize (← get).cur).getD 1
  writeReg u u.d (lanesOf fun l => BitVec.ofNat 64 ((f n (l / n)).1 >>> (64 * (l % n)))) 0
  writeFlags u fun l => (f n (l / n)).2

/-- N and Z of a group value with C and V given (R272). -/
def groupFlags (n y : Nat) (c v : Bool) : Nat := intFlags (64 * n) y c v

/-- The true value lies outside the range of n limbs. -/
def outside (n : Nat) (t : Int) : Bool :=
  decide (t < -(2 ^ (64 * n - 1) : Nat)) || decide ((2 ^ (64 * n - 1) : Nat) ≤ t)

/-- C of condition register k in the group's limb-0 lane. -/
def groupCarry (a : Agent) (n g k : Nat) : Bool := (ccOf a (n * g) k).testBit 1

/-! ### LALU (R276) -/

def execLadd (d a b : Reg) (s : State) : Host.Outcome State Fault Refusal :=
  unit (wordT 65 d a b 0) (fun u => do
    let ag := (← get).cur
    chain u fun n g => addWith (64 * n) (groupVal n u.a u.va g) (groupVal n u.b u.vb g) (carryIn u ag false (n * g))) s

def execLadc (d a : Reg) (c : BitVec 7) (s : State) : Host.Outcome State Fault Refusal :=
  unit (wordT 65 d a c 1) (fun u => do
    let ag := (← get).cur
    chain u fun n g => addWith (64 * n) (groupVal n u.a u.va g) 0 (groupCarry ag n g u.b)) s

def execLsub (d a b : Reg) (s : State) : Host.Outcome State Fault Refusal :=
  unit (wordT 65 d a b 2) (fun u => do
    let ag := (← get).cur
    chain u fun n g => subWith (64 * n) (groupVal n u.a u.va g) (groupVal n u.b u.vb g) (carryIn u ag true (n * g))) s

def execLsbc (d a : Reg) (c : BitVec 7) (s : State) : Host.Outcome State Fault Refusal :=
  unit (wordT 65 d a c 3) (fun u => do
    let ag := (← get).cur
    chain u fun n g => subWith (64 * n) (groupVal n u.a u.va g) 0 (groupCarry ag n g u.b)) s

def execLneg (d a : Reg) (s : State) : Host.Outcome State Fault Refusal :=
  unit (wordT 65 d a 0 4) (fun u => chain u fun n g => subWith (64 * n) 0 (groupVal n u.a u.va g) true) s

def execLcmp (k : BitVec 2) (a b : Reg) (s : State) : Host.Outcome State Fault Refusal :=
  unit (wordT 65 (0#5 ++ k) a b 5) (fun u => do
    let n := (groupSize (← get).cur).getD 1
    writeCc (u.d % 4) u.act fun l =>
      (subWith (64 * n) (groupVal n u.a u.va (l / n)) (groupVal n u.b u.vb (l / n)) true).2) s

/-- A long shift by the unsigned amount of b's limb 0. -/
def longShift (u : U) (f : Nat → Nat → Nat → Nat × Nat) : Act Unit :=
  chain u fun n g => f (64 * n) (groupVal n u.a u.va g) (limb0 n u.vb g).toNat

def execLshl (d a b : Reg) (s : State) : Host.Outcome State Fault Refusal :=
  unit (wordT 65 d a b 6) (fun u => longShift u shlWith) s
def execLshr (d a b : Reg) (s : State) : Host.Outcome State Fault Refusal :=
  unit (wordT 65 d a b 7) (fun u => longShift u shrWith) s
def execLsar (d a b : Reg) (s : State) : Host.Outcome State Fault Refusal :=
  unit (wordT 65 d a b 8) (fun u => longShift u sarWith) s

def execLabs (d a : Reg) (s : State) : Host.Outcome State Fault Refusal :=
  unit (wordT 65 d a 0 9) (fun u => chain u fun n g =>
    let x := signedOf (64 * n) (groupVal n u.a u.va g)
    let y := x.natAbs % 2 ^ (64 * n)
    (y, groupFlags n y false (outside n x.natAbs))) s

/-! ### LMUL (R277) -/

/-- A product form: the true result reduced, with V when it lies outside. -/
def longProduct (u : U) (f : Nat → Nat → Int) : Act Unit :=
  chain u fun n g =>
    let t := f n g
    let y := wrap (64 * n) t
    (y, groupFlags n y false (outside n t))

/-- A group operand as a signed number. -/
def groupInt (n reg : Nat) (v : Lanes) (g : Nat) : Int := signedOf (64 * n) (groupVal n reg v g)

def execLmuls (d a b : Reg) (s : State) : Host.Outcome State Fault Refusal :=
  unit (wordT 66 d a b 0) (fun u => longProduct u fun n g => groupInt n u.a u.va g * (limb0 n u.vb g).toInt) s
def execLmacs (d a b : Reg) (s : State) : Host.Outcome State Fault Refusal :=
  unit (wordT 66 d a b 1) (fun u => longProduct u fun n g =>
    groupInt n u.d u.vd g + groupInt n u.a u.va g * (limb0 n u.vb g).toInt) s
def execLmull (d a b : Reg) (s : State) : Host.Outcome State Fault Refusal :=
  unit (wordT 66 d a b 2) (fun u => longProduct u fun n g => groupInt n u.a u.va g * groupInt n u.b u.vb g) s
def execLmulh (d a b : Reg) (s : State) : Host.Outcome State Fault Refusal :=
  unit (wordT 66 d a b 3) (fun u => chain u fun n g =>
    let y := wrap (64 * n) ((groupInt n u.a u.va g * groupInt n u.b u.vb g) / (2 ^ (64 * n) : Nat))
    (y, groupFlags n y false false)) s

/-! ### LCONV (R278 to R282) -/

/-- An accumulator: its value and its special word. -/
structure Acc where
  x : Int
  nanBits : Nat
  ovf : Bool
  nan : Bool
  ninf : Bool
  pinf : Bool
  deriving DecidableEq, Repr

/-- The accumulator a group holds (R278). -/
def Acc.of (v : Lanes) (g : Nat) : Acc :=
  let w := (lane v (8 * g + 5)).toNat
  { x := signedOf 320 (joinEls 64 ((List.range 5).map fun j => (lane v (8 * g + j)).toNat))
    nanBits := w / 2 ^ 32, ovf := w.testBit 3, nan := w.testBit 2, ninf := w.testBit 1, pinf := w.testBit 0 }

/-- Its eight limbs. -/
def Acc.limbs (c : Acc) : Nat :=
  wrap 320 c.x + 2 ^ 320 * (c.pinf.toNat + 2 * c.ninf.toNat + 4 * c.nan.toNat + 8 * c.ovf.toNat + 2 ^ 32 * c.nanBits)

/-- One f32 added exactly, with the flags it raises (R280). -/
def Acc.add (c : Acc × Flags) (x : Nat) : Acc × Flags :=
  let a := c.1
  match Fmt.f32.val x with
  | .nan n =>
    (if a.nan then a else { a with nan := true, nanBits := Fmt.f32.quiet n },
      if Fmt.f32.isSnan n then c.2 ||| flagIV else c.2)
  | .inf s => (if s then { a with ninf := true } else { a with pinf := true }, c.2)
  | .fin s m e =>
    let v : Int := (m * 2 ^ (e + 160).toNat : Nat)
    let r := addOv 320 a.x (if s then -v else v)
    ({ a with x := r.1, ovf := a.ovf || r.2 }, c.2)

def execLaccf32 (d a : Reg) (s : State) : Host.Outcome State Fault Refusal :=
  unit (wordT 67 d a 0 0) (fun u => do
    let r := fun (g : Nat) =>
      let w := groupVal 8 u.a u.va g
      (splitEls 32 16 w).foldl Acc.add (Acc.of u.vd g, (0 : Flags))
    raiseFp u.act fun l => (r (l / 8)).2
    chain u fun _ g => ((r g).1.limbs, 0)) s

/-- LTOF: the group value of the mode rounded once into a format (R281). -/
def ltof (f : Fmt) (u : U) : Act Unit := do
  let ag := (← get).cur
  let n := (groupSize ag).getD 1
  let rm := rmOf ag
  let r : Nat → Nat × Flags := fun g =>
    match u.b with
    | 1 =>
      let c := Acc.of u.va g
      if c.nan then (if f.width = 32 then c.nanBits else nanTo Fmt.f32 f c.nanBits, 0)
      else if (c.pinf && c.ninf) || c.ovf then (f.qnan, flagIV)
      else if c.pinf then (f.infinity false, 0)
      else if c.ninf then (f.infinity true, 0)
      else roundInt f rm c.x (-160)
    | b => roundInt f rm (groupInt n u.a u.va g) (if b = 0 then -36 else 0)
  raiseFp u.act fun l => (r (l / n)).2
  writeReg u u.d (lanesOf fun l => BitVec.ofNat 64 (r (l / n)).1) 0

def execLtof32 (d a : Reg) (c : BitVec 7) (s : State) : Host.Outcome State Fault Refusal :=
  unit (wordT 67 d a c 1) (ltof Fmt.f32) s
def execLtof64 (d a : Reg) (c : BitVec 7) (s : State) : Host.Outcome State Fault Refusal :=
  unit (wordT 67 d a c 2) (ltof Fmt.f64) s

def execLfromxa (d a b : Reg) (s : State) : Host.Outcome State Fault Refusal :=
  unit (wordT 67 d a b 3) (fun u => chain u fun n g =>
    (wrap (64 * n) ((limb0 n u.va g).toNat + (2 ^ 64 : Nat) * (limb0 n u.vb g).toInt), 0)) s

def execLtoxa (d a : Reg) (c : BitVec 7) (s : State) : Host.Outcome State Fault Refusal :=
  unit (wordT 67 d a c 4) (fun u => do
    let n := (groupSize (← get).cur).getD 1
    writeReg u u.d (lanesOf fun l => lane u.va (l / n * n + u.b)) 0) s

def execLfromi64 (d a : Reg) (s : State) : Host.Outcome State Fault Refusal :=
  unit (wordT 67 d a 0 5) (fun u => chain u fun n g => (wrap (64 * n) (limb0 n u.va g).toInt, 0)) s

end Sys2Proof.Machine
end

