-- ==== Sys2Proof/Machine/PublicKey.lean ====
section
/-!
DEFINITION. The public-key algorithms that spec/18_seal_engine.md names: Ed25519 (RFC 8032), X25519 (RFC 7748), the
secp384r1 exchange of SPDM, ML-DSA-65 (FIPS 204) and ML-KEM-768 (FIPS 203), with SHAKE and SHA-3 (FIPS 202) and SHA-512
(FIPS 180-4) beneath them. Strings are lists of bytes.
-/

namespace Sys2Proof.Machine

/-! ### SHA-512, and the sponges of FIPS 202 -/

def sha512Init : List Word :=
  [0x6A09E667F3BCC908, 0xBB67AE8584CAA73B, 0x3C6EF372FE94F82B, 0xA54FF53A5F1D36F1,
    0x510E527FADE682D1, 0x9B05688C2B3E6C1F, 0x1F83D9ABFB41BD6B, 0x5BE0CD19137E2179]

def sha512 (m : List Byte) : List Byte := shaBytes (shaBlocks sha512Init (shaPad m (8 * m.length)))

def keccakConstants : List Word :=
  [0x0000000000000001, 0x0000000000008082, 0x800000000000808A, 0x8000000080008000, 0x000000000000808B, 0x0000000080000001,
    0x8000000080008081, 0x8000000000008009, 0x000000000000008A, 0x0000000000000088, 0x0000000080008009, 0x000000008000000A] ++
  [0x000000008000808B, 0x800000000000008B, 0x8000000000008089, 0x8000000000008003, 0x8000000000008002, 0x8000000000000080,
    0x000000000000800A, 0x800000008000000A, 0x8000000080008081, 0x8000000000008080, 0x0000000080000001, 0x8000000080008008]

/-- The rotation of the lane (x, y), at x + 5y. -/
def keccakRotations : List Nat :=
  [0, 1, 62, 28, 27, 36, 44, 6, 55, 20, 3, 10, 43, 25, 39, 41, 45, 15, 21, 8, 18, 2, 61, 56, 14]

/-- A round of KECCAK-f[1600] on 25 lanes. -/
def keccakRound (a : List Word) (rc : Word) : List Word :=
  let at_ := fun (i : Nat) => a.getD i 0
  let c := (List.range 5).map fun x => at_ x ^^^ at_ (x + 5) ^^^ at_ (x + 10) ^^^ at_ (x + 15) ^^^ at_ (x + 20)
  let d := (List.range 5).map fun x => c.getD ((x + 4) % 5) 0 ^^^ (c.getD ((x + 1) % 5) 0).rotateLeft 1
  let b := (List.range 25).map fun i =>
    let j := (i + 3 * (i / 5)) % 5 + 5 * (i % 5)
    (at_ j ^^^ d.getD (j % 5) 0).rotateLeft (keccakRotations.getD j 0)
  let e := (List.range 25).map fun i =>
    let row := fun (k : Nat) => b.getD (i / 5 * 5 + (i + k) % 5) 0
    row 0 ^^^ ~~~row 1 &&& row 2
  match e with
  | x :: xs => (x ^^^ rc) :: xs
  | [] => []

def keccakF (a : List Word) : List Word := keccakConstants.foldl keccakRound a

/-- The state after a padded message, in blocks of rate bytes. -/
def absorb (rate : Nat) (m : List Byte) : List Word :=
  (pieces rate m).foldl (fun a p =>
    let ws := (pieces 8 p).map fun x => BitVec.ofNat 64 (ofBytes x)
    keccakF (((a.take (rate / 8)).zip ws).map (fun x => x.1 ^^^ x.2) ++ a.drop (rate / 8))) (List.replicate 25 0)

/-- n blocks of the output of a state. -/
def squeeze (rate : Nat) : Nat → List Word → List Byte
  | 0, _ => []
  | n + 1, a => ((a.take (rate / 8)).flatMap fun x => toBytes 8 x.toNat) ++ squeeze rate n (keccakF a)

/-- len bytes of the sponge of a rate, with the suffix of its function, 6 for SHA-3 and 0x1F for SHAKE. -/
def sponge (rate : Nat) (suffix : Byte) (m : List Byte) (len : Nat) : List Byte :=
  let fill := rate - m.length % rate
  let pad := if fill = 1 then [suffix ^^^ 0x80] else suffix :: (List.replicate (fill - 2) 0 ++ [0x80])
  (squeeze rate ((len + rate - 1) / rate) (absorb rate (m ++ pad))).take len

def shake128 (m : List Byte) (len : Nat) : List Byte := sponge 168 0x1F m len
def shake256 (m : List Byte) (len : Nat) : List Byte := sponge 136 0x1F m len
def sha3x256 (m : List Byte) : List Byte := sponge 136 6 m 32
def sha3x512 (m : List Byte) : List Byte := sponge 72 6 m 64

/-! ### Numbers modulo a prime -/

/-- b^e modulo m, of the low 384 bits of e. -/
def powMod (b e m : Nat) : Nat :=
  (List.range 384).foldr (fun i acc =>
    let x := acc * acc % m
    if e.testBit i then x * b % m else x) 1

/-- The inverse modulo a prime, 0 of 0. -/
def invMod (x p : Nat) : Nat := powMod x (p - 2) p

/-- x − y modulo p. -/
def subMod (x y p : Nat) : Nat := (x + p - y % p) % p

/-! ### Ed25519 and X25519 -/

def edP : Nat := 2 ^ 255 - 19
def edL : Nat := 2 ^ 252 + 27742317777372353535851937790883648493
def edD : Nat := 0x52036CEE2B6FFE738CC740797779E89800700A4D4141D8AB75EB4DCA135978A3

/-- A point as (X, Y, Z, T), with x = X/Z, y = Y/Z and T = XY/Z. -/
structure EdPoint where
  x : Nat
  y : Nat
  z : Nat
  t : Nat
  deriving DecidableEq, Repr

def edZero : EdPoint := ⟨0, 1, 1, 0⟩

/-- The point of affine coordinates. -/
def edAffine (x y : Nat) : EdPoint := ⟨x, y, 1, x * y % edP⟩

def edBase : EdPoint := edAffine 0x216936D3CD6E53FEC0A4E231FDD6DC5C692CC7609525A7B2C9562D608F25D51A
  0x6666666666666666666666666666666666666666666666666666666666666658

/-- The sum of two points, equal ones too (RFC 8032, 5.1.4). -/
def edAdd (p q : EdPoint) : EdPoint :=
  let a := subMod p.y p.x edP * subMod q.y q.x edP % edP
  let b := (p.y + p.x) * (q.y + q.x) % edP
  let c := p.t * 2 * edD * q.t % edP
  let d := p.z * 2 * q.z % edP
  let e := subMod b a edP
  let f := subMod d c edP
  let g := (d + c) % edP
  let h := (b + a) % edP
  ⟨e * f % edP, g * h % edP, f * g % edP, e * h % edP⟩

/-- k times a point, of the low 384 bits of k. -/
def edMul (k : Nat) (p : EdPoint) : EdPoint :=
  (List.range 384).foldr (fun i acc =>
    let x := edAdd acc acc
    if k.testBit i then edAdd x p else x) edZero

def edEncode (p : EdPoint) : List Byte :=
  let zi := invMod p.z edP
  toBytes 32 (p.y * zi % edP + 2 ^ 255 * (p.x * zi % edP % 2))

/-- The point of 32 bytes, where they name one (RFC 8032, 5.1.3). -/
def edDecode (bs : List Byte) : Option EdPoint :=
  let n := ofBytes bs
  let y := n % 2 ^ 255
  let sign := n / 2 ^ 255 % 2
  let u := subMod (y * y) 1 edP
  let v := (edD * y % edP * y + 1) % edP
  let r := u * powMod v 3 edP % edP * powMod (u * powMod v 7 edP % edP) ((edP - 5) / 8) edP % edP
  let root :=
    if v * r % edP * r % edP = u then some r
    else if (v * r % edP * r + u) % edP = 0 then some (r * powMod 2 ((edP - 1) / 4) edP % edP)
    else none
  match root with
  | none => none
  | some x =>
    if bs.length ≠ 32 || edP ≤ y || (x = 0 && sign = 1) then none
    else some (edAffine (if x % 2 = sign then x else edP - x) y)

/-- A secret scalar's bytes with the bits that Ed25519 and X25519 fix. -/
def clamp (bs : List Byte) : Nat := ofBytes bs % 2 ^ 254 / 8 * 8 + 2 ^ 254

def ed25519Public (seed : List Byte) : List Byte := edEncode (edMul (clamp ((sha512 seed).take 32)) edBase)

/-- The signature of a message under the private key of 32 bytes. -/
def ed25519Sign (seed m : List Byte) : List Byte :=
  let h := sha512 seed
  let a := clamp (h.take 32)
  let r := ofBytes (sha512 (h.drop 32 ++ m)) % edL
  let rb := edEncode (edMul r edBase)
  let k := ofBytes (sha512 (rb ++ edEncode (edMul a edBase) ++ m)) % edL
  rb ++ toBytes 32 ((r + k * a) % edL)

/-- A signature verifies under a public key: [8][S]B = [8]R + [8][k]A. -/
def ed25519Verify (key m sig : List Byte) : Bool :=
  let sn := ofBytes (sig.drop 32)
  match edDecode key, edDecode (sig.take 32) with
  | some a, some r =>
    let k := ofBytes (sha512 (sig.take 32 ++ key ++ m)) % edL
    let x := edMul (8 * sn) edBase
    let y := edAdd (edMul 8 r) (edMul (8 * k) a)
    sig.length == 64 && decide (sn < edL) && x.x * y.z % edP == y.x * x.z % edP && x.y * y.z % edP == y.y * x.z % edP
  | _, _ => false

/-- The ladder of RFC 7748 from bit n − 1 of k down, on (x2, z2, x3, z3). -/
def x25519Ladder (k u : Nat) : Nat → Nat × Nat × Nat × Nat → Nat × Nat × Nat × Nat
  | 0, v => v
  | n + 1, (x2, z2, x3, z3) =>
    let swap := k.testBit n
    let (x2, z2, x3, z3) := if swap then (x3, z3, x2, z2) else (x2, z2, x3, z3)
    let a := (x2 + z2) % edP
    let aa := a * a % edP
    let b := subMod x2 z2 edP
    let bb := b * b % edP
    let e := subMod aa bb edP
    let da := subMod x3 z3 edP * a % edP
    let cb := (x3 + z3) * b % edP
    let x3 := powMod (da + cb) 2 edP
    let z3 := u * powMod (subMod da cb edP) 2 edP % edP
    let x2 := aa * bb % edP
    let z2 := e * (aa + 121665 * e) % edP
    x25519Ladder k u n (if swap then (x3, z3, x2, z2) else (x2, z2, x3, z3))

/-- The function X25519 of a scalar and a u coordinate, of 32 bytes each. -/
def x25519 (scalar point : List Byte) : List Byte :=
  let u := ofBytes point % 2 ^ 255 % edP
  let (x, z, _, _) := x25519Ladder (clamp scalar) u 255 (1, 0, u, 1)
  toBytes 32 (x * invMod z edP % edP)

/-! ### secp384r1 -/

def ecP : Nat := 2 ^ 384 - 2 ^ 128 - 2 ^ 96 + 2 ^ 32 - 1
def ecB : Nat := 0xB3312FA7E23EE7E4988E056BE3F82D19181D9C6EFE8141120314088F5013875AC656398D8A2ED19D2A85C8EDD3EC2AEF
def ecN : Nat := 0xFFFFFFFFFFFFFFFFFFFFFFFFFFFFFFFFFFFFFFFFFFFFFFFFC7634D81F4372DDF581A0DB248B0A77AECEC196ACCC52973
def ecBase : Option (Nat × Nat) := some
  (0xAA87CA22BE8B05378EB1C71EF320AD746E1D3B628BA79B9859F741E082542A385502F25DBF55296C3A545E3872760AB7,
    0x3617DE4A96262C6F5D9E98BF9292DC29F8F41DBD289A147CE9DA3113B5F0B8C00A60B1CE1D7E819D7A431D7C90EA0E5F)

/-- The sum of two points; none is the point at infinity. -/
def ecAdd (p q : Option (Nat × Nat)) : Option (Nat × Nat) :=
  match p, q with
  | none, _ => q
  | _, none => p
  | some (x1, y1), some (x2, y2) =>
    if x1 = x2 && (y1 + y2) % ecP = 0 then none
    else
      let l := if x1 = x2 then (3 * x1 * x1 + ecP - 3) * invMod (2 * y1) ecP % ecP
        else subMod y2 y1 ecP * invMod (subMod x2 x1 ecP) ecP % ecP
      let x := subMod (l * l) (x1 + x2) ecP
      some (x, subMod (l * subMod x1 x ecP) y1 ecP)

def ecMul (k : Nat) (p : Option (Nat × Nat)) : Option (Nat × Nat) :=
  (List.range 384).foldr (fun i acc =>
    let x := ecAdd acc acc
    if k.testBit i then ecAdd x p else x) none

/-- The point of a share: its coordinates, 48 bytes each, highest first. -/
def ecPoint (share : List Byte) : Option (Nat × Nat) :=
  let x := beNat (share.take 48)
  let y := beNat (share.drop 48)
  if share.length = 96 && x < ecP && y < ecP && y * y % ecP = (x * x % ecP * x + (ecP - 3) * x + ecB) % ecP then some (x, y)
  else none

/-- The share of a secret number, and the secret agreed with another share: the x coordinate. -/
def ecShare (k : Nat) : List Byte := match ecMul (k % (ecN - 1) + 1) ecBase with
  | some (x, y) => beBytes 48 x ++ beBytes 48 y
  | none => []
def ecSecret (k : Nat) (share : List Byte) : List Byte := match ecMul (k % (ecN - 1) + 1) (ecPoint share) with
  | some (x, _) => beBytes 48 x
  | none => []

/-! ### Polynomials modulo a prime, as lists of coefficients

The transform that both lattice standards use sends a polynomial to its values at odd powers of a root of unity, in
bit-reversed order; here it is written as that. -/

/-- x with its low n bits in reverse order. -/
def bitRev (n x : Nat) : Nat := (List.range n).foldl (fun acc i => 2 * acc + (x / 2 ^ i) % 2) 0

/-- The odd powers of a root, 2^n of them, in bit-reversed order. -/
def rootsOf (root q n : Nat) : List Nat := (List.range (2 ^ n)).map fun i => powMod root (2 * bitRev n i + 1) q

/-- The values of a polynomial at some points. -/
def valuesAt (q : Nat) (roots f : List Nat) : List Nat := roots.map fun r => f.foldr (fun c acc => (acc * r + c) % q) 0

/-- n sums of terms, each term multiplied by a factor of its own after every sum. -/
def powerSums (q : Nat) (factors : List Nat) : Nat → List Nat → List Nat
  | 0, _ => []
  | n + 1, ts => ts.foldl (· + ·) 0 % q :: powerSums q factors n ((ts.zip factors).map fun x => x.1 * x.2 % q)

/-- The polynomial of given values at those points. -/
def fromValues (q : Nat) (roots vs : List Nat) : List Nat :=
  let scale := invMod roots.length q
  (powerSums q (roots.map fun r => invMod r q) roots.length vs).map fun x => x * scale % q

def polyAdd (q : Nat) (f g : List Nat) : List Nat := (f.zip g).map fun x => (x.1 + x.2) % q
def polySub (q : Nat) (f g : List Nat) : List Nat := (f.zip g).map fun x => subMod x.1 x.2 q
def pointMul (q : Nat) (f g : List Nat) : List Nat := (f.zip g).map fun x => x.1 * x.2 % q

/-- The sum of polynomials of 256 coefficients. -/
def polySum (q : Nat) (fs : List (List Nat)) : List Nat := fs.foldl (polyAdd q) (List.replicate 256 0)

/-- Numbers of w bits packed from the lowest bit on, and read back. -/
def packBits (w : Nat) (xs : List Nat) : List Byte := toBytes (w * xs.length / 8) (joinEls w xs)
def unpackBits (w n : Nat) (bs : List Byte) : List Nat :=
  let v := ofBytes bs
  (List.range n).map fun i => v >>> (w * i) % 2 ^ w

/-- The vectors of a list of n-byte pieces. -/
def unpackVec (w : Nat) (bs : List Byte) : List (List Nat) := (pieces (32 * w) bs).map (unpackBits w 256)

/-- The representative of x modulo m nearest to zero, of the two nearest the positive one. -/
def centred (m x : Nat) : Int := if m / 2 < x % m then (x % m : Nat) - (m : Int) else (x % m : Nat)

/-- An integer modulo q. -/
def modOf (q : Nat) (x : Int) : Nat := (x % (q : Int)).toNat

/-- The largest absolute value of a coefficient. -/
def polyNorm (q : Nat) (fs : List (List Nat)) : Nat :=
  fs.foldl (fun acc f => f.foldl (fun acc x => max acc (centred q x).natAbs) acc) 0

/-! ### ML-DSA-65 -/

def dsaQ : Nat := 8380417
def dsaRoots : List Nat := rootsOf 1753 dsaQ 8
def dsaNtt (f : List Nat) : List Nat := valuesAt dsaQ dsaRoots f
def dsaInv (f : List Nat) : List Nat := fromValues dsaQ dsaRoots f

/-- γ1 and γ2. -/
def dsaG1 : Nat := 2 ^ 19
def dsaG2 : Nat := (dsaQ - 1) / 32

/-- The matrix of a public seed, transformed: six rows of five. -/
def dsaMatrix (rho : List Byte) : List (List (List Nat)) :=
  (List.range 6).map fun r => (List.range 5).map fun s =>
    (((pieces 3 (shake128 (rho ++ [BitVec.ofNat 8 s, BitVec.ofNat 8 r]) 894)).map fun p => ofBytes p % 2 ^ 23).filter (· < dsaQ)).take 256

/-- A polynomial of coefficients from −4 to 4. -/
def dsaSmall (seed : List Byte) (n : Nat) : List Nat :=
  ((((shake256 (seed ++ toBytes 2 n) 481).flatMap fun b => [b.toNat % 16, b.toNat / 16]).filter (· < 9)).take 256).map fun x =>
    subMod 4 x dsaQ

/-- The matrix times a transformed vector. -/
def dsaTimes (a : List (List (List Nat))) (v : List (List Nat)) : List (List Nat) :=
  a.map fun row => dsaInv (polySum dsaQ ((row.zip v).map fun x => pointMul dsaQ x.1 x.2))

/-- A coefficient as r1·2^13 + r0. -/
def dsaRound (x : Nat) : Nat × Nat :=
  let r0 := centred 8192 x
  (((x : Int) - r0).toNat / 8192, modOf dsaQ r0)

/-- The high and the low part of a coefficient by 2·γ2. -/
def dsaSplit (x : Nat) : Nat × Int :=
  let r0 := centred (2 * dsaG2) x
  let hi := ((x : Int) - r0).toNat
  if hi = dsaQ - 1 then (0, r0 - 1) else (hi / (2 * dsaG2), r0)

structure DsaKey where
  rho : List Byte
  k : List Byte
  s1 : List (List Nat)
  s2 : List (List Nat)
  t1 : List (List Nat)
  t0 : List (List Nat)
  deriving DecidableEq, Repr

/-- The key of a seed of 32 bytes. -/
def dsaKey (seed : List Byte) : DsaKey :=
  let h := shake256 (seed ++ [6, 5]) 128
  let rho := h.take 32
  let s1 := (List.range 5).map (dsaSmall ((h.drop 32).take 64))
  let s2 := (List.range 6).map fun i => dsaSmall ((h.drop 32).take 64) (i + 5)
  let t := ((dsaTimes (dsaMatrix rho) (s1.map dsaNtt)).zip s2).map fun x => polyAdd dsaQ x.1 x.2
  ⟨rho, h.drop 96, s1, s2, t.map (·.map fun x => (dsaRound x).1), t.map (·.map fun x => (dsaRound x).2)⟩

def DsaKey.public (k : DsaKey) : List Byte := k.rho ++ k.t1.flatMap (packBits 10)

/-- The mask of a try. -/
def dsaMask (seed : List Byte) (n : Nat) : List Nat :=
  (unpackBits 20 256 (shake256 (seed ++ toBytes 2 n) 640)).map fun x => subMod dsaG1 x dsaQ

/-- The next byte of at most i, and the bytes after it. -/
def nextAtMost (i : Nat) : List Byte → Nat × List Byte
  | [] => (0, [])
  | b :: bs => if b.toNat ≤ i then (b.toNat, bs) else nextAtMost i bs

/-- The challenge: 49 coefficients of 1 or −1. -/
def dsaChallenge (c : List Byte) : List Nat :=
  let out := shake256 c 229
  let signs := ofBytes (out.take 8)
  ((List.range 49).foldl (fun (acc : List Nat × List Byte) n =>
    let (j, bs) := nextAtMost (207 + n) acc.2
    let f := acc.1.set (207 + n) (acc.1.getD j 0)
    (f.set j (if signs.testBit n then dsaQ - 1 else 1), bs)) (List.replicate 256 0, out.drop 8)).1

/-- The hint of a vector of zeros and ones, packed. -/
def dsaHintPack (h : List (List Nat)) : List Byte :=
  let ones := h.map fun f => (List.range 256).filter fun j => f.getD j 0 = 1
  let idx := ones.flatMap id
  let ends := (List.range 6).map fun i => ((ones.take (i + 1)).flatMap id).length
  (idx ++ List.replicate (55 - idx.length) 0 ++ ends).map (BitVec.ofNat 8)

/-- The positions of a packed hint, where it is well formed. -/
def dsaHintOf (bs : List Byte) : Option (List (List Nat)) :=
  let ns := bs.map BitVec.toNat
  let ends := 0 :: ns.drop 55
  let parts := (List.range 6).map fun i => (ns.take (ends.getD (i + 1) 0)).drop (ends.getD i 0)
  let rising := (List.range 6).all fun i => ends.getD i 0 ≤ ends.getD (i + 1) 0 && ends.getD (i + 1) 0 ≤ 55
  let sorted := parts.all fun p => (p.zip (p.drop 1)).all fun x => x.1 < x.2
  if rising && sorted && ((ns.take 55).drop (ends.getD 6 0)).all (· = 0) then
    some (parts.map fun p => (List.range 256).map fun j => if p.contains j then 1 else 0)
  else none

/-- A try to sign with the masks from n on: the signature unless the try is rejected. -/
def dsaTry (k : DsaKey) (a : List (List (List Nat))) (mu seed : List Byte) (n : Nat) : Option (List Byte) :=
  let y := (List.range 5).map fun r => dsaMask seed (n + r)
  let w := dsaTimes a (y.map dsaNtt)
  let c := shake256 (mu ++ w.flatMap fun f => packBits 4 (f.map fun x => (dsaSplit x).1)) 48
  let ch := dsaNtt (dsaChallenge c)
  let by_ := fun (v : List (List Nat)) => v.map fun f => dsaInv (pointMul dsaQ ch (dsaNtt f))
  let z := (y.zip (by_ k.s1)).map fun x => polyAdd dsaQ x.1 x.2
  let r := (w.zip (by_ k.s2)).map fun x => polySub dsaQ x.1 x.2
  let low := r.foldl (fun acc f => f.foldl (fun acc x => max acc (dsaSplit x).2.natAbs) acc) 0
  if dsaG1 - 196 ≤ polyNorm dsaQ z || dsaG2 - 196 ≤ low then none
  else
    let ct0 := by_ k.t0
    let h := (r.zip ct0).map fun x => (x.1.zip x.2).map fun y =>
      if (dsaSplit ((y.1 + y.2) % dsaQ)).1 = (dsaSplit y.1).1 then 0 else 1
    if dsaG2 ≤ polyNorm dsaQ ct0 || 55 < (h.map fun f => f.foldl (· + ·) 0).foldl (· + ·) 0 then none
    else some (c ++ (z.flatMap fun f => packBits 20 (f.map fun x => subMod dsaG1 x dsaQ)) ++ dsaHintPack h)

/-- Tries from the mask n on, as many as the standard's bound allows. -/
def dsaTries (k : DsaKey) (a : List (List (List Nat))) (mu seed : List Byte) : Nat → Nat → List Byte
  | 0, _ => []
  | fuel + 1, n => match dsaTry k a mu seed n with
    | some x => x
    | none => dsaTries k a mu seed fuel (n + 5)

/-- The message representative, with the empty context. -/
def dsaMu (key m : List Byte) : List Byte := shake256 (shake256 key 64 ++ [0, 0] ++ m) 64

/-- The signature of a message under the key of a seed, with 32 random bytes. -/
def mldsaSign (seed m random : List Byte) : List Byte :=
  let k := dsaKey seed
  let mu := dsaMu k.public m
  dsaTries k (dsaMatrix k.rho) mu (shake256 (k.k ++ random ++ mu) 64) 814 0

/-- The high part that a hint corrects. -/
def dsaUse (h x : Nat) : Nat :=
  let (r1, r0) := dsaSplit x
  if h = 0 then r1 else if 0 < r0 then (r1 + 1) % 16 else (r1 + 15) % 16

def mldsaVerify (key m sig : List Byte) : Bool :=
  let c := sig.take 48
  let z := (unpackVec 20 ((sig.drop 48).take 3200)).map (·.map fun x => subMod dsaG1 x dsaQ)
  match dsaHintOf (sig.drop 3248) with
  | none => false
  | some h =>
    let ch := dsaNtt (dsaChallenge c)
    let az := dsaTimes (dsaMatrix (key.take 32)) (z.map dsaNtt)
    let ct := (unpackVec 10 (key.drop 32)).map fun f => dsaInv (pointMul dsaQ ch (dsaNtt (f.map (· * 8192 % dsaQ))))
    let w := (h.zip ((az.zip ct).map fun x => polySub dsaQ x.1 x.2)).map fun x => (x.1.zip x.2).map fun y => dsaUse y.1 y.2
    key.length == 1952 && sig.length == 3309 && decide (polyNorm dsaQ z < dsaG1 - 196)
      && shake256 (dsaMu key m ++ w.flatMap (packBits 4)) 48 == c

/-! ### ML-KEM-768 -/

def kemQ : Nat := 3329
def kemRoots : List Nat := rootsOf 17 kemQ 7

/-- The coefficients at even, or at odd, places. -/
def evens (f : List Nat) : List Nat := (pieces 2 f).map fun p => p.getD 0 0
def odds (f : List Nat) : List Nat := (pieces 2 f).map fun p => p.getD 1 0
def interleave (xs ys : List Nat) : List Nat := (xs.zip ys).flatMap fun x => [x.1, x.2]

def kemNtt (f : List Nat) : List Nat := interleave (valuesAt kemQ kemRoots (evens f)) (valuesAt kemQ kemRoots (odds f))
def kemInv (f : List Nat) : List Nat := interleave (fromValues kemQ kemRoots (evens f)) (fromValues kemQ kemRoots (odds f))

/-- The product of two transformed polynomials. -/
def kemMul (f g : List Nat) : List Nat :=
  (kemRoots.zip ((pieces 2 f).zip (pieces 2 g))).flatMap fun x =>
    let a := fun (i : Nat) => x.2.1.getD i 0
    let b := fun (i : Nat) => x.2.2.getD i 0
    [(a 0 * b 0 + a 1 * b 1 % kemQ * x.1) % kemQ, (a 0 * b 1 + a 1 * b 0) % kemQ]

/-- The inner product of two transformed vectors. -/
def kemDot (u v : List (List Nat)) : List Nat := polySum kemQ ((u.zip v).map fun x => kemMul x.1 x.2)

/-- The entry in row i and column j of the matrix of a public seed. -/
def kemEntry (rho : List Byte) (i j : Nat) : List Nat :=
  (((pieces 3 (shake128 (rho ++ [BitVec.ofNat 8 j, BitVec.ofNat 8 i]) 840)).flatMap (unpackBits 12 2)).filter (· < kemQ)).take 256

/-- A polynomial of the centred binomial distribution. -/
def kemNoise (seed : List Byte) (n : Nat) : List Nat :=
  (pieces 4 (unpackBits 1 1024 (shake256 (seed ++ [BitVec.ofNat 8 n]) 128))).map fun b =>
    subMod (b.getD 0 0 + b.getD 1 0) (b.getD 2 0 + b.getD 3 0) kemQ

def kemShrink (d x : Nat) : Nat := (x * 2 ^ (d + 1) + kemQ) / (2 * kemQ) % 2 ^ d
def kemGrow (d y : Nat) : Nat := (2 * kemQ * y + 2 ^ d) / 2 ^ (d + 1)

/-- The public key of a seed, and the secret vector, transformed. -/
def kemKey (seed : List Byte) : List Byte × List (List Nat) :=
  let g := sha3x512 (seed ++ [3])
  let rho := g.take 32
  let s := (List.range 3).map fun i => kemNtt (kemNoise (g.drop 32) i)
  let t := (List.range 3).map fun i =>
    polyAdd kemQ (kemDot ((List.range 3).map (kemEntry rho i)) s) (kemNtt (kemNoise (g.drop 32) (i + 3)))
  (t.flatMap (packBits 12) ++ rho, s)

/-- The ciphertext of 32 bytes under a public key and some randomness. -/
def kemEncrypt (key m r : List Byte) : List Byte :=
  let rho := key.drop 1152
  let t := unpackVec 12 (key.take 1152)
  let y := (List.range 3).map fun i => kemNtt (kemNoise r i)
  let u := (List.range 3).map fun i =>
    polyAdd kemQ (kemInv (kemDot ((List.range 3).map fun j => kemEntry rho j i) y)) (kemNoise r (i + 3))
  let v := polyAdd kemQ (polyAdd kemQ (kemInv (kemDot t y)) (kemNoise r 6)) ((unpackBits 1 256 m).map (kemGrow 1))
  (u.flatMap fun f => packBits 10 (f.map (kemShrink 10))) ++ packBits 4 (v.map (kemShrink 4))

/-- The secret that a ciphertext carries to the key of two seeds. -/
def mlkemDecaps (d z c : List Byte) : List Byte :=
  let (key, s) := kemKey d
  let u := (unpackVec 10 (c.take 960)).map (·.map (kemGrow 10))
  let v := (unpackBits 4 256 (c.drop 960)).map (kemGrow 4)
  let m := packBits 1 ((polySub kemQ v (kemInv (kemDot s (u.map kemNtt)))).map (kemShrink 1))
  let g := sha3x512 (m ++ sha3x256 key)
  if kemEncrypt key m (g.drop 32) = c then g.take 32 else shake256 (z ++ c) 32

/-- Both signatures of a message verify under a public key, the Ed25519 key before the ML-DSA-65 key (R426). -/
def bothVerify (key m ed ml : List Byte) : Bool := ed25519Verify (key.take 32) m ed && mldsaVerify (key.drop 32) m ml

end Sys2Proof.Machine
end

