-- ==== Sys2Proof/Machine/Seal.lean ====
section
/-!
DEFINITION. The seal engine (spec/18_seal_engine.md): what a firmware core may name (R190, R419), keys and
versions (R414, R416, R418), sealed images (R420 to R424), hashing and signing (R425), the migration
stream (R429, R430), strip (R431), and the manifest (R432 to R434).
-/

namespace Sys2Proof.Machine

/-! ### Firmware cores (R24, R190) -/

/-- The core is the harbourmaster or its standby. -/
def Agent.isHm (a : Agent) : Bool := 16 ≤ a.id

/-- The berth of a firmware core: a pilot's own, none while its VF is assigned to no berth. -/
def State.fwBerth (s : State) (a : Agent) : Option (BitVec 4) :=
  if a.isHm then none else s.berthOfVf a.id

/-- The core may name something of a berth. -/
def State.fwMay (s : State) (a : Agent) (p : BitVec 4 → Bool) : Bool :=
  a.isHm || (s.fwBerth a).any p

/-- The core may name key slot k, and it is not empty (R414, R419). -/
def State.fwKey (s : State) (a : Agent) (k : BitVec 9) : Bool :=
  (s.slotKeys k).isSome && s.fwMay a fun b => s.ownsKey b k

/-- The core may name segment g. -/
def State.fwSeg (s : State) (a : Agent) (g : Nat) : Bool := s.fwMay a fun b => (s.segments b).contains g

/-- The berth that owns a segment, a channel quad. -/
def State.berthOfSeg (s : State) (g : Nat) : Option (BitVec 4) := allBerths.find? fun b => (s.segments b).contains g
def State.berthOfQuad (s : State) (q : Nat) : Option (BitVec 4) :=
  allBerths.find? fun b => (s.sysreg (bquad b) 0).getLsbD q

/-- Offset of an SRAM address whose n bytes lie in the core's SRAM (R24). -/
def sramOff (x : Word) (n : Nat) : Option Nat :=
  if sramBase ≤ x.toNat && x.toNat + n ≤ sramBase + 2 ^ 18 then some (x.toNat - sramBase) else none

/-- Bytes of a core's SRAM read and written; marks of units wholly written are cleared (R105). -/
def State.sramBytes (s : State) (g off n : Nat) : List Byte := (s.sramOf g).bytes off n
def State.sramPut (s : State) (g off : Nat) (bs : List Byte) : State :=
  let m := (s.sramOf g).writeBytes off bs
  let m := (List.range (bs.length / 8 + 1)).foldl (fun (m : Mem) (i : Nat) =>
    let u := (off + 7) / 8 * 8 + 8 * i
    if u + 8 ≤ off + bs.length then m.mark u false else m) m
  { s with sram := put g m s.sram }

/-- SEAL_OPERAND with the offending operand (R419). -/
def operand {α : Type} (v : Word) : Act α := trap 0xBA v

/-- A SEAL or SYSREG unit: a release and an acquire of the core (R419). -/
def sealUnit (w : IWord) (priv : State → Bool) (body : U → Act Unit) (s : State) : Host.Outcome State Fault Refusal :=
  unitWith w priv (fun u => do
    body u
    release
    acquireNow
    return none) s

/-! ### KEYSET (R414) -/

/-- Every line and L1 word of a key slot written back, and every cached copy dropped (R414, step 1). -/
def State.dropKey (s : State) (k : BitVec 9) : State :=
  let ls := (s.l2.filter fun l => l.key == k).map (·.line)
  let s := ls.foldl (fun s n => (s.writeBackLine n).dropLine n) s
  { s with
    owners := s.owners.filter fun x => !(s.cores.any fun c => c.1 == x.2 && c.2.l1.any fun l => l.line == x.1 / 16 && l.key == k)
    cores := s.cores.map fun c => (c.1, { c.2 with
      l1 := c.2.l1.filter fun w => w.key != k, icache := c.2.icache.filter fun l => l.key != k }) }

/-- The keys of a secret, K1 in the most significant 256 bits (R414). -/
def keysFrom (secret : List Byte) : BitVec 1024 := BitVec.ofNat 1024 (beNat (hkdf secret (ascii "NB96-KEYSET") 128))

/-- A key slot loaded or emptied, and the versions of its tensors back at 0. -/
def State.setKey (s : State) (k : BitVec 9) (keys : Option (BitVec 1024)) (g : BitVec 4) : State :=
  { s with
    keys := (match keys with | some x => [⟨k, x, g⟩] | none => []) ++ s.keys.filter (·.slot != k)
    tensors := changeIf (fun t => t.v && t.kslot == k) (fun t => ({ t with ver := 0 } : Tensor)) s.tensors }

def execKeyset (a b : Reg) (s : State) : Host.Outcome State Fault Refusal :=
  sealUnit (wordT 78 0 a b 0) (fun _ => false) (fun u => do
    release
    let s ← get
    let g := s.cur
    let x := lane u.va 0
    let y := lane u.vb 0
    let k : BitVec 9 := x.extractLsb' 0 9
    let owned := s.fwMay g fun c => (s.keySlots c).contains k.toNat
    if bits x 15 9 != 0 || bits x 63 20 != 0 || !owned || !s.fwSeg g (bits x 19 16) then operand x
    if y = 0 then set ((s.dropKey k).setKey k none (x.extractLsb' 16 4))
    else match sramOff y 32 with
      | none => operand y
      | some off =>
        let secret := s.sramBytes g.id off 32
        set (((s.dropKey k).setKey k (some (keysFrom secret)) (x.extractLsb' 16 4)).sramPut g.id off (List.replicate 32 0))) s

/-! ### TVBUMP (R417, R418) -/

/-- Lines of an entry's range that stage 2 of its segment's berth maps, in increasing intermediate address. -/
def State.rangeLines (s : State) (t : Tensor) : List Nat :=
  match s.berthOfSeg t.seg.toNat with
  | none => []
  | some b => (List.range t.size.toNat).flatMap fun i => match s.iaOf b ((t.base.toNat + i) * 2 ^ 16) with
    | some pa => if isHbm pa then (List.range 1024).map (pa / 64 + ·) else []
    | none => []

/-- One line taken by a rewrap (R418): its L2 copy, or else its channel contents under the old version,
written under the new one; the copy stays, clean. Contents that fail the old version fail the new. -/
def State.rewrap (s : State) (seg : BitVec 4) (entry : BitVec 12) (n : Nat) : State :=
  let s : State := { s with rewraps := s.rewraps.map fun x =>
    if x.2.1 == seg && x.2.2.1 == entry then (x.1, x.2.1, x.2.2.1, x.2.2.2.filter (· != n)) else x }
  let t := s.tensor seg entry
  match s.l2.find? fun l => l.line == n && l.t == entry && s.slotSeg l.key == seg with
  | some l =>
    let s := s.writeBackLine n
    if l.dirty then s
    else match find? n s.seals with
      | some id => if id == .under (s.slotKeys t.kslot) entry seg (t.ver - 1) then
          { s with seals := put n (s.sealNow n l.key l.t) s.seals } else s
      | none => s
  | none => match find? n s.seals with
    | some id => if id == .under (s.slotKeys t.kslot) entry seg (t.ver - 1) then
        { s with seals := put n (s.sealNow n t.kslot entry) s.seals } else s
    | none => s

/-- The next line of a rewrap under way. -/
def execRewrapLine (seg : BitVec 4) (entry : BitVec 12) (line : Nat) (s : State) : Host.Outcome State Fault Refusal :=
  if s.rewraps.any fun x => x.2.1 == seg && x.2.2.1 == entry && x.2.2.2.head? == some line then .next (s.rewrap seg entry line)
  else .next s

/-- A line of an entry's range when REWRAP is 0 (R418): every L1 and L2 copy dropped without write-back, and what its
channel holds is of the version before, so that it fails its tag until it is written again. -/
def State.voidLine (s : State) (t : Tensor) (n : Nat) : State :=
  let s := s.discardLine n
  let s : State := { s with cores := s.cores.map fun c => (c.1, { c.2 with l1 := c.2.l1.filter (·.line != n) }) }
  if (find? n s.seals).isSome then s
  else { s with seals := put n (.under (s.slotKeys t.kslot) t.index t.seg t.ver) s.seals }

def execTvbump (d a b : Reg) (s : State) : Host.Outcome State Fault Refusal :=
  sealUnit (wordT 78 d a b 1) (fun _ => false) (fun u => do
    release
    let s ← get
    let g := s.cur
    let x := lane u.va 0
    let y := lane u.vb 0
    let t := s.tensor (x.extractLsb' 16 4) (x.extractLsb' 0 12)
    match s.rewraps.find? (·.1 == g.id) with
    | some r =>
      if r.2.2.2 != [] then hold .engines
      set { s with rewraps := s.rewraps.filter (·.1 != g.id) }
      writeScalar (u.d - 96) (t.ver.setWidth 64)
    | none =>
      if bits x 15 12 != 0 || bits x 63 20 != 0 || !s.fwSeg g (bits x 19 16) then operand x
      if bits y 63 1 != 0 then operand y
      if !t.v || !t.shut then operand x
      if t.ver = 0xFFFFFFFF then trapFree 0xBB
      let lines := s.rangeLines t
      let bumped := fun (s : State) => s.setTensor { t with ver := t.ver + 1 }
      if y = 0 then
        set (bumped (lines.foldl (fun s n => s.voidLine t n) s))
        writeScalar (u.d - 96) ((t.ver + 1).setWidth 64)
      else
        hold .engines fun s => { bumped s with rewraps := s.rewraps ++ [(g.id, t.seg, t.index, lines)] }) s

/-! ### Sealed images (R420 to R424) -/

/-- A descriptor of CSEAL and CUNSEAL. -/
structure ImgDesc where
  src : Word
  dst : Word
  len : Nat
  bind : Word
  srct : BitVec 12
  dstt : BitVec 12
  deriving DecidableEq, Repr

def ImgDesc.slot (x : ImgDesc) : BitVec 9 := x.bind.extractLsb' 0 9
def ImgDesc.index (x : ImgDesc) : Nat := bits x.bind 19 10
def ImgDesc.seg (x : ImgDesc) : Nat := bits x.bind 23 20
def ImgDesc.kind (x : ImgDesc) : Nat := bits x.bind 31 24
/-- Number of the seal counter. -/
def ImgDesc.ctr (x : ImgDesc) : Nat := 1024 * x.seg + x.index

/-- A side of an image operation lies wholly in host memory in plaintext, or wholly in a channel quad of a berth that
the core may name, under a valid entry of a key slot that the berth owns (R420, R423). -/
def State.sideOk (s : State) (a : Agent) (w : Word) (t : BitVec 12) (n : Nat) : Bool :=
  let pa := bits w 47 0
  let k : BitVec 9 := w.extractLsb' 48 9
  let last := pa + n - 1
  bits w 63 57 = 0 &&
    (if isHost pa then isHost last && k == 0 && t == 0
     else
      let e := s.tensor (s.slotSeg k) t
      isHbm pa && isHbm last && quadOf pa == quadOf last && s.there pa && s.there last
        && (s.berthOfQuad (quadOf pa)).any (fun b => s.ownsKey b k && s.fwMay a (· == b))
        && (s.slotKeys k).isSome && e.v && e.kslot == k)

/-- The request of a side: its key and tensor slot, and the berth whose ways it uses. -/
def State.sideReq (s : State) (w : Word) (t : BitVec 12) : Req :=
  ⟨(s.berthOfQuad (quadOf (bits w 47 0))).getD 0, w.extractLsb' 48 9, t, 3⟩

/-- The descriptor at an SRAM address, checked (R420). -/
def readDesc (x : Word) : Act ImgDesc := do
  let s ← get
  match sramOff x 64 with
  | none => operand x
  | some off =>
    let w := fun (i : Nat) => BitVec.ofNat 64 ((s.sramOf s.cur.id).read (off + 8 * i) 8)
    let d : ImgDesc := ⟨w 0, w 1, (w 2).toNat, w 3, (w 4).extractLsb' 0 12, (w 4).extractLsb' 16 12⟩
    let bad := x.toNat % 64 != 0 || d.len % 256 != 0 || d.len = 0 || 2 ^ 26 < d.len || (w 3).getLsbD 9 || bits (w 3) 63 32 != 0
      || d.kind = 0 || 4 < d.kind || bits (w 4) 15 12 != 0 || bits (w 4) 63 28 != 0 || w 5 != 0 || w 6 != 0 || w 7 != 0
      || !s.fwKey s.cur d.slot || !s.fwSeg s.cur d.seg
    if bad then operand x
    return d

/-- The key of an image (R421). -/
def State.imageKey (s : State) (d : ImgDesc) : List Byte :=
  let k4 := beBytes 32 (((s.slotKeys d.slot).getD 0).toNat % 2 ^ 256)
  hkdfExpand k4 (ascii "NB96-IMAGE" ++ toBytes 1 d.seg ++ toBytes 2 d.index ++ toBytes 1 d.kind) 32

/-- The 64 bytes before the ciphertext (R421). -/
def imageHead (d : ImgDesc) (marks : Bool) (c : Word) : List Byte :=
  padTo 64 (toBytes 8 (0x4C414553 + 1 * 2 ^ 32 + marks.toNat * 2 ^ 40) ++ toBytes 8 d.bind.toNat ++ toBytes 8 c.toNat
    ++ toBytes 8 d.len ++ toBytes 8 c.toNat ++ toBytes 4 (d.index + d.seg * 2 ^ 16 + d.kind * 2 ^ 24))

/-- Bits as bytes, bit 0 of the first byte first. -/
def bitBytes (bs : List Bool) : List Byte :=
  (pieces 8 bs).map fun x => BitVec.ofNat 8 (((List.range 8).zip x).foldl (fun acc p => acc + p.2.toNat * 2 ^ p.1) 0)

/-- n bytes from a physical address read at their homes by a request, and for each 8 bytes of them, whether a unit of
memory that they touch is marked or in a line whose tag fails; the bytes of such a line are not known. -/
def State.readMarked (s : State) (r : Req) (lo n : Nat) : (List Byte × List Bool) × State :=
  let k := (lo + n + 7) / 8 - lo / 8
  let st := (List.range k).foldl (fun (acc : (List Byte × List Bool) × State) i =>
    let x := acc.2.homeGet r (8 * (lo / 8 + i))
    ((acc.1.1 ++ toBytes 8 x.1.1.toNat, acc.1.2 ++ [x.1.2.1 || x.1.2.2]), x.2)) (([], []), s)
  let units := (List.range ((n + 7) / 8)).map fun u =>
    (List.range ((lo % 8 + min n (8 * u + 8) + 7) / 8 - (lo % 8 + 8 * u) / 8)).any fun j => st.1.2.getD ((lo % 8 + 8 * u) / 8 + j) false
  (((st.1.1.drop (lo % 8)).take n, units), st.2)

/-- Bytes of a side read at their homes, and the marks of their units. -/
def State.readSide (s : State) (w : Word) (t : BitVec 12) (off n : Nat) : (List Byte × List Bool) × State :=
  s.readMarked (s.sideReq w t) (bits w 47 0 + off) n

/-- n bytes written at their homes from a physical address, with the marks of the plaintext units that a unit of memory
takes bytes of. -/
def State.writeMarked (s : State) (r : Req) (lo : Nat) (bs : List Byte) (marks : Nat → Bool) : State :=
  s.homePutBytes r lo bs fun u => (List.range 8).any fun j => lo ≤ u + j && u + j < lo + bs.length && marks ((u + j - lo) / 8)

/-- Bytes written to a side, with the marks of their units. -/
def State.writeSide (s : State) (w : Word) (t : BitVec 12) (bs : List Byte) (marks : Nat → Bool) : State :=
  s.writeMarked (s.sideReq w t) (bits w 47 0) bs marks

def execCseal (d a : Reg) (s : State) : Host.Outcome State Fault Refusal :=
  sealUnit (wordT 78 d a 0 2) (fun _ => false) (fun u => do
    release
    let x := lane u.va 0
    let e ← readDesc x
    let s ← get
    if !s.sideOk s.cur e.src e.srct e.len then operand x
    let ((pt, ms), s') := s.readSide e.src e.srct 0 e.len
    let marks := ms.any id
    let total := e.len + (if marks then e.len / 64 else 0) + 80
    if !s.sideOk s.cur e.dst e.dstt total then operand x
    let c := findD e.ctr (0 : Word) s.counters
    if 2 ^ 64 - 2 ≤ c.toNat then trapFree 0xBB
    let c := c + 1
    let head := imageHead e marks c
    let (ct, tag) := gcmSeal (s.imageKey e) ((head.drop 32).take 12) head (pt ++ if marks then bitBytes ms else [])
    let s' : State := { s' with counters := put e.ctr c s'.counters }
    set (s'.writeSide e.dst e.dstt (head ++ ct ++ tag) fun _ => false)
    writeScalar (u.d - 96) c) s

def execCunseal (d a : Reg) (s : State) : Host.Outcome State Fault Refusal :=
  sealUnit (wordT 78 d a 0 3) (fun _ => false) (fun u => do
    release
    let x := lane u.va 0
    let e ← readDesc x
    let s ← get
    if !s.sideOk s.cur e.src e.srct (e.len + 80) || !s.sideOk s.cur e.dst e.dstt e.len then operand x
    let ((head, hm), s') := s.readSide e.src e.srct 0 64
    let word := fun (i : Nat) => ofBytes ((head.drop (8 * i)).take 8)
    let marks := (word 0).testBit 40
    let total := e.len + (if marks then e.len / 64 else 0)
    let c := findD e.ctr (0 : Word) s.counters
    let fail := fun (s : State) (code : BitVec 8) => s.note code s.cur.id x
    if hm.any id then
      set (fail (s'.writeSide e.dst e.dstt (List.replicate e.len 0) fun _ => false) 0xBD)
      writeScalar (u.d - 96) 0xBD
    else if word 0 % 2 ^ 40 != 0x4C414553 + 2 ^ 32 || word 0 / 2 ^ 41 != 0 || word 1 != e.bind.toNat || word 3 != e.len then
      set (fail s' 0xBD)
      writeScalar (u.d - 96) 0xBD
    else if word 2 != c.toNat then
      set (fail s' 0xBC)
      writeScalar (u.d - 96) 0xBC
    else
      if marks && !s.sideOk s.cur e.src e.srct (total + 80) then operand x
      let ((body, bm), s') := s'.readSide e.src e.srct 64 (total + 16)
      let (pt, ok) := gcmOpen (s.imageKey e) ((head.drop 32).take 12) head (body.take total) (body.drop total)
      -- whether a read of the image meets an error that persists (R261) is not known
      let (k, s') := s'.takeFree
      let lost := Config.freeBit k
      let s' := if lost then s'.note 0x29 s.cur.id (BitVec.ofNat 64 (bits e.src 47 0)) else s'
      if bm.any id || !ok || lost then
        set (fail (s'.writeSide e.dst e.dstt (List.replicate e.len 0) fun _ => false) 0xBD)
        writeScalar (u.d - 96) 0xBD
      else
        let map := pt.drop e.len
        let s' := s'.writeSide e.dst e.dstt (pt.take e.len) fun u => marks && (map.getD (u / 8) 0).getLsbD (u % 8)
        set { s' with counters := put e.ctr (c + 1) s'.counters }
        writeScalar (u.d - 96) 0) s

/-! ### HASHB and SIGN (R425) -/

/-- The signer of the attestation key of the active firmware, and of the device identity. -/
def State.attester (s : State) : Nat × Nat := if s.slotB then (2, s.images.2) else (1, s.images.1)
def deviceSigner : Nat × Nat := (0, 0)

/-- The Ed25519 and the ML-DSA-65 signature of a message by a signer (R425, R426). -/
def signatures (signer : Nat × Nat) (m : List Byte) : List Byte × List Byte :=
  let k := Config.signingKeys signer
  (fit 64 (ed25519Sign (fit 32 k.1) m), fit 3309 (mldsaSign (fit 32 k.2) m (fit 32 (Config.signRandom signer m))))

/-- The public key of a signer: the Ed25519 key and the ML-DSA-65 key. -/
def publicKeys (signer : Nat × Nat) : List Byte × List Byte :=
  let k := Config.signingKeys signer
  (ed25519Public (fit 32 k.1), (dsaKey (fit 32 k.2)).public)

/-- Bytes at an address of HASHB: SRAM, or physical with its KeyID, under the TSLOT of FWXLATE (R439). -/
def dataBytes (x : Word) (n : Nat) : Act (List Byte) := do
  let s ← get
  match sramOff x n with
  | some off => return s.sramBytes s.cur.id off n
  | none =>
    let t : BitVec 12 := if isHost (bits x 47 0) then 0 else (s.fwxlate s.cur.id).extractLsb' 52 12
    if n = 0 then return []
    if !s.sideOk s.cur x t n then operand x
    let ((bs, _), s') := s.readSide x t 0 n
    set s'
    return bs

def execHashb (d a b : Reg) (s : State) : Host.Outcome State Fault Refusal :=
  sealUnit (wordT 78 d a b 6) (fun _ => false) (fun u => do
    release
    let ctl := lane u.vd 0
    let n := bits ctl 31 0
    let init := ctl.getLsbD 62
    let last := ctl.getLsbD 63
    if bits ctl 61 32 != 0 || (!last && n % 128 != 0) then operand ctl
    match sramOff (lane u.va 0) 128 with
    | none => operand (lane u.va 0)
    | some off =>
      let bs ← dataBytes (lane u.vb 0) n
      let s ← get
      let g := s.cur.id
      let st := s.sramBytes g off 128
      let h := if init then shaInit else (pieces 8 (st.take 64)).map fun x => BitVec.ofNat 64 (beNat x)
      let count := if init then 0 else ofBytes ((st.drop 64).take 16)
      if last then
        let h := shaBlocks h (shaPad bs (count + 8 * n))
        set (s.sramPut g off ((shaBytes h).take 48))
      else
        let h := shaBlocks h bs
        set (s.sramPut g off (shaBytes h ++ toBytes 16 (count + 8 * n) ++ if init then List.replicate 48 0 else []))
      writeScalar (u.d - 96) 0) s

def execSign (d a b : Reg) (s : State) : Host.Outcome State Fault Refusal :=
  sealUnit (wordT 78 d a b 7) (fun _ => false) (fun u => do
    release
    let s ← get
    match sramOff (lane u.va 0) 48, sramOff (lane u.vb 0) 3373 with
    | none, _ => operand (lane u.va 0)
    | _, none => operand (lane u.vb 0)
    | some x, some y =>
      let (ed, ml) := signatures s.attester (s.sramBytes s.cur.id x 48)
      set (s.sramPut s.cur.id y (ed ++ ml))
      writeScalar (u.d - 96) 3373) s

/-! ### The manifest (R432 to R434) -/

/-- Cuts made, time of the last, and chain head of a berth. -/
def State.cutOf (s : State) (b : BitVec 4) : Nat × Nat × List Byte :=
  findD b.toNat (0, 0, List.replicate 48 (0 : Byte)) s.mancut

/-- The bytes of record n before its chain hash. -/
def State.manifest (s : State) (b : BitVec 4) : List Byte :=
  let (n, last, head) := s.cutOf b
  let (held, first) := findD b.toNat (0, 0) s.withheld
  let watcher := fun (w : Nat) =>
    toBytes 8 (s.sysreg (dev (0x1000 + 64 * b.toNat + w)) 0).toNat ++ toBytes 8 0
      ++ (List.range 8).flatMap fun i => toBytes 4 (findD (4096 * b.toNat + 64 * w + i) 0 s.mancount)
  padTo 0xFD0 (toBytes 8 (n % 2 ^ 32 + b.toNat * 2 ^ 32) ++ toBytes 8 last ++ toBytes 8 s.time
    ++ toBytes 8 (min held (2 ^ 32 - 1) + first * 2 ^ 32) ++ (if n = 0 then List.replicate 48 0 else head) ++ List.replicate 48 0
    ++ (List.range 64).flatMap watcher)

def execMancut (d : Reg) (s : State) : Host.Outcome State Fault Refusal :=
  sealUnit (wordT 78 d 0 0 5) (fun _ => false) (fun u => do
    release
    let s ← get
    let b := (s.fwBerth s.cur).getD ((s.fwxlate s.cur.id).extractLsb' 4 4)
    let cfg := s.sysreg (dev (0x1400 + b.toNat)) 0
    let ring := bits cfg 63 48
    if ring = 0 || (!s.cur.isHm && (s.fwBerth s.cur).isNone) then operand 0
    let (n, _, _) := s.cutOf b
    let m := s.manifest b
    let head := sha384 m
    let pa := bits cfg 47 12 * 4096 + 4096 * (n % ring)
    let s : State := { s with
      mancount := s.mancount.filter fun x => x.1 / 4096 != b.toNat
      mancut := put b.toNat (n + 1, s.time, head) s.mancut
      withheld := del b.toNat s.withheld }
    -- the record's own writes count after the cut
    set (s.homePutBytes ⟨b, cfg.extractLsb' 0 9, 0, 3⟩ pa (m ++ head) fun _ => false)
    writeScalar (u.d - 96) (BitVec.ofNat 64 n)) s

/-! ### STRIP (R431) -/

/-- What a berth holds overwritten, and its resources released, the root of its stage 2 among them (log 90). -/
def State.strip (s : State) (b : BitVec 4) : State :=
  let cl := (List.range 64).filter fun c => s.coreIn b (4 * c)
  let quads := s.sysreg (bquad b) 0
  let segs := s.segments b
  let ks := s.keySlots b
  let gone := fun (n : Nat) => isHbm (64 * n) && quads.getLsbD (quadOf (64 * n))
  let lines := s.l2.filter fun l => (s.waysAt b (64 * l.line)).getLsbD l.way || gone l.line
  let s := lines.foldl (fun s l => (s.revokeLine l.line).dropLine l.line) s
  let s := cl.foldl (fun s c => (s.modCluster c fun k => { Cluster.init with replaced := k.replaced, mx := { Matrix.init with spared := k.mx.spared } }).resetCores c) s
  let s : State := { s with
    mem := ⟨s.mem.cells.filter fun c => !gone (c.1 / 64), s.mem.marks.filter fun m => !gone (m / 8)⟩
    seals := s.seals.filter fun x => !gone x.1
    stripped := s.stripped ||| quads
    tlb := s.tlb.filter (·.berth != b), walks := s.walks.filter (·.berth != b)
    keys := s.keys.filter fun k => !ks.contains k.slot.toNat
    tensors := s.tensors.filter fun t => !segs.contains t.seg.toNat
    counters := s.counters.filter fun x => !segs.contains (x.1 / 1024) }
  -- its packets, queues and grids are gone with its memory, and its lath channels are free
  let gs := (s.grids.filter (·.berth == b)).map (·.id)
  let chans := (List.range 64).filter fun c => s.lathBerth c == b
  let s : State := { s with
    queues := s.queues.filter (·.berth != b), packets := s.packets.filter (·.berth != b), grids := s.grids.filter (·.berth != b)
    teams := s.teams.filter fun t => !gs.contains t.grid
    records := s.records.filter fun r => r.berth != b, pend := s.pend.filter (·.berth != b)
    agents := changeIf (fun a => a.berth == b && a.prof != .firmware) (fun a => { Agent.init a.id a.prof with berth := a.berth }) s.agents
    watches := s.watches.filter fun w => !(s.all.any fun a => a.id == w.agent && a.berth == b) }
  let s := chans.foldl (fun s c => s.modChannel c fun _ => Channel.init c) s
  let s := [bclust b, bquad b, bseg b, dev (0x680 + b.toNat), hmslice b, dev (0x600 + b.toNat)].foldl (fun s n => s.setSysreg n 0) s
  let s := (List.range 8).foldl (fun s i => s.setSysreg (bkey b i) 0) s
  let s := (List.range 256).foldl (fun s i => if s.sysreg (waymask i b) 0 = 0 then s else s.setSysreg (waymask i b) 0) s
  s.modBerth b fun x => { x with state := 0, exported := none }

/-- The receipt up to its signatures, from the state before; its end TIME is not known yet. -/
def State.receipt (s : State) (b : BitVec 4) : List Byte :=
  let cl := popcount 64 (s.sysreg (bclust b) 0).toNat
  let ways := (List.range 256).foldl (fun acc i => acc + popcount 16 (s.sysreg (waymask i b) 0).toNat) 0
  let word := fun (n : Nat) => (s.sysreg n 0).toNat
  let ks := (s.keySlots b).length
  let segs := (s.segments b).length
  let counts := [cl * 4 * 4096, cl * 2 * 65536, cl * 64, ways * 512, cl * (4 * 64 + 1024) + (s.tlb.filter fun t =>
      t.berth == b && match t.level with | .die _ => true | _ => false).length, ks,
    popcount 64 (word (bquad b)) * 7812480, segs * 4096, segs * 1024]
  padTo 0x200 (toBytes 8 (b.toNat + 2 ^ 4 + (s.berth b).gen.toNat * 2 ^ 32) ++ toBytes 8 s.time ++ toBytes 8 0
    ++ toBytes 8 (word (bclust b)) ++ toBytes 8 (word (bquad b)) ++ toBytes 8 (word (bseg b))
    ++ ((List.range 8).flatMap fun i => toBytes 8 (word (bkey b i)))
    ++ sha384 (Config.deviceSecret 1) ++ fit 48 (s.cutOf b).2.2 ++ counts.flatMap (toBytes 8))

/-- A STRIP whose overwriting is done ends in its core's next turn with the receipt, which has the TIME of then. -/
def execStrip (d a b : Reg) (s : State) : Host.Outcome State Fault Refusal :=
  sealUnit (wordT 78 d a b 4) (fun s => !s.cur.isHm) (fun u => do
    release
    let s ← get
    let x := lane u.va 0
    let y := lane u.vb 0
    let g := s.cur.id
    match s.strips.find? (·.1 == g) with
    | some r =>
      let m := r.2.take 16 ++ toBytes 8 s.time ++ r.2.drop 24
      let (ed, ml) := signatures deviceSigner (sha384 m)
      let s : State := { s with strips := s.strips.filter (·.1 != g) }
      set (s.homePutBytes s.hmReq y.toNat (m ++ ed ++ ml) fun _ => false)
      writeScalar (u.d - 96) 3885
    | none =>
      let b : BitVec 4 := x.extractLsb' 0 4
      if bits x 63 4 != 0 || (s.berth b).state != 3 || s.vfsOf b != 0 then operand x
      if bits y 11 0 != 0 || bits y 63 48 != 0 || !isHbm y.toNat || !s.there y.toNat || !s.there (y.toNat + 3884) then operand y
      hold .engines fun s' => { s'.strip b with strips := s'.strips ++ [(g, s.receipt b)] }) s

/-! ### The tensor table (R415, R416) -/

/-- Writes to a tensor's pages that were checked while it was open are still on their way: stores, atomics, engine
writes, and the lath's results (R416). -/
def State.tensorBusy (s : State) (t : Tensor) : Bool :=
  let mine := fun (k : BitVec 9) (ts : BitVec 12) => ts == t.index && s.slotSeg k == t.seg
  s.pend.any (fun p => mine p.key p.t)
    || s.all.any (fun a => match a.atom with | some x => x.lanes.any fun l => mine l.key l.t | none => false)
    || s.channels.any (fun c => (c.inst.any fun i => !i.complete && i.units.any fun u => mine u.2.1 u.2.2)
      || c.held.any fun h => h.units.any fun u => mine u.2.1 u.2.2)
    || s.clusters.any fun c => c.2.copies.any (fun o => o.pages.any fun p => mine p.2.2.1 p.2.2.2 && o.dst.toNat / 2 ^ 16 ≤ p.1)
      || c.2.mx.ops.any fun o => match o.kind with | .drain _ none _ _ ps => ps.any fun p => mine p.2.2.1 p.2.2.2 | _ => false

/-- A write of TTW1: V, SEALED and KSLOT. -/
def Tensor.withW1 (t : Tensor) (v : Word) : Tensor :=
  { t with v := v.getLsbD 13, shut := v.getLsbD 12, kslot := v.extractLsb' 0 9 }

/-- The entry that a core's TTSEL selects, with CTR, where it may reach it. -/
def State.selected (s : State) (a : Agent) : Option (Bool × BitVec 4 × BitVec 12) :=
  let x := s.sysreg (0x8000000 + a.id) 0
  if !s.fwSeg a (bits x 19 16) || (x.getLsbD 12 && 1024 ≤ bits x 11 0) then none
  else some (x.getLsbD 12, x.extractLsb' 16 4, x.extractLsb' 0 12)

/-- A write of TTW1 by core n that the table takes at once. -/
def State.writeTtw1 (s : State) (a : Agent) (v : Word) : State :=
  match s.selected a with
  | some (false, g, i) => s.setTensor ((s.tensor g i).withW1 v)
  | some (true, _, _) => s
  | none => s.note 0 a.id 0x802

/-- TTW1 written by core n: a write that sets SEALED shuts the entry at once, and completes when the
writes checked before it are registered. -/
def execTtw1Write (n : BitVec 5) (v : Word) (s : State) : Host.Outcome State Fault Refusal :=
  match s.agent n.toNat with
  | none => .next s
  | some a =>
    if a.prof != .firmware then .next s
    else match s.selected a with
      | some (false, g, i) =>
        let t := s.tensor g i
        if v.getLsbD 12 && s.tensorBusy t then .next (s.setTensor { t with shut := true })
        else .next (s.writeTtw1 a v)
      | _ => .next (s.writeTtw1 a v)

/-! ### The migration stream (R429, R430) -/

def State.stream (s : State) (v : BitVec 4) : Stream := (s.streams.find? (·.vf == v)).getD (Stream.init v)
def State.setStream (s : State) (x : Stream) : State :=
  if s.streams.any (·.vf == x.vf) then { s with streams := changeFirst (·.vf == x.vf) (fun _ => x) s.streams }
  else { s with streams := s.streams ++ [x] }

/-- MSCTL as it reads, and written. -/
def Stream.ctl (x : Stream) : Word :=
  BitVec.ofNat 64 (x.en.toNat * 2 ^ 63 + x.recv.toNat * 2 ^ 62 + x.stop.toNat * 2 ^ 61 + x.pend.isSome.toNat * 2 ^ 60 + x.stream.toNat)
def State.writeMsctl (s : State) (v : BitVec 4) (w : Word) : State :=
  s.setStream { s.stream v with en := w.getLsbD 63, recv := w.getLsbD 62, stream := w.extractLsb' 0 32 }
def execMsctlWrite (v : BitVec 4) (w : Word) (s : State) : Host.Outcome State Fault Refusal := .next (s.writeMsctl v w)

/-- MSKEY: the key at an address of VF v's pilot's SRAM, which is zeroed once read. A current key starts a
stream at counter 0. -/
def State.writeMskey (s : State) (v : BitVec 4) (w : Word) : State :=
  let x := s.stream v
  match sramOff w 32 with
  | none => s.note 0 v.toNat w
  | some off =>
    if x.pend.isSome then s
    else
      let k := s.sramBytes v.toNat off 32
      let s := s.sramPut v.toNat off (List.replicate 32 0)
      s.setStream (if x.en then { x with pend := some k } else { x with key := k, cnt := 0, stop := false })
def execMskeyWrite (v : BitVec 4) (w : Word) (s : State) : Host.Outcome State Fault Refusal := .next (s.writeMskey v w)

/-- The destination of a migration passes the checks of R428, under the tenant key that the lock of the TDI fixed: its
certificate chains lead to the root, both signatures of the session's hash are by the key they certify, and its three
measurements appear in a policy of at most 16 digests that carries both signatures of the tenant. -/
def migrationGood (m : MigCheck) (ok : Bool) (f : Vf) : Bool :=
  ok && m.chains && (f.tdi == .locked || f.tdi == .run) && decide (m.policy.length ≤ 16) && m.measured.length == 3
    && m.measured.all m.policy.contains && bothVerify m.key m.hash m.ed m.ml
    && bothVerify f.tenant m.policy.flatten m.polEd m.polMl

/-- The secret T of a migration (R428), from the source's secrets and what the destination answered: its X25519 share, and
the ciphertext to the source's ML-KEM-768 key. -/
def migrationSecret (m : MigCheck) (x : List Byte × List Byte × List Byte) : List Byte :=
  hkdfWith m.transcript (x25519 (fit 32 x.1) m.share ++ mlkemDecaps (fit 32 x.2.1) (fit 32 x.2.2) m.cipher)
    (ascii "NB96-MIGRATE") 32

/-- The checks before a migration (R428). The source pilot then holds T, and programs it as K0 of its stream while EN
is 0 (R429). Otherwise the migration does not start: its stream sends nothing (log 86). -/
def State.checkMigration (s : State) (v : BitVec 4) (ok : Bool) (m : MigCheck) : State :=
  let good := migrationGood m ok (s.vf v)
  let (k, s) := s.takeFree
  let x := s.stream v
  let t := migrationSecret m (Config.agreement k)
  if good then s.setStream (if x.en then { x with secret := some t } else { x with secret := some t, key := t, cnt := 0, stop := false })
  else (s.setStream { x with secret := none }).note 0 v.toNat 0

/-- The counter moved on: at a multiple of 2^32 a pending key becomes current, and without one, or at
2^64 − 1, the stream stops. -/
def State.nextCount (s : State) (x : Stream) : State :=
  let c := x.cnt + 1
  let x := { x with cnt := c }
  if c.toNat = 2 ^ 64 - 1 then (s.setStream { x with stop := true }).note 0xBE x.vf.toNat c
  else if c.toNat % 2 ^ 32 != 0 then s.setStream x
  else match x.pend with
    | some k => s.setStream { x with key := k, pend := none }
    | none => (s.setStream { x with stop := true }).note 0xBE x.vf.toNat c

/-- The request of a stream at the homes of its memory: the export area under the harbourmaster's key, the berth's own
pages under KEYID and TSLOT of its pilot's FWXLATE (log 58). -/
def State.streamReq (s : State) (v : BitVec 4) (kind : Nat) : Req :=
  if kind = 1 then { s.hmReq with cls := 2 }
  else
    let w := s.fwxlate v.toNat
    ⟨(s.berthOfVf v.toNat).getD 0, w.extractLsb' 43 9, w.extractLsb' 52 12, 2⟩

/-- The plaintext of a record, read at the homes: a memory page with the marks of its units, the records of the key slots
of the VF's berth, nothing for the end, or plain bytes. A line whose tag fails goes with marks. -/
def State.streamBody (s : State) (v : BitVec 4) (kind : Nat) (pa n : Nat) : List Byte × State :=
  match kind with
  | 4 => (match s.berthOfVf v.toNat with
    | some b => (s.keySlots b).flatMap s.keyRecord
    | none => [], s)
  | 5 => ([], s)
  | _ =>
    let ((bs, ms), s) := s.readMarked (s.streamReq v kind) pa n
    (bs ++ if kind = 2 then bitBytes ms else [], s)

def execStreamRecordSend (v : BitVec 4) (kind : BitVec 32) (pa : BitVec 48) (n : Nat) (s : State) :
    Host.Outcome State Fault Refusal :=
  let x := s.stream v
  let (body, s') := s.streamBody v kind.toNat pa.toNat n
  if !x.en || x.recv || x.stop || x.secret.isNone || x.key.length != 32 || kind = 0 || 5 < kind || 65536 < body.length then .next s
  else
    let head := toBytes 8 x.cnt.toNat ++ toBytes 4 body.length ++ toBytes 4 kind.toNat
    let (ct, tag) := gcmSeal x.key (toBytes 4 x.stream.toNat ++ toBytes 8 x.cnt.toNat) head body
    .next (s'.nextCount { x with sent := (head ++ ct ++ tag) :: x.sent })

/-- The contents of a received record taken. -/
def State.takeRecord (s : State) (v : BitVec 4) (kind pa : Nat) (pt : List Byte) : State :=
  let r := s.streamReq v kind
  match kind with
  | 2 =>
    let n := pt.length * 64 / 65
    s.writeMarked r pa (pt.take n) fun u => ((pt.drop n).getD (u / 8) 0).getLsbD (u % 8)
  | 4 => (pieces 256 pt).foldl (fun s x => s.restoreKey (ofBytes (x.take 2) % 512) x) s
  | 5 => s
  | _ => s.homePutBytes r pa pt fun _ => false

def execStreamRecordReceive (v : BitVec 4) (pa : BitVec 48) (r : List Byte) (s : State) : Host.Outcome State Fault Refusal :=
  let x := s.stream v
  if !x.en || !x.recv || x.stop || x.key.length != 32 then .next s
  else
    let head := r.take 16
    let n := ofBytes ((head.drop 8).take 4)
    let kind := ofBytes (head.drop 12)
    let (pt, ok) := gcmOpen x.key (toBytes 4 x.stream.toNat ++ toBytes 8 x.cnt.toNat) head ((r.drop 16).take n) (r.drop (16 + n))
    if r.length != n + 32 || ofBytes (head.take 8) != x.cnt.toNat || !ok then
      .next ((s.setStream { x with stop := true }).note 0xBE v.toNat x.cnt)
    else .next ((s.takeRecord v kind pa.toNat pt).nextCount x)

/-! ### Counters (R435) -/

/-- A read of CVAL: the counter that CSEL selects. The manual names no counter, so a value is free (log 2). -/
def execCounterRead (v : BitVec 4) (s : State) : Host.Outcome State Fault Refusal :=
  let sel : BitVec 12 := findD v.toNat 0 s.csel
  match s.berthOfVf v.toNat with
  | none => .next s
  | some b =>
    let allowed := (s.sysreg (dev (0x1500 + 64 * b.toNat + sel.toNat / 64)) 0).getLsbD (sel.toNat % 64)
    if allowed && sel < 0x600 then
      let (n, s) := s.takeFree
      .next { s with reads := toBytes 8 (bits (Config.freeWord n) 62 0) :: s.reads }
    else
      let (c, first) := findD b.toNat (0, sel.toNat) s.withheld
      .next (({ s with
        withheld := put b.toNat (c + 1, first) s.withheld
        reads := toBytes 8 (2 ^ 63) :: s.reads } : State).note 0xBF v.toNat (sel.setWidth 64))

end Sys2Proof.Machine
end

