-- ==== Sys2Proof/Machine/Sysreg.lean ====
section
/-!
DEFINITION. System registers: their numbers and fields (R6, R21, R24, R73, R161, R190, R286, R351, R372,
R384, R388 to R393, R415, R429, R432 to R435, R439), who may reach them, MFSYS, MTSYS, TLBINV and
CTXKILL, and writes that come from outside a firmware core.
-/

namespace Sys2Proof.Machine

/-! ### The registers -/

/-- A system register by its R190 address. The tensor table's three are those of the core that asks. -/
inductive Reg190 where
  | disc (n : Nat)
  | lathcfg (b : BitVec 4) (c : Nat)
  | schedcfg (b : BitVec 4)
  | admitcfg (b : BitVec 4)
  | hmslice (b : BitVec 4)
  | berthctl (b : BitVec 4)
  | resource (b : BitVec 4) (num : Nat)
  | bopcmd
  | bopstat
  | sendalw (b : BitVec 4)
  | bs2root (b : BitVec 4)
  | ttsel
  | ttw0
  | ttw1
  | msctl (v : BitVec 4)
  | mscnt (v : BitVec 4)
  | mskey (v : BitVec 4)
  | fwdoor (n : Nat)
  | fwxlate (n : Nat)
  | mwatch (b : BitVec 4) (w : Nat)
  | mancfg (b : BitVec 4)
  | allow (b : BitVec 4) (i : Nat)
  | waymask (sl : Nat) (b : BitVec 4)
  | ctxflush (core : Nat)
  deriving DecidableEq, Repr

/-- The register at an address, none where its space does not define the number. -/
def regAt (x : Word) : Option Reg190 :=
  let n := bits x 15 0
  let b : BitVec 4 := BitVec.ofNat 4 n
  let is := fun (lo k : Nat) => lo ≤ n && n < lo + k
  if bits x 63 28 != 0 then none
  else match bits x 27 25 with
    | 0 => if n = 0x40 && bits x 22 16 < 64 then some (.ctxflush (4 * bits x 22 16 + bits x 24 23)) else none
    | 3 =>
      if n < 2 then some (.disc n)
      else if is 0x100 64 then some (.lathcfg (BitVec.ofNat 4 (n / 4)) (n - 0x100))
      else if is 0x200 16 then some (.schedcfg b)
      else if is 0x280 16 then some (.admitcfg b)
      else if is 0x300 16 then some (.hmslice b)
      else if is 0x380 16 then some (.berthctl b)
      else if is 0x400 16 || is 0x480 16 || is 0x500 16 then some (.resource b n)
      else if n = 0x580 then some .bopcmd
      else if n = 0x588 then some .bopstat
      else if is 0x600 16 then some (.sendalw b)
      else if is 0x680 16 then some (.bs2root b)
      else if is 0x700 128 then some (.resource (BitVec.ofNat 4 ((n - 0x700) / 8)) n)
      else if n = 0x800 then some .ttsel
      else if n = 0x801 then some .ttw0
      else if n = 0x802 then some .ttw1
      else if is 0x900 16 then some (.msctl b)
      else if is 0x910 16 then some (.mscnt b)
      else if is 0x920 16 then some (.mskey b)
      else if is 0xA00 18 then some (.fwdoor (n - 0xA00))
      else if is 0xA40 18 then some (.fwxlate (n - 0xA40))
      else if is 0x1000 1024 then some (.mwatch (BitVec.ofNat 4 ((n - 0x1000) / 64)) (n % 64))
      else if is 0x1400 16 then some (.mancfg b)
      else if is 0x1500 1024 then some (.allow (BitVec.ofNat 4 ((n - 0x1500) / 64)) (n % 64))
      else if is 0x2000 4096 then some (.waymask ((n - 0x2000) / 16) b)
      else none
    | _ => none

/-- Number of a register that keeps what was written, and its RW bits. -/
def Reg190.plain : Reg190 → Option (Nat × Word × Word)
  | .schedcfg b => some (dev (0x200 + b.toNat), 0x0000FFFF00000000, 0x0000001400000000)
  | .admitcfg b => some (dev (0x280 + b.toNat), 0xFFFF, 0)
  | .hmslice b => some (dev (0x300 + b.toNat), 0xFFFFFFFFFFFFFFFF, 0)
  | .sendalw b => some (dev (0x600 + b.toNat), 0x7FFF, 0)
  | .bs2root b => some (dev (0x680 + b.toNat), 0x0000FFFFFFFFE000, 0)
  | .mwatch b w => some (dev (0x1000 + 64 * b.toNat + w), 0x87FFFFFF07FFFFFF, 0)
  | .mancfg b => some (dev (0x1400 + b.toNat), 0xFFFFFFFFFFFFF1FF, 0)
  | .allow b i => some (dev (0x1500 + 64 * b.toNat + i), 0xFFFFFFFFFFFFFFFF, 0)
  | _ => none

/-- Ready records of a berth in all level queues, saturating (R351). -/
def State.readyCount (s : State) (b : BitVec 4) : Nat :=
  min 0xFFFFFF (s.records.filter fun r => r.live && r.queued && r.berth == b).length

/-- LATHCFG as it reads (R286). -/
def Channel.cfg (c : Channel) : Word :=
  BitVec.ofNat 64 (c.en.toNat * 2 ^ 63 + c.dx.toNat * 2 ^ 62 + c.did.toNat * 2 ^ 48 + c.dgrp.toNat * 2 ^ 40 + c.gen.toNat)

/-- CTXFLUSH as it reads (R161). -/
def Core.flushWord (c : Core) : Word :=
  BitVec.ofNat 64 (c.flushCb.toNat * 2 ^ 16 + c.flushBusy.toNat * 4 + c.flushDrop.toNat * 2)

/-- A register's value for a core that may reach it. -/
def State.readReg190 (s : State) (a : Agent) (r : Reg190) : Word :=
  match r with
  | .disc 0 => 0x00010B9680000000
  | .disc _ => 0
  | .lathcfg _ c => (s.channel c).cfg
  | .schedcfg b => (s.sysreg (dev (0x200 + b.toNat)) 0x0000001400000000) ||| BitVec.ofNat 64 (s.readyCount b)
  | .berthctl b =>
    (s.sysreg (berthctl b) 0 &&& 0xFFFF0007) ||| BitVec.ofNat 64 ((s.berth b).gen.toNat * 2 ^ 32 + (s.berth b).state.toNat * 2 ^ 8)
  | .resource _ n => s.sysreg (dev n) 0
  | .bopcmd => s.sysreg (dev 0x580) 0
  | .bopstat => s.sysreg (dev 0x588) 0
  | .ttsel => s.sysreg (0x8000000 + a.id) 0
  | .ttw0 => match s.selected a with
    | some (false, g, i) => BitVec.ofNat 64 (s.tensor g i).w0
    | some (true, g, i) => findD (1024 * g.toNat + i.toNat) 0 s.counters
    | none => 0
  | .ttw1 => match s.selected a with
    | some (false, g, i) => BitVec.ofNat 64 (s.tensor g i).w1
    | _ => 0
  | .msctl v => (s.stream v).ctl
  | .mscnt v => (s.stream v).cnt
  | .mskey _ | .fwdoor _ => 0
  | .fwxlate n => s.fwxlate n
  | .waymask sl b => s.sysreg (waymask sl b) 0 &&& 0x8000FFFF
  | .ctxflush c => (s.core c).flushWord
  | r => match r.plain with
    | some (n, _, reset) => s.sysreg n reset
    | none => 0

/-- The berth a register belongs to, for a pilot's reach (R190). -/
def State.regBerth (s : State) (r : Reg190) : Option (BitVec 4) :=
  match r with
  | .lathcfg b _ | .schedcfg b | .admitcfg b | .hmslice b | .berthctl b | .resource b _ | .sendalw b | .bs2root b
  | .mwatch b _ | .mancfg b | .allow b _ | .waymask _ b => some b
  | .msctl v | .mscnt v | .mskey v => s.berthOfVf v.toNat
  | .fwxlate n => s.berthOfVf n
  | .ctxflush c => allBerths.find? fun b => s.coreIn b c
  | _ => none

/-- The core may read the register (R190). -/
def State.mayRead (s : State) (a : Agent) (r : Reg190) : Bool :=
  a.isHm || match r with
    | .disc _ | .ttsel | .fwdoor _ => true
    | .ttw0 | .ttw1 => (s.selected a).isSome
    | .bopcmd | .bopstat => false
    | r => (s.fwBerth a).isSome && s.regBerth r == s.fwBerth a

/-- The core may write the register (R190, R385, R389, R435): what the harbourmaster assigns or sets is
its alone. -/
def State.mayWrite (s : State) (a : Agent) (r : Reg190) (v : Word) : Bool :=
  a.isHm || (s.mayRead a r && match r with
    | .lathcfg _ _ | .schedcfg _ | .admitcfg _ | .hmslice _ | .berthctl _ | .resource _ _ | .sendalw _ | .bs2root _
    | .allow _ _ | .waymask _ _ => false
    | .fwxlate _ =>
      let mode := bits v 1 0
      (mode = 1 || mode = 2) && (s.fwBerth a).any fun b => b.toNat == bits v 7 4 && (s.keySlots b).contains (bits v 51 43)
    | _ => true)

/-- A doorbell: a HALT of the core ends, and its event bit is set (R24). -/
def State.knock (s : State) (n : Nat) : State :=
  match s.agent n with
  | some a =>
    let s := if a.waits == some .doorbell then s.ready n else s
    s.setEvent n
  | none => s

/-- A register written by a core that may, its reserved and RO fields left as they are. -/
def State.writeReg190 (s : State) (a : Agent) (r : Reg190) (v : Word) : State :=
  match r with
  | .disc _ | .bopstat | .mscnt _ => s
  | .lathcfg _ c => s.modChannel c fun x => { x with
      en := v.getLsbD 63, dx := v.getLsbD 62, did := v.extractLsb' 48 6, dgrp := v.extractLsb' 40 8 }
  | .berthctl b => s.writeBerthctl b v
  | .resource _ n => s.writeResource n v
  | .bopcmd => s.writeBopcmd v
  | .ttsel => s.setSysreg (0x8000000 + a.id) (v &&& 0xF1FFF)
  | .ttw0 => match s.selected a with
    | some (false, g, i) => s.setTensor { s.tensor g i with base := v.extractLsb' 0 32, size := v.extractLsb' 32 32 }
    | _ => s
  | .ttw1 => s.writeTtw1 a v
  | .msctl n => s.writeMsctl n v
  | .mskey n => s.writeMskey n v
  | .fwdoor n => s.knock n
  | .fwxlate n => s.setSysreg (dev (0xA40 + n)) (v &&& 0xFFFFFFFFFFFFFFF3)
  | .waymask sl b => s.writeWaymask sl b v
  | .ctxflush c => s.writeCtxflush c v
  | r => match r.plain with
    | some (n, mask, _) => s.setSysreg n (v &&& mask)
    | none => s

/-! ### SYSREG (R190) -/

/-- An attempt that reaches no register, logged by the lock-keeper. -/
def State.strayed (s : State) (a : Agent) (x : Word) : State := s.note 0 a.id x

def execMfsys (d a : Reg) (s : State) : Host.Outcome State Fault Refusal :=
  unit (wordT 79 d a 0 0) (fun u => do
    let x := lane u.va 0
    if bits x 63 28 != 0 then trap 0x02 (u.w.setWidth 64)
    let s ← get
    match regAt x with
    | some r =>
      if s.mayRead s.cur r then writeScalar (u.d - 96) (s.readReg190 s.cur r)
      else
        set (s.strayed s.cur x)
        writeScalar (u.d - 96) 0
    | none =>
      set (s.strayed s.cur x)
      writeScalar (u.d - 96) 0) s

def execMtsys (a b : Reg) (s : State) : Host.Outcome State Fault Refusal :=
  unit (wordT 79 0 a b 1) (fun u => do
    let x := lane u.va 0
    let v := lane u.vb 0
    if bits x 63 28 != 0 then trap 0x02 (u.w.setWidth 64)
    let s ← get
    match regAt x with
    | some r =>
      if s.mayWrite s.cur r v then
        match r, s.selected s.cur with
        | .ttw1, some (false, g, i) =>
          -- a write that sets SEALED completes once earlier writes are registered (R416)
          if v.getLsbD 12 && s.tensorBusy (s.tensor g i) then
            hold .release fun s => s.setTensor { s.tensor g i with shut := true }
        | _, _ => pure ()
        set (s.writeReg190 s.cur r v)
      else set (s.strayed s.cur x)
    | none => set (s.strayed s.cur x)) s

/-- TLBINV: the berth's translations dropped at every level, and its walks begun again. Stage-2
translations are not told apart by intermediate address: all of the berth's go. -/
def State.tlbInvalidate (s : State) (b : BitVec 4) (kind : Nat) (va : Word) : State :=
  let hit := fun (vpn : Nat) => kind != 0 || vpn == va.toNat / 2 ^ 16
  { s with
    tlb := s.tlb.filter fun x => !(x.berth == b && hit x.vpn)
    walks := s.walks.filter fun w => !(w.berth == b && hit w.vpn) }

/-- A pilot may not do what sa asks of TLBINV: stage 2 is the harbourmaster's, and so is another berth. -/
def State.tlbinvDenied (s : State) (a : Reg) : Bool :=
  let x := s.cur.sreg.getD (a.toNat - 96) 0
  !s.cur.isHm && 96 ≤ a.toNat && a.toNat < 120 && (2 ≤ bits x 1 0 || s.fwBerth s.cur != some (x.extractLsb' 4 4))

def execTlbinv (a b : Reg) (s : State) : Host.Outcome State Fault Refusal :=
  unitWith (wordT 79 0 a b 2) (·.tlbinvDenied a) (fun u => do
    let x := lane u.va 0
    if bits x 63 8 != 0 || bits x 3 2 != 0 then trap 0x02 (u.w.setWidth 64)
    let s ← get
    set (s.tlbInvalidate (x.extractLsb' 4 4) (bits x 1 0) (lane u.vb 0))
    return none) s

def execCtxkill (a : Reg) (s : State) : Host.Outcome State Fault Refusal :=
  unit (wordT 79 0 a 0 3) (fun u => do
    let x := lane u.va 0
    let s ← get
    match s.all.find? fun g => g.prof == .full && g.run != .off && g.cb == x && s.fwMay s.cur (· == g.berth) with
    | some g => set (s.killGang g.id)
    | none => set (s.strayed s.cur x)) s

/-! ### Writes from outside a firmware core (R6, R24, R382, R383) -/

/-- A doorbell written by the lock-keeper. -/
def execFwdoorWrite (n : BitVec 5) (s : State) : Host.Outcome State Fault Refusal := .next (s.knock n.toNat)

/-- A field of a queue descriptor written by the pilot that keeps it (R367). -/
def Queue.withWord (q : Queue) (i : Nat) (v : Word) : Queue :=
  match i with
  | 0 => { q with header := v.setWidth 48 }
  | 1 => { q with log2n := v.extractLsb' 0 5, pw := v.getLsbD 8, mapped := v.getLsbD 9 }
  | 2 => { q with rptr := v }
  | 3 => { q with wptr := v }
  | 4 => { q with vector := v.setWidth 11 }
  | 5 => { q with poolBase := v }
  | 6 => { q with poolSize := v }
  | _ => { q with tslot := v.extractLsb' 52 12, key := v.extractLsb' 43 9 }

/-- The owner and the notify page of a queue number. -/
def queueFromNum (k : Nat) : QOwner × BitVec 10 :=
  (if k / 1024 < 16 then .vf (BitVec.ofNat 4 (k / 1024)) else .qi (BitVec.ofNat 3 (k / 1024 - 16)), BitVec.ofNat 10 k)

/-- A queue's berth: that of its VF, or the one its interface is assigned to. -/
def State.berthOfOwner (s : State) (o : QOwner) : BitVec 4 := match o with
  | .vf v => (s.berthOfVf v.toNat).getD 0
  | .qi i => findD i.toNat 0 s.qiBerth

/-- A write of a queue descriptor's word; the first makes the queue. -/
def State.writeQueue (s : State) (k i : Nat) (v : Word) : State :=
  let (o, n) := queueFromNum k
  match s.queueOf o n with
  | some _ => s.modQueue o n (·.withWord i v)
  | none =>
    let q : Queue := ⟨o, n, s.berthOfOwner o, 0, 4, false, false, 0, 0, 0, 0, 0, [], 0, 0⟩
    { s with queues := s.queues ++ [q.withWord i v] }

/-- A write to a register without behaviour of its own. Address bits [63:32] say where: 0 a system
register, written by the harbourmaster; 1 + v the BAR0 of VF v, with CSEL at 0x200 (R435) and its PASID table from 0x1000;
0x20 + i queue interface i: its berth at 0x60, its PASID table at 0x1000 and its remapping table at
0x4000; 0x30 link security of the UALink ports; 0x10000 + k the words of queue descriptor k (log 5). -/
def execRegisterWrite (addr v : Word) (s : State) : Host.Outcome State Fault Refusal :=
  let hi := bits addr 63 32
  let lo := bits addr 31 0
  if hi = 0 then
    match regAt addr with
    | some r => match r.plain with
      | some (n, mask, _) => .next (s.setSysreg n (v &&& mask))
      | none => .next s
    | none => .next s
  else if hi < 0x28 && !s.hostUp then .next s
  else if hi ≤ 16 then
    if lo = 0x200 then .next { s with csel := put (hi - 1) (v.setWidth 12) s.csel }
    else if 0x1000 ≤ lo && lo < 0x3000 && lo % 8 = 0 then
      .next { s with pasids := put (1024 * (hi - 1) + (lo - 0x1000) / 8) (v &&& 0x8000FFFFFFFFE000) s.pasids }
    else .next s
  else if 0x20 ≤ hi && hi < 0x28 then
    let i := hi - 0x20
    if lo = 0x60 then .next { s with qiBerth := put i (v.extractLsb' 0 4) s.qiBerth }
    else if 0x1000 ≤ lo && lo < 0x3000 && lo % 8 = 0 then
      .next { s with qiPasids := put (1024 * i + (lo - 0x1000) / 8) (v &&& 0x8000FFFFFFFFE000) s.qiPasids }
    else if 0x4000 ≤ lo && lo < 0x14000 then
      let k := 2048 * i + (lo - 0x4000) / 32
      let (on, owner, addr, data) := findD k (false, (0 : BitVec 20), (0 : Word), (0 : BitVec 32)) s.remap
      let x := match (lo - 0x4000) / 8 % 4 with
        | 0 => (v.getLsbD 63, v.extractLsb' 0 20, addr, data)
        | 1 => (on, owner, v, data)
        | _ => (on, owner, addr, v.setWidth 32)
      .next { s with remap := put k x s.remap }
    else .next s
  else if hi = 0x30 then .next { s with securePorts := v.setWidth 8 }
  else if 0x10000 ≤ hi && hi < 0x10000 + 24 * 1024 && lo < 64 && lo % 8 = 0 then
    .next (s.writeQueue (hi - 0x10000) (lo / 8) v)
  else .next s

end Sys2Proof.Machine
end

