-- ==== Sys2Proof/Machine/Device.lean ====
section
/-!
DEFINITION. The device around its cores: bring-up (R28, R29), the lock-keeper's duties (R25, R27), send
allowances (R21), the harbourmaster's heartbeat (R385), accesses of the host and of peers (R130, R131),
the pilots' SPDM and TDISP responders (R390, R426, R427), and the faults of words that are no
instruction (R72, R74, R77).
-/

namespace Sys2Proof.Machine

/-! ### Bring-up (R28, R29) -/

/-- Step n of bring-up may begin: the one before it has succeeded. -/
def State.mayBoot (s : State) (n : Nat) : Bool :=
  s.power && !s.recovery && !s.noBerths && s.bootStep + 1 == n

/-- Recovery mode, logged. -/
def State.recover (s : State) : State := ({ s with recovery := true } : State).note 0 16 (BitVec.ofNat 64 s.bootStep)

/-- DEVSTAT (R29). -/
def State.devstat (s : State) : Word :=
  BitVec.ofNat 64 (s.bootStep * 2 ^ 8 + s.recovery.toNat * 2 + (decide (s.bootStep = 7)).toNat)

def execPowerGood (s : State) : Host.Outcome State Fault Refusal :=
  .next (if s.power then s else { s with power := true, bootStep := 1 })

def execDeriveIdentityKey (ok : Bool) (s : State) : Host.Outcome State Fault Refusal :=
  .next (if !s.mayBoot 2 then s else if ok then { s with bootStep := 2 } else s.recover)

/-- The active slot is kept when both its signatures verify; else the other becomes active when both of
its do. -/
def execVerifyFirmwareSlot (edA mlA edB mlB : Bool) (s : State) : Host.Outcome State Fault Refusal :=
  let good := fun (b : Bool) => if b then edB && mlB else edA && mlA
  .next (
    if !s.mayBoot 3 then s
    else if good s.slotB then { s with bootStep := 3 }
    else if good (!s.slotB) then { s with bootStep := 3, slotB := !s.slotB }
    else s.recover)

def execVerifyConfigBlock (ok : Bool) (blk : ConfigBlock) (s : State) : Host.Outcome State Fault Refusal :=
  .next (
    if !s.mayBoot 4 then s
    else if ok then { s with bootStep := 4, config := blk }
    else ({ s with noBerths := true } : State).note 0 16 4)

/-- A cluster that failed at bring-up: a spare of its die takes its index, or with none left it is lost. -/
def State.repairCluster (s : State) (c : Nat) : State :=
  if s.sparesUsed c < 2 then
    (s.modCluster c fun k => { k with replaced := k.replaced + 1, mx := { k.mx with spared := [] } }).note 0xB1 c 0
  else ({ s with deadClusters := setBit s.deadClusters c true } : State).note 0xB3 c 0

/-- A column of a cluster's array that failed at bring-up: a spare column takes over, or with none left the cluster
has failed. -/
def State.repairColumn (s : State) (x : Nat × BitVec 8) : State :=
  if 64 ≤ x.1 then s
  else if (s.cluster x.1).mx.spared.length < 2 then
    (s.modCluster x.1 fun k => { k with mx := { k.mx with spared := k.mx.spared ++ [x.2] } }).note 0xB2 x.1 0
  else s.repairCluster x.1

/-- hbms, ports and ucie are the stacks, UALink ports and UCIe modules that failed, and are left disabled; clusters
and columns failed too, and are repaired with spares. -/
def execTrainAndRepair (hbms ports : BitVec 8) (ucie : BitVec 2) (clusters : BitVec 64) (columns : List (Nat × BitVec 8))
    (s : State) : Host.Outcome State Fault Refusal :=
  .next (
    if !s.mayBoot 5 then s
    else
      let s := ((List.range 64).filter clusters.getLsbD).foldl State.repairCluster (columns.foldl State.repairColumn s)
      let s : State := { s with bootStep := 5, deadStacks := hbms, deadPorts := ports, deadHost := ucie }
      if hbms = 0 && ports = 0 && ucie = 0 then s
      else s.note 0 16 (BitVec.ofNat 64 (ucie.toNat * 65536 + hbms.toNat * 256 + ports.toNat)))

def execStartFirmwareCores (ok : Bool) (s : State) : Host.Outcome State Fault Refusal :=
  .next (
    if !s.mayBoot 6 then s
    else if !ok then s.recover
    else (List.range 18).foldl (fun s n => s.modAgent n fun a => { a with run := .active })
      { s with bootStep := 6, beat := s.clk })

/-- One berth built from the configuration block: its clusters but for those that are lost, its resources, way masks, send allowance and
allow-list, and STATE and ADMIT 1. -/
def State.buildBerth (s : State) (c : BerthConf) : State :=
  let b := c.b
  let slices := (List.range 256).filter fun sl => c.quads.getLsbD (sl / 4)
  let s := ((s.setSysreg (bclust b) (c.clusters &&& ~~~s.deadClusters)).setSysreg (bquad b) c.quads).setSysreg (bseg b) (c.segs.setWidth 64)
  let s := (List.range 8).foldl (fun s i => s.setSysreg (bkey b i) (c.keys.extractLsb' (64 * i) 64)) s
  let s := slices.foldl (fun s sl => s.setSysreg (waymask sl b) (c.ways.setWidth 64)) s
  let s := s.setSysreg (dev (0x600 + b.toNat)) (c.send.setWidth 64)
  let s := (List.range (min 64 c.allow.length)).foldl (fun s i =>
    s.setSysreg (dev (0x1500 + 64 * b.toNat + i)) (c.allow.getD i 0)) s
  let s := (s.setVfs b c.vfs).setAdmit b true
  let s : State := { s with mancut := put b.toNat (0, s.time, List.replicate 48 (0 : Byte)) s.mancut }
  s.modBerth b fun x => { x with state := 1 }

/-- A berth whose bit of built is clear could not be built, nor can one whose clusters are all lost. -/
def execBuildBerths (built : BitVec 16) (s : State) : Host.Outcome State Fault Refusal :=
  .next (
    if !s.mayBoot 7 then s
    else s.config.berths.foldl (fun s c =>
      if built.getLsbD c.b.toNat && c.clusters &&& ~~~s.deadClusters != 0 then s.buildBerth c else s.note 0 16 (c.b.setWidth 64)) { s with bootStep := 7 })

/-! ### Send allowances (R21) -/

/-- Units a berth's clusters may inject in the next window; 0 where the berth is not metered. -/
def State.allowanceOf (s : State) (b : BitVec 4) : Nat :=
  let n := bits (s.sysreg (dev (0x600 + b.toNat)) 0) 14 0
  if 22400 ≤ n then 0 else n

def execSendWindow (b : BitVec 4) (s : State) : Host.Outcome State Fault Refusal :=
  .next (s.modBerth b fun x => { x with allowance := s.allowanceOf b })

/-! ### The harbourmaster's heartbeat (R385) -/

/-- 1 ms without a heartbeat: the standby takes the harbourmaster's place, and slices that paused since go on. -/
def execHeartbeatTimeout (s : State) : Host.Outcome State Fault Refusal :=
  .next (if s.standby || s.bootStep < 6 || s.clk < s.beat + 700000 then s
    else
      let s := (s.modAgent 16 fun a => { a with run := .off }).modAgent 17 fun a =>
        { a with run := match a.run with | .off => .active | r => r }
      let s : State := { s with berths := s.berths.map fun b =>
        if s.beat < b.sliceEnd then { b with sliceEnd := b.sliceEnd + (s.clk - s.beat) } else b }
      ({ s with standby := true } : State).note 0 18 16)

/-! ### The host and peers (R130, R131) -/

/-- The request of an external agent at an address: it carries no KeyID and no tensor slot, and acts in
the ways of the berth that owns the channel quad. -/
def State.external (s : State) (pa : Nat) : Req :=
  let owner := allBerths.find? fun b => isHbm pa && (s.sysreg (bquad b) 0).getLsbD (quadOf pa)
  ⟨owner.getD 0, 0, 0, 0⟩

/-- An external agent's access of n bytes can be performed: memory of the device or the host answers at
every byte. -/
def State.answers (s : State) (pa n : Nat) : Bool :=
  decide (0 < n) && (List.range n).all fun i => s.there (pa + i) && !isPeer (pa + i)

/-- The units of 8 bytes that n bytes from pa touch, in order. -/
def unitsFrom (pa n : Nat) : List Nat :=
  (List.range ((pa + n + 7) / 8 - pa / 8)).map fun i => 8 * (pa / 8 + i)

/-- Bytes read by an external agent at their homes; those of a line whose tag fails are not stated. -/
def State.externalRead (s : State) (pa n : Nat) : List Byte × State :=
  let step := fun (acc : List Byte × State) (u : Nat) =>
    let ((v, _, bad), s) := acc.2.homeGet (acc.2.external u) u
    let (k, s) := if bad then s.takeFree else (0, s)
    (acc.1 ++ toBytes 8 (if bad then Config.freeWord k else v).toNat, s)
  let (bs, s) := (unitsFrom pa n).foldl step ([], s)
  ((bs.drop (pa % 8)).take n, s)

/-- A request performed at its homes: a peer's access has no owner (R131), and a peer's write is acknowledged. A write to a notify page reaches the command processor. -/
def State.performOut (s : State) : Outside → State
  | .write _ _ pa data => s.homePutBytes (s.external pa) pa data fun _ => false
  | .read _ pa n => let (bs, s) := s.externalRead pa n; { s with reads := bs :: s.reads }
  | .peer dev a r => match r with
    | .read n => let (bs, s) := s.externalRead a n; { s with reads := bs :: s.reads }
    | .write bs marks =>
      let s := s.homePutBytes (s.external a) a bs fun u => marks.getD (u / 8 - a / 8) false
      { s with peerAcks := (dev, a) :: s.peerAcks }
    | .atomic op wide x y =>
      let n := if wide then 8 else 4
      let ((old, _), s) := s.homeAtomic (s.external a) a op.toNat (8 * n) x.toNat y.toNat false
      { s with reads := toBytes n old.toNat :: s.reads }
  | .page _ o n c v => if s.hostUp then s.notify o n c v else s

/-- Address and bytes of a request. -/
def Outside.span : Outside → Nat × Nat
  | .write _ _ pa data => (pa, data.length)
  | .read _ pa n => (pa, n)
  | .peer _ pa r => (pa, match r with
    | .read n => n
    | .write bs _ => bs.length
    | .atomic _ wide _ _ => if wide then 8 else 4)
  | .page .. => (0, 0)

/-- The units that a request touches. -/
def Outside.units (r : Outside) : List Nat := unitsFrom r.span.1 r.span.2

/-- Who a request comes from. -/
def Outside.who : Outside → Requester
  | .write req _ _ _ | .read req _ _ => .pcie req
  | .peer dev _ _ => .peer dev
  | .page r _ _ _ _ => r

/-- The agent of the fabric that a request enters by (R20): the host port, or the UALink port of its peer. -/
def Outside.port (r : Outside) : Option Nat := match r.who with
  | .pcie _ => none
  | .peer dev => some (Config.peerPort dev.toNat % 8)

/-- A posted write of the host, to memory or to a notify page. -/
def Outside.posts : Outside → Bool
  | .write _ _ _ _ | .page (.pcie _) _ _ _ _ => true
  | _ => false

/-- A request waits for an earlier one of its port at the same home (R20), and, unless it is a write with Relaxed
Ordering, one of the host waits for every earlier posted write of its requester, a write to a notify page too (R127,
R130). -/
def Outside.follows (r q : Outside) : Bool :=
  let strict := match r with
    | .write _ relaxed _ _ => !relaxed
    | _ => true
  (strict && r.who == q.who && q.posts)
    || (r.port == q.port && r.units.any fun u => q.units.any fun w => homeOf u == homeOf w)

/-- A request cannot be performed yet, with the requests before it that wait. -/
def Outside.held (s : State) (before : List Outside) (r : Outside) : Bool :=
  (r.units.any fun u => s.refuses u) || before.any r.follows

/-- A request as it comes: performed now, or made to wait (R27, log 83). One at which nothing answers does nothing. -/
def State.takeOut (s : State) (r : Outside) : State :=
  let page := match r with | .page .. => true | _ => false
  if !page && !s.answers r.span.1 r.span.2 then s
  else if r.held s s.waiting then { s with waiting := s.waiting ++ [r] }
  else s.performOut r

/-- The requests that wait taken again, in their order: those that can be are performed. -/
def State.retryOut (s : State) (kept : List Outside) : List Outside → State
  | [] => { s with waiting := kept }
  | r :: rs => if r.held s kept then s.retryOut (kept ++ [r]) rs else (s.performOut r).retryOut kept rs

/-- A posted write of the host. -/
def execHostPostedWrite (req : BitVec 16) (relaxed : Bool) (pa : BitVec 48) (data : List Byte) (s : State) :
    Host.Outcome State Fault Refusal :=
  .next (if s.hostUp then s.takeOut (.write req relaxed pa.toNat data) else s)

/-- A new count of written packets at a notify page (R366, R381). -/
def execNotifyWrite (r : Requester) (o : QOwner) (n : BitVec 10) (v : Word) (s : State) : Host.Outcome State Fault Refusal :=
  .next (if s.hostUp then s.takeOut (.page r o n false v) else s)

/-- A SEQ written at offset 0x008 of a notify page (R380). -/
def execCancelWrite (r : Requester) (o : QOwner) (n : BitVec 10) (seq : BitVec 32) (s : State) :
    Host.Outcome State Fault Refusal :=
  .next (if s.hostUp then s.takeOut (.page r o n true (seq.setWidth 64)) else s)

/-- The discovery words that a BAR0 begins with (R73). -/
def discAt (off : Nat) : Word := if off = 0 then 0x00010B9680000000 else 0

/-- A 64-bit register of a page that the host reads: page 1 is the BAR0 of PF0 (R29, R73, R369), 2 + v that of VF v
(R73, R383, R435), and 0x20 + i queue interface i in BAR4 (R382); an offset that the manual does not name reads zero
(log 5). -/
def State.barWord (s : State) (page off : Nat) : Word :=
  let table := fun (xs : List (Nat × Word)) (i : Nat) =>
    if 0x1000 ≤ off && off < 0x3000 then findD (1024 * i + (off - 0x1000) / 8) 0 xs else 0
  if page = 1 then
    match off with
    | 0x10 => s.devstat
    | 0x100 => BitVec.ofNat 64 s.time
    | _ => discAt off
  else if page < 0x12 then
    let f := s.vf (BitVec.ofNat 4 (page - 2))
    match off with
    | 0x40 => f.refused
    | 0x48 => BitVec.ofNat 64 f.refusals
    | 0x200 => (findD (page - 2) (0 : BitVec 12) s.csel).setWidth 64
    | _ => if off < 0x10 then discAt off else table s.pasids (page - 2)
  else
    let q := s.qi (BitVec.ofNat 3 (page - 0x20))
    match off with
    | 0x40 => q.refused
    | 0x48 => BitVec.ofNat 64 q.refusals
    | 0x50 => BitVec.ofNat 64 q.dropped
    | _ => table s.qiPasids (page - 0x20)

/-- A read of the host: of physical memory, performed at the homes, or of a page of registers that address bits
[63:48] name. PF0's is read at any time after power-good (R29). A read of CVAL is COUNTER_READ. -/
def execHostRead (req : BitVec 16) (addr : Word) (n : Nat) (s : State) : Host.Outcome State Fault Refusal :=
  let page := bits addr 63 48
  let lo := bits addr 47 0
  .next (
    if page = 0 then (if s.hostUp then s.takeOut (.read req lo n) else s)
    else if (page != 1 && !s.hostUp) || !s.power || (0x12 ≤ page && page < 0x20) || 0x28 ≤ page then s
    else
      let bs := (unitsFrom lo n).flatMap fun u => toBytes 8 (s.barWord page u).toNat
      { s with reads := (bs.drop (lo % 8)).take n :: s.reads })

/-- A peer's access of this device's memory, performed at its homes with no owner. -/
def execPeerAccess (dev : BitVec 6) (pa : BitVec 48) (r : PeerReq) (s : State) : Host.Outcome State Fault Refusal :=
  let a := pa.toNat
  let legal := match r with
    | .atomic op wide _ _ => a % (if wide then 8 else 4) == 0 && decide (op.toNat ≤ 10)
    | _ => true
  .next (if s.power && 5 ≤ s.bootStep && !s.recovery && !s.deadPorts.getLsbD (Config.peerPort dev.toNat % 8) && isHbm a && legal then
    s.takeOut (.peer dev a r) else s)

/-! ### The lock-keeper (R25, R27) -/

/-- Some reading of a list of temperatures is at or above a limit. -/
def anyHot (limit : Nat) (ts : List Nat) : Bool := ts.any fun t => limit ≤ t

/-- The issue duty of a die after a sample: down to 4/16, up to 16/16. -/
def nextDuty (duty : Nat) (lower raise : Bool) : Nat :=
  if lower then max 4 (duty - 1) else if raise then min 16 (duty + 1) else duty

/-- A sample: the thermal trip, after which no berth has any state, or the duty of each die and the stacks
that refuse requests. -/
def State.sample (s : State) (r : Sensors) : State :=
  if anyHot 115 r.clusterTemp || anyHot 110 r.stackTemp then
    ({ State.reset with
      tripped := true, power := s.power, clk := s.clk, slotB := s.slotB, sensors := r, events := s.events
      frees := s.frees } : State).note 0 18 0
  else
    let cap := s.config.powerCap < r.power
    let die0 := anyHot 105 (r.clusterTemp.take 32)
    let die1 := anyHot 105 (r.clusterTemp.drop 32)
    let hot := BitVec.ofNat 8 ((List.range 8).foldl (fun n i => if 100 ≤ r.stackTemp.getD i 0 then n + 2 ^ i else n) 0)
    let calm := !cap && !die0 && !die1 && hot == 0
    let run := if calm then s.clearRun + 1 else 0
    let s : State := { s with
      sensors := r, clearRun := run, hotStacks := hot, refusing := s.refusing &&& hot
      duty0 := nextDuty s.duty0 (cap || die0) (10 ≤ run), duty1 := nextDuty s.duty1 (cap || die1) (10 ≤ run) }
    s.retryOut [] s.waiting

def execSensorSample (r : Sensors) (s : State) : Host.Outcome State Fault Refusal :=
  .next (if s.power then s.sample r else s)

/-- The channels of a hot stack begin or end the 1 µs in which they refuse new requests; what waited outside is taken
again. -/
def execStackRequestRefusal (stack : BitVec 3) (s : State) : Host.Outcome State Fault Refusal :=
  let n := stack.toNat
  .next (if s.refusing.getLsbD n || s.hotStacks.getLsbD n then
    let s : State := { s with refusing := setBit s.refusing n (!s.refusing.getLsbD n) }
    s.retryOut [] s.waiting else s)

/-- An image delivered to a slot, logged; it becomes active only if both of its signatures verify. -/
def execFirmwareUpdate (slotB edOk mlOk : Bool) (s : State) : Host.Outcome State Fault Refusal :=
  let n : Nat × Nat := if slotB then (s.images.1, s.images.2 + 1) else (s.images.1 + 1, s.images.2)
  .next (({ s with slotB := if edOk && mlOk then slotB else s.slotB, images := n } : State).note 0 18 (BitVec.ofNat 64 slotB.toNat))

/-! ### SPDM and TDISP (R390, R426, R427) -/

/-- An answer of a VF's pilot, with the session it leaves. -/
def State.answer (s : State) (v : BitVec 4) (session : Nat) (x : Answer) : State :=
  s.modVf v fun f => { f with session := session, answers := x :: f.answers }

/-- A request that the responder takes in the sessions p allows: its answer, and the session after it;
any other request is refused. A pilot that has not been started answers nothing. -/
def State.spdm (s : State) (v : BitVec 4) (p : Nat → Bool) (session : Nat → Nat) (x : Answer) : State :=
  let now := (s.vf v).session
  if s.bootStep < 6 then s
  else if p now then s.answer v (session now) x else s.answer v now .refused

/-- What R427 measures under an index: the SHA-384 digest, or the head hash of the berth manifest, which is one. -/
def State.measurement (s : State) (v : BitVec 4) (i : Nat) : List Byte :=
  let b := s.berthOfVf v.toNat
  match i with
  | 1 => sha384 Config.bootRom
  | 2 => sha384 (Config.firmware s.attester)
  | 3 => sha384 (Config.configBytes s.config)
  | 4 => sha384 (Config.reportBytes (match b with
    | some b => [b.toNat, (s.sysreg (bclust b) 0).toNat, (s.sysreg (bquad b) 0).toNat, bits (s.sysreg (berthctl b) 0) 2 1
        , (s.keySlots b).length, (s.berth b).gen.toNat]
    | none => []))
  | _ => match b with
    | some b => fit 48 (s.cutOf b).2.2
    | none => List.replicate 48 0

/-- The certificate chain of a slot: 0 the Ed25519 chain, 1 the ML-DSA-65 chain, to the attestation key of the active
firmware. -/
def State.certChain (s : State) (slot : Bool) : List Byte := Config.certificates slot s.attester ((if slot then Prod.snd else Prod.fst) (publicKeys s.attester))

def execGetVersion (v : BitVec 4) (s : State) : Host.Outcome State Fault Refusal :=
  .next (s.spdm v (fun _ => true) (fun _ => 1) .version)
def execGetCapabilities (v : BitVec 4) (s : State) : Host.Outcome State Fault Refusal :=
  .next (s.spdm v (· == 1) (fun _ => 2) .capabilities)
def execNegotiateAlgorithms (v : BitVec 4) (s : State) : Host.Outcome State Fault Refusal :=
  .next (s.spdm v (· == 2) (fun _ => 3) (.algorithms [.sha384, .ed25519, .secp384r1, .aes256Gcm]))
def execGetDigests (v : BitVec 4) (s : State) : Host.Outcome State Fault Refusal :=
  .next (s.spdm v (3 ≤ ·) id (.digests (sha384 (s.certChain false)) (sha384 (s.certChain true))))
def execGetCertificate (v : BitVec 4) (slot : Bool) (s : State) : Host.Outcome State Fault Refusal :=
  .next (s.spdm v (3 ≤ ·) id (.certificate slot (s.certChain slot)))
def execChallenge (v : BitVec 4) (hash : List Byte) (s : State) : Host.Outcome State Fault Refusal :=
  .next (s.spdm v (3 ≤ ·) id (.auth (signatures s.attester hash).1 (signatures s.attester hash).2))
def execGetMeasurements (v : BitVec 4) (signed : Bool) (hash : List Byte) (s : State) : Host.Outcome State Fault Refusal :=
  let (ed, ml) := if signed then signatures s.attester hash else ([], [])
  .next (s.spdm v (3 ≤ ·) id (.measurements ([1, 2, 3, 4, 5].map (s.measurement v)) ed ml))
/-- share: the requester's public share of the secp384r1 exchange. One that is no point is refused (log 17). -/
def execKeyExchange (v : BitVec 4) (share hash : List Byte) (s : State) : Host.Outcome State Fault Refusal :=
  let (k, s') := s.takeFree
  let x := (ecShare (Config.ephemeral k), ecSecret (Config.ephemeral k) share)
  let sig := signatures s.attester hash
  .next (if 6 ≤ s.bootStep && 3 ≤ (s.vf v).session && (ecPoint share).isSome then
      (s'.answer v 4 (.exchange x.1 sig.1 sig.2)).modVf v fun f => { f with secret := x.2 }
    else s.spdm v (fun _ => false) id .refused)
/-- ok: the proof of the handshake verified. With mig, the pilot is the source of a migration and has opened its session
to the destination's pilot (R428). -/
def execFinish (v : BitVec 4) (ok : Bool) (mig : Option MigCheck) (s : State) : Host.Outcome State Fault Refusal :=
  .next (match mig with
    | none => s.spdm v (fun n => n == 4 && ok) (fun _ => 5) .finished
    | some m => if s.bootStep < 6 then s else s.checkMigration v ok m)
def execEndSession (v : BitVec 4) (s : State) : Host.Outcome State Fault Refusal :=
  .next (s.spdm v (· == 5) (fun _ => 3) .ended)

/-- A TDISP request, answered inside a secured session only and when the TDI's state allows it. -/
def State.tdisp (s : State) (v : BitVec 4) (p : Tdi → Bool) (next : Tdi → Tdi) (x : Answer) : State :=
  let f := s.vf v
  if 6 ≤ s.bootStep && f.session = 5 && p f.tdi && ((s.berthOfVf v.toNat).isSome || f.tdi == .error) then
    (s.spdm v (fun _ => true) id x).modVf v fun f => { f with tdi := next f.tdi }
  else s.spdm v (fun _ => false) id .refused

/-- The interface report of a VF (R390). -/
def State.report (s : State) (v : BitVec 4) : Answer :=
  match s.berthOfVf v.toNat with
  | none => .refused
  | some b =>
    let ctl := s.sysreg (berthctl b) 0
    .report b (s.sysreg (bclust b) 0) (s.sysreg (bquad b) 0) (ctl.getLsbD 2) (ctl.getLsbD 1) (s.keySlots b).length (s.berth b).gen

def execGetTdispVersion (v : BitVec 4) (s : State) : Host.Outcome State Fault Refusal :=
  .next (s.tdisp v (fun _ => true) id .tdispVersion)
def execGetTdispCapabilities (v : BitVec 4) (s : State) : Host.Outcome State Fault Refusal :=
  .next (s.tdisp v (fun _ => true) id .tdispCapabilities)
/-- tenant: the tenant key that the lock fixes (R428). -/
def execLockInterfaceRequest (v : BitVec 4) (tenant : List Byte) (s : State) : Host.Outcome State Fault Refusal :=
  let locks := 6 ≤ s.bootStep && (s.vf v).session == 5 && (s.vf v).tdi == .unlocked && (s.berthOfVf v.toNat).isSome
  let s := s.tdisp v (· == .unlocked) (fun _ => .locked) (.tdiState .locked)
  .next (if locks then s.modVf v fun f => { f with tenant := tenant } else s)
def execGetDeviceInterfaceReport (v : BitVec 4) (s : State) : Host.Outcome State Fault Refusal :=
  .next (s.tdisp v (fun t => t == .locked || t == .run) id (s.report v))
def execGetDeviceInterfaceState (v : BitVec 4) (s : State) : Host.Outcome State Fault Refusal :=
  .next (s.tdisp v (fun _ => true) id (.tdiState (s.vf v).tdi))
def execStartInterfaceRequest (v : BitVec 4) (s : State) : Host.Outcome State Fault Refusal :=
  .next (s.tdisp v (· == .locked) (fun _ => .run) .started)
def execStopInterfaceRequest (v : BitVec 4) (s : State) : Host.Outcome State Fault Refusal :=
  .next (s.tdisp v (fun _ => true) (fun _ => .unlocked) .stopped)

/-! ### Words that are no instruction (R72, R74, R77) -/

/-- A unit whose word is no row of the opcode map raises the fault that R77 puts first. A word in P format
of type 5 to 7 is still part of a run of prefixes (R52), whose end is fetched first. -/
def execEncodingFault (w : IWord) (s : State) : Host.Outcome State Fault Refusal :=
  if w.extractLsb' 25 7 == 127 then addPrefix w s
  else match unitFault s.cur w false with
    | some (c, v) => .next (s.takeTrap c v)
    | none => .next s

/-- A unit whose major is an extension major: every EXT bit of this part reads zero (R73). -/
def execExtEmulate (w : IWord) (s : State) : Host.Outcome State Fault Refusal :=
  match unitFault s.cur w false with
  | some (c, v) => .next (s.takeTrap c v)
  | none => .next s

end Sys2Proof.Machine
end

