-- ==== Sys2Proof/Machine/SfuNum.lean ====
section
/-!
DEFINITION. The values of the special function unit (R235 to R239): the exact value of each function
to 1,200 fraction bits, its special arguments, and its rounding: correct in bf16 and f16 (R237), one
of the two bracketing values in f32 (R238).
-/

namespace Sys2Proof.Machine

/-- Fraction bits of the fixed-point values below. -/
def fxBits : Nat := 1200
/-- One. -/
def fxOne : Int := 2 ^ fxBits
/-- A product, rounded down. -/
def fxMul (x y : Int) : Int := x * y / fxOne
/-- A quotient, rounded down. -/
def fxDiv (x y : Int) : Int := x * fxOne / y
/-- m·2^e rounded down to a multiple of 2^−1200. -/
def fxOf (m : Int) (e : Int) : Int :=
  let k := e + fxBits
  if 0 ≤ k then m * 2 ^ k.toNat else m / 2 ^ (-k).toNat

/-- Σ f(0) + f(1) + …, where a term is made from the one before and its number. -/
def fxSeries (step : Nat → Int → Int) (out : Nat → Int → Int) : Nat → Nat → Int → Int → Int
  | 0, _, _, acc => acc
  | n + 1, k, term, acc => if term = 0 then acc else fxSeries step out n (k + 1) (step k term) (acc + out k term)

/-- atanh y for |y| ≤ 1/3. -/
def fxAtanh (y : Int) : Int :=
  let y2 := fxMul y y
  fxSeries (fun _ t => fxMul t y2) (fun k t => t / (2 * k + 1)) 800 0 y 0
/-- ln 2. -/
def fxLn2 : Int := 2 * fxAtanh (fxOne / 3)
/-- e^y for 0 ≤ y ≤ 1. -/
def fxExp (y : Int) : Int := fxSeries (fun k t => fxMul t y / (k + 1)) (fun _ t => t) 400 0 fxOne 0
/-- e^y for any y: its significand and its power of two. -/
def fxExpAny (y : Int) : Int × Int :=
  let k := y / fxLn2
  (fxExp (y - k * fxLn2), k)
/-- arctan (1/n) scaled by 2^p. -/
def fxAtanInv (p n : Nat) : Int :=
  fxSeries (fun _ t => -t / (n * n : Nat)) (fun k t => t / (2 * k + 1)) (p + 8) 0 ((2 ^ p : Nat) / n) 0
/-- π scaled by 2^p, by Machin's formula. -/
def fxPi (p : Nat) : Int := 16 * fxAtanInv p 5 - 4 * fxAtanInv p 239
/-- cos r and sin r for |r| ≤ 1. -/
def fxCos (r : Int) : Int :=
  let r2 := fxMul r r
  fxSeries (fun k t => -(fxMul t r2) / ((2 * k + 1) * (2 * k + 2) : Nat)) (fun _ t => t) 300 0 fxOne 0
def fxSin (r : Int) : Int :=
  let r2 := fxMul r r
  fxSeries (fun k t => -(fxMul t r2) / ((2 * k + 2) * (2 * k + 3) : Nat)) (fun _ t => t) 300 0 r 0
/-- √(num/den) as a fixed-point number. -/
def fxSqrt (num den : Nat) : Int := isqrt (num * 2 ^ (2 * fxBits) / den)
/-- erf z for 0 ≤ z ≤ 16. -/
def fxErf (z : Int) : Int :=
  let z2 := fxMul z z
  let sum := fxSeries (fun k t => -(fxMul t z2) / (k + 1)) (fun k t => t / (2 * k + 1)) 2000 0 z 0
  -- 2/√π
  fxDiv (2 * sum) (isqrt (fxPi fxBits * fxOne).toNat)

/-- A fixed-point value as an exact one. -/
def fxExact (x : Int) : Exact := ⟨decide (x < 0), x.natAbs, 2 ^ fxBits⟩
/-- A value of that sign, not zero and below every normal and subnormal value (R236). -/
def tinyExact (neg : Bool) : Exact := ⟨neg, 1, 2 ^ 1000⟩
/-- m·2^e brought nearer to zero by the least amount. -/
def justBelow (neg : Bool) (m : Nat) (e : Int) : Exact :=
  let x := Exact.dyadic neg m e
  ⟨neg, x.num * 2 ^ 800 - 1, x.den * 2 ^ 800⟩

/-- Sine (false) or cosine (true) of ±m·2^e, m > 0 (R239). -/
def trigExact (cos neg : Bool) (m : Nat) (e : Int) : Exact :=
  -- π/2 to 400 bits more than the value is large
  let p := fxBits + 400
  let half := fxPi p / 2
  let x : Int := if 0 ≤ e + p then (m * 2 ^ (e + p).toNat : Nat) else (m / 2 ^ (-(e + p)).toNat : Nat)
  let k := (x + half / 2) / half
  let r := (x - k * half) / 2 ^ 400
  let q := (if cos then k + 1 else k) % 4
  let v := if q = 0 then fxSin r else if q = 1 then fxCos r else if q = 2 then -(fxSin r) else -(fxCos r)
  fxExact (if neg && !cos then -v else v)

/-- The exact value of function fn at the non-zero finite argument ±m·2^e, where R235 lists nothing
else: none for an exact zero. -/
def sfuExact (fn : Nat) (neg : Bool) (m : Nat) (e : Int) : Option Exact :=
  let mag := Exact.dyadic neg m e
  let big := fun (n : Nat) => decide (n * mag.den ≤ mag.num)
  let x : Int := fxOf (if neg then -(m : Int) else m) e
  let ofPair := fun (v : Int × Int) => some (Exact.dyadic false v.1.toNat (v.2 - fxBits))
  match fn with
  | 0 => if big 4096 then (if neg then some (tinyExact false) else some (Exact.dyadic false 1 4096))
    else
      let k := x / fxOne
      ofPair (fxExp (fxMul (x - k * fxOne) fxLn2), k)
  | 1 =>
    let l := m.log2
    let z := fxOf m (-(l : Int))
    let ln := 2 * fxAtanh (fxDiv (z - fxOne) (z + fxOne))
    let v := fxDiv ln fxLn2 + (e + l) * fxOne
    if v = 0 then none else some (fxExact v)
  | 2 => some ⟨neg, mag.den, mag.num⟩
  | 3 =>
    let s := sqrtExact m e
    some ⟨false, s.den, s.num⟩
  | 4 => some (sqrtExact m e)
  | 5 => some (trigExact false neg m e)
  | 6 => some (trigExact true neg m e)
  | 7 => if big 300 then some (justBelow neg 1 0)
    else
      let (v, k) := fxExpAny (2 * (if neg then -x else x))
      -- (E − 1)/(E + 1) with E = e^(2|x|)
      let w := v * 2 ^ k.toNat
      let t := fxDiv (w - fxOne) (w + fxOne)
      some (fxExact (if neg then -t else t))
  | 8 => if big 600 then (if neg then some (tinyExact false) else some (justBelow false 1 0))
    else
      let (v, k) := fxExpAny (if neg then -x else x)
      let w := v * 2 ^ k.toNat
      some (fxExact (if neg then fxDiv fxOne (fxOne + w) else fxDiv w (fxOne + w)))
  | 9 => if big 20 then (if neg then some (tinyExact true) else some (justBelow false m e))
    else
      let ax := if neg then -x else x
      let z := fxErf (fxDiv ax (fxSqrt 2 1))
      some (fxExact (fxMul x (if neg then fxOne - z else fxOne + z) / 2))
  | 10 => if big 600 then (if neg then some (tinyExact true) else some (justBelow false m e))
    else
      let (v, k) := fxExpAny (if neg then -x else x)
      let w := v * 2 ^ k.toNat
      some (fxExact (if neg then fxDiv x (fxOne + w) else fxDiv (fxMul x w) (fxOne + w)))
  | _ => if big 16 then some (justBelow neg 1 0)
    else
      let t := fxErf (if neg then -x else x)
      some (fxExact (if neg then -t else t))

/-- The values at infinities and zeros, and the invalid and pole arguments (R235). -/
def sfuSpecial (f : Fmt) (fn : Nat) (v : Fv) : Option (Nat × Flags) :=
  let inf := fun (s : Bool) => some (f.infinity s, (0 : Flags))
  let invalid := some (f.qnan, flagIV)
  let pole := fun (s : Bool) => some (f.infinity s, flagDZ)
  let zero := fun (s : Bool) => some (f.signed s 0, (0 : Flags))
  let one := fun (s : Bool) => some (f.signed s (f.bias * 2 ^ f.frac), (0 : Flags))
  match v with
  | .nan _ => none
  | .inf s =>
    match fn with
    | 0 => if s then zero false else inf false
    | 1 | 4 => if s then invalid else inf false
    | 3 => if s then invalid else zero false
    | 2 => zero s
    | 5 | 6 => invalid
    | 7 | 11 => one s
    | 8 => if s then zero false else one false
    | _ => if s then zero true else inf false
  | .fin s m _ =>
    if m = 0 then
      match fn with
      | 0 | 6 => one false
      | 1 => pole true
      | 2 | 3 => pole s
      | 8 => some ((f.bias - 1) * 2 ^ f.frac, 0)
      | _ => zero s
    else if s && (fn = 1 || fn = 3 || fn = 4) then invalid else none

/-- One element through the SFU: result and flags (R236 to R238). -/
def sfuEval (f : Fmt) (fn : Nat) (rm : Rm) (ftz : Bool) (a : Nat) : Nat × Flags :=
  let x := f.ftzIn ftz a
  match nanPick f [x] with
  | some n => (n, snanFlag f [x])
  | none =>
  match sfuSpecial f fn (f.val x) with
  | some r => r
  | none =>
  match f.val x with
  | .fin s m e =>
    match sfuExact fn s m e with
    | none => (0, 0)
    | some v =>
      if f.width = 32 then
        let r := roundFtz f .rtz ftz v
        if r.2 &&& flagOF != 0 then roundFtz f rm ftz v
        else if r.2 = 0 || (ftz && f.tiny v) then r
        else (if Config.sfuUp fn (BitVec.ofNat 32 x) ftz then r.1 + 1 else r.1, r.2)
      else roundFtz f rm ftz v
  | _ => (f.qnan, 0)

end Sys2Proof.Machine
end

