-- ==== Sys2Proof/Machine/Sfu.lean ====
section
/-!
DEFINITION. The special function unit (spec/09_special_functions.md): its forms, and the acceptance and
evaluation of their requests.
-/

namespace Sys2Proof.Machine

/-- Format of an SFU major (R233). -/
def sfuFmt (major : Nat) : Fmt := match major with
  | 0x2C => Fmt.bf16
  | 0x2D => Fmt.f16
  | _ => Fmt.f32

/-- A lane's results with their flags (R236 to R238). -/
def sfuLane (major fn : Nat) (rm : Rm) (ftz : Bool) (x : Word) : Nat × Flags :=
  let f := sfuFmt major
  packFl f.width (64 / f.width) fun j => sfuEval f fn rm ftz (el f.width x j)

/-- The request of a unit whose traps are enabled: it opens no window, and its result is checked at the unit. -/
def sfuAsk (s : State) (u : U) : Look where
  word := u.w
  dest := .scalar 0
  lanes := u.act
  lrem := 0
  phase := .issued
  req := u.va
  got := 0
  homes := []
  val := splat 0
  poison := 0
  flg := 0
  live := true
  ord := s.nextOrd
  ls := s.cur.ls

/-- The same request, whenever it was made. -/
def Look.same (l k : Look) : Bool := l.word == k.word && l.lanes == k.lanes && l.req == k.req

/-- The gang waits at the unit for the answer to a request, which goes to the port. -/
def askSfu (l : Look) : Act Unit := hold .results fun s =>
  { s with cur := { s.cur with check := some l }, nextOrd := s.nextOrd + 1 }

/-- An SFU unit (R234, R240): a request at the port (R242). With a trap enable set the gang waits at the unit for its
result, and an enabled flag traps there; no window opens. -/
def sfuForm (fn : Nat) (u : U) : Act Unit := do
  let s ← get
  let a := s.cur
  let en : Flags := a.fpc.extractLsb' 16 5
  if en = 0 then addLook u .issued u.va (splat 0) 0 0
  else
    let _ ← lookDest u
    match a.check with
    | none => askSfu (sfuAsk s u)
    | some l =>
      if !l.same (sfuAsk s u) then askSfu (sfuAsk s u)
      if l.phase != .held then hold .results
      if l.flg &&& en != 0 then raiseFp u.act fun i => (sfuLane u.op fn (rmOf a) (ftzOf a) (lane u.va i)).2
      addLook { u with f := 0 } .held u.va l.val 0 l.flg
      modCur fun a => { a with check := none }

/-- The word of an SFU unit (R233). -/
def sfuWord (t : BitVec 2) (d a : Reg) (fn : BitVec 7) (l : BitVec 4) : IWord := wordT (11#5 ++ t) d a fn l

def execExp2 (t : BitVec 2) (d a : Reg) (l : BitVec 4) (s : State) : Host.Outcome State Fault Refusal :=
  unit (sfuWord t d a 0 l) (sfuForm 0) s
def execLog2 (t : BitVec 2) (d a : Reg) (l : BitVec 4) (s : State) : Host.Outcome State Fault Refusal :=
  unit (sfuWord t d a 1 l) (sfuForm 1) s
def execRcp (t : BitVec 2) (d a : Reg) (l : BitVec 4) (s : State) : Host.Outcome State Fault Refusal :=
  unit (sfuWord t d a 2 l) (sfuForm 2) s
def execRsq (t : BitVec 2) (d a : Reg) (l : BitVec 4) (s : State) : Host.Outcome State Fault Refusal :=
  unit (sfuWord t d a 3 l) (sfuForm 3) s
def execSqrt (t : BitVec 2) (d a : Reg) (l : BitVec 4) (s : State) : Host.Outcome State Fault Refusal :=
  unit (sfuWord t d a 4 l) (sfuForm 4) s
def execSin (t : BitVec 2) (d a : Reg) (l : BitVec 4) (s : State) : Host.Outcome State Fault Refusal :=
  unit (sfuWord t d a 5 l) (sfuForm 5) s
def execCos (t : BitVec 2) (d a : Reg) (l : BitVec 4) (s : State) : Host.Outcome State Fault Refusal :=
  unit (sfuWord t d a 6 l) (sfuForm 6) s
def execTanh (t : BitVec 2) (d a : Reg) (l : BitVec 4) (s : State) : Host.Outcome State Fault Refusal :=
  unit (sfuWord t d a 7 l) (sfuForm 7) s
def execSigm (t : BitVec 2) (d a : Reg) (l : BitVec 4) (s : State) : Host.Outcome State Fault Refusal :=
  unit (sfuWord t d a 8 l) (sfuForm 8) s
def execGelu (t : BitVec 2) (d a : Reg) (l : BitVec 4) (s : State) : Host.Outcome State Fault Refusal :=
  unit (sfuWord t d a 9 l) (sfuForm 9) s
def execSilu (t : BitVec 2) (d a : Reg) (l : BitVec 4) (s : State) : Host.Outcome State Fault Refusal :=
  unit (sfuWord t d a 10 l) (sfuForm 10) s
def execErf (t : BitVec 2) (d a : Reg) (l : BitVec 4) (s : State) : Host.Outcome State Fault Refusal :=
  unit (sfuWord t d a 11 l) (sfuForm 11) s

/-! ### The port (R242, R244) -/

/-- The request that the port of a cluster takes next: gang, index of its descriptor or none for one that is checked
at its unit, and core. The cores are granted in turn, and a core's units go in the order of issue. -/
def sfuNextUnit (s : State) (c : Nat) : Option (Agent × Option Nat × Nat) :=
  (List.range 4).findSome? fun i =>
    let n := ((s.cluster c).sfuNext.toNat + i) % 4
    let xs : List (Nat × Agent × Option Nat × Nat) := ((s.gangsOn (4 * c + n)).filter Agent.inSlot).flatMap fun a =>
      (((List.range a.looks.length).map some).zip a.looks ++ a.check.toList.map (none, ·)).filterMap fun p =>
        if p.2.phase == .issued then some (p.2.ord, a, p.1, n) else none
    match xs with
    | [] => none
    | x :: xs => some (xs.foldl (fun b y => if y.1 < b.1 then y else b) x).2

/-- The result of a request, held (R236 to R238). -/
def Look.evaluated (l : Look) (a : Agent) : Look :=
  let r := fun i => sfuLane l.major (l.word.extractLsb' 4 7).toNat (rmOf a) (ftzOf a) (lane l.req i)
  { l with
    phase := .held, val := lanesOf fun i => BitVec.ofNat 64 (r i).1
    flg := (lanesIn l.lanes).foldl (fun acc i => acc ||| (r i).2) (0 : Flags) }

/-- The port accepts the next unit, whose result is held to the end of its window. A row that is corrected is
logged; one that cannot be read leaves the gang parked, with its request unanswered, until the pilot has served
that, and the cluster is retired (R182, R244). -/
def execSfuAccept (c : BitVec 6) (soft romErr : Bool) (s : State) : Host.Outcome State Fault Refusal :=
  match sfuNextUnit s c.toNat with
  | none => .next s
  | some (a, k, n) =>
    let s := s.modCluster c.toNat fun x => { x with sfuNext := BitVec.ofNat 2 (n + 1) }
    if romErr then .next (((s.park a.id .service).service a 20 0xB1 0 0).retireCluster c.toNat)
    else
      let s := if soft then s.note 0 a.id (c.setWidth 64) else s
      let s := (s.modAgent a.id fun a => match k with
        | some k => { a with looks := changeAt (·.evaluated a) k a.looks }
        | none => { a with check := a.check.map (·.evaluated a) }).land a.id
      .next (s.readyAll fun b w => w == .results && b.core.toNat / 4 == c.toNat && b.prof == .full)

end Sys2Proof.Machine
end

