-- ==== Sys2Proof/Machine/Dispatch.lean ====
section
/-!
DEFINITION. The meaning of every constructor of Instr: one arm, one direct call.
-/

namespace Sys2Proof.Machine

open Sys2Proof

def exec (i : Instr) (s : State) : Host.Outcome State Fault Refusal :=
  match i with
  | .powerGood => Sys2Proof.Machine.execPowerGood s
  | .deriveIdentityKey ok => Sys2Proof.Machine.execDeriveIdentityKey ok s
  | .verifyFirmwareSlot edA mlA edB mlB => Sys2Proof.Machine.execVerifyFirmwareSlot edA mlA edB mlB s
  | .verifyConfigBlock ok blk => Sys2Proof.Machine.execVerifyConfigBlock ok blk s
  | .trainAndRepair hbms ports ucie clusters columns => Sys2Proof.Machine.execTrainAndRepair hbms ports ucie clusters columns s
  | .startFirmwareCores ok => Sys2Proof.Machine.execStartFirmwareCores ok s
  | .buildBerths built => Sys2Proof.Machine.execBuildBerths built s
  | .sensorSample r => Sys2Proof.Machine.execSensorSample r s
  | .firmwareUpdate slotB edOk mlOk => Sys2Proof.Machine.execFirmwareUpdate slotB edOk mlOk s
  | .sendWindow b => Sys2Proof.Machine.execSendWindow b s
  | .fwdoorWrite n => Sys2Proof.Machine.execFwdoorWrite n s
  | .registerWrite addr v => Sys2Proof.Machine.execRegisterWrite addr v s
  | .storeRegistration k err => Sys2Proof.Machine.execStoreRegistration k err s
  | .registrationAck k => Sys2Proof.Machine.execRegistrationAck k s
  | .homeRead g k err soft => Sys2Proof.Machine.execHomeRead g k err soft s
  | .dataArrival g k => Sys2Proof.Machine.execDataArrival g k s
  | .atomicAtHome g err soft => Sys2Proof.Machine.execAtomicAtHome g err soft s
  | .hostPostedWrite req relaxed pa data => Sys2Proof.Machine.execHostPostedWrite req relaxed pa data s
  | .hostRead req addr n => Sys2Proof.Machine.execHostRead req addr n s
  | .peerAccess dev pa r => Sys2Proof.Machine.execPeerAccess dev pa r s
  | .peerAck k ok => Sys2Proof.Machine.execPeerAck k ok s
  | .linkDown port => Sys2Proof.Machine.execLinkDown port s
  | .slotPop core place => Sys2Proof.Machine.execSlotPop core place s
  | .swapThresholdExpiry t => Sys2Proof.Machine.execSwapThresholdExpiry t s
  | .swapOut t => Sys2Proof.Machine.execSwapOut t s
  | .swapRetest t => Sys2Proof.Machine.execSwapRetest t s
  | .gangRetire g => Sys2Proof.Machine.execGangRetire g s
  | .teamRetire t => Sys2Proof.Machine.execTeamRetire t s
  | .gridEndFlush q => Sys2Proof.Machine.execGridEndFlush q s
  | .completionSignal q => Sys2Proof.Machine.execCompletionSignal q s
  | .quantumExpiry g => Sys2Proof.Machine.execQuantumExpiry g s
  | .preempt g => Sys2Proof.Machine.execPreempt g s
  | .aging r => Sys2Proof.Machine.execAging r s
  | .recordDue r => Sys2Proof.Machine.execRecordDue r s
  | .lineFillArrival g n err => Sys2Proof.Machine.execLineFillArrival g n err s
  | .writeBackRegistered g n => Sys2Proof.Machine.execWriteBackRegistered g n s
  | .lazyWriteBack g n => Sys2Proof.Machine.execLazyWriteBack g n s
  | .lineDrowsy g n => Sys2Proof.Machine.execLineDrowsy g n s
  | .drowsyWake g n => Sys2Proof.Machine.execDrowsyWake g n s
  | .bankRefresh core bank errs => Sys2Proof.Machine.execBankRefresh core bank errs s
  | .bankRefreshEnd core bank => Sys2Proof.Machine.execBankRefreshEnd core bank s
  | .bankGate core bank => Sys2Proof.Machine.execBankGate core bank s
  | .ctxflushWrite core v => Sys2Proof.Machine.execCtxflushWrite core v s
  | .ctxflushDone core => Sys2Proof.Machine.execCtxflushDone core s
  | .icacheFill g errs => Sys2Proof.Machine.execIcacheFill g errs s
  | .verifyCompare g first second => Sys2Proof.Machine.execVerifyCompare g first second s
  | .bartoTimeout g => Sys2Proof.Machine.execBartoTimeout g s
  | .wfeTimeout g => Sys2Proof.Machine.execWfeTimeout g s
  | .waitParkTimeout g => Sys2Proof.Machine.execWaitParkTimeout g s
  | .heartbeatTimeout => Sys2Proof.Machine.execHeartbeatTimeout s
  | .sfuAccept c soft romErr => Sys2Proof.Machine.execSfuAccept c soft romErr s
  | .walkerGrant k => Sys2Proof.Machine.execWalkerGrant k s
  | .walkComplete k err => Sys2Proof.Machine.execWalkComplete k err s
  | .lathInstanceComplete ch => Sys2Proof.Machine.execLathInstanceComplete ch s
  | .copyAccept g => Sys2Proof.Machine.execCopyAccept g s
  | .copyStart c k => Sys2Proof.Machine.execCopyStart c k s
  | .copyComplete c k n err pads ok => Sys2Proof.Machine.execCopyComplete c k n err pads ok s
  | .tfetchAccept c => Sys2Proof.Machine.execTfetchAccept c s
  | .tileFull c h => Sys2Proof.Machine.execTileFull c h s
  | .mmaAccept c => Sys2Proof.Machine.execMmaAccept c s
  | .mmaStart c k => Sys2Proof.Machine.execMmaStart c k s
  | .segmentEnd c k pass1 pass2 pass3 err ecc soft => Sys2Proof.Machine.execSegmentEnd c k pass1 pass2 pass3 err ecc soft s
  | .mmaComplete c k => Sys2Proof.Machine.execMmaComplete c k s
  | .mxzeroDone c k => Sys2Proof.Machine.execMxzeroDone c k s
  | .drainEntryPush c k ecc soft => Sys2Proof.Machine.execDrainEntryPush c k ecc soft s
  | .drainComplete c k => Sys2Proof.Machine.execDrainComplete c k s
  | .sequencerExitDone c => Sys2Proof.Machine.execSequencerExitDone c s
  | .watchTimeout g => Sys2Proof.Machine.execWatchTimeout g s
  | .notifyWrite r o nidx v => Sys2Proof.Machine.execNotifyWrite r o nidx v s
  | .cancelWrite r o nidx seq => Sys2Proof.Machine.execCancelWrite r o nidx seq s
  | .deadlineCancel p => Sys2Proof.Machine.execDeadlineCancel p s
  | .packetTake b => Sys2Proof.Machine.execPacketTake b s
  | .heapStart b => Sys2Proof.Machine.execHeapStart b s
  | .sliceEnd b => Sys2Proof.Machine.execSliceEnd b s
  | .quiesce cmd => Sys2Proof.Machine.execQuiesce cmd s
  | .quiesceComplete b => Sys2Proof.Machine.execQuiesceComplete b s
  | .quiesceTimeout b => Sys2Proof.Machine.execQuiesceTimeout b s
  | .exportBerth cmd => Sys2Proof.Machine.execExportBerth cmd s
  | .importBerth cmd => Sys2Proof.Machine.execImportBerth cmd s
  | .resume cmd => Sys2Proof.Machine.execResume cmd s
  | .abandon cmd => Sys2Proof.Machine.execAbandon cmd s
  | .waymaskWrite sl b v => Sys2Proof.Machine.execWaymaskWrite sl b v s
  | .waymaskLineTake sl line => Sys2Proof.Machine.execWaymaskLineTake sl line s
  | .berthResourceWrite num v => Sys2Proof.Machine.execBerthResourceWrite num v s
  | .berthctlWrite b v => Sys2Proof.Machine.execBerthctlWrite b v s
  | .partitionReset b => Sys2Proof.Machine.execPartitionReset b s
  | .skimLine line corrected persist => Sys2Proof.Machine.execSkimLine line corrected persist s
  | .ttw1Write n v => Sys2Proof.Machine.execTtw1Write n v s
  | .rewrapLine seg entry line => Sys2Proof.Machine.execRewrapLine seg entry line s
  | .msctlWrite v w => Sys2Proof.Machine.execMsctlWrite v w s
  | .mskeyWrite v w => Sys2Proof.Machine.execMskeyWrite v w s
  | .streamRecordSend v kind pa n => Sys2Proof.Machine.execStreamRecordSend v kind pa n s
  | .streamRecordReceive v pa r => Sys2Proof.Machine.execStreamRecordReceive v pa r s
  | .counterRead v => Sys2Proof.Machine.execCounterRead v s
  | .getVersion v => Sys2Proof.Machine.execGetVersion v s
  | .getCapabilities v => Sys2Proof.Machine.execGetCapabilities v s
  | .negotiateAlgorithms v => Sys2Proof.Machine.execNegotiateAlgorithms v s
  | .getDigests v => Sys2Proof.Machine.execGetDigests v s
  | .getCertificate v slot => Sys2Proof.Machine.execGetCertificate v slot s
  | .challenge v hash => Sys2Proof.Machine.execChallenge v hash s
  | .getMeasurements v signed hash => Sys2Proof.Machine.execGetMeasurements v signed hash s
  | .keyExchange v share hash => Sys2Proof.Machine.execKeyExchange v share hash s
  | .finish v ok mig => Sys2Proof.Machine.execFinish v ok mig s
  | .endSession v => Sys2Proof.Machine.execEndSession v s
  | .getTdispVersion v => Sys2Proof.Machine.execGetTdispVersion v s
  | .getTdispCapabilities v => Sys2Proof.Machine.execGetTdispCapabilities v s
  | .lockInterfaceRequest v tenant => Sys2Proof.Machine.execLockInterfaceRequest v tenant s
  | .getDeviceInterfaceReport v => Sys2Proof.Machine.execGetDeviceInterfaceReport v s
  | .getDeviceInterfaceState v => Sys2Proof.Machine.execGetDeviceInterfaceState v s
  | .startInterfaceRequest v => Sys2Proof.Machine.execStartInterfaceRequest v s
  | .stopInterfaceRequest v => Sys2Proof.Machine.execStopInterfaceRequest v s
  | .guard c k n => Sys2Proof.Machine.execGuard c k n s
  | .immx p => Sys2Proof.Machine.execImmx p s
  | .rep n d a b => Sys2Proof.Machine.execRep n d a b s
  | .flags c x => Sys2Proof.Machine.execFlags c x s
  | .scl a b x y => Sys2Proof.Machine.execScl a b x y s
  | .nop => Sys2Proof.Machine.execNop s
  | .yield => Sys2Proof.Machine.execYield s
  | .exit => Sys2Proof.Machine.execExit s
  | .trap n => Sys2Proof.Machine.execTrap n s
  | .brk n => Sys2Proof.Machine.execBrk n s
  | .eret => Sys2Proof.Machine.execEret s
  | .wfe => Sys2Proof.Machine.execWfe s
  | .halt => Sys2Proof.Machine.execHalt s
  | .sev => Sys2Proof.Machine.execSev s
  | .bra m c k p => Sys2Proof.Machine.execBra m c k p s
  | .call m c k p => Sys2Proof.Machine.execCall m c k p s
  | .jmpr a => Sys2Proof.Machine.execJmpr a s
  | .callr d a => Sys2Proof.Machine.execCallr d a s
  | .ret a => Sys2Proof.Machine.execRet a s
  | .maskc d n k => Sys2Proof.Machine.execMaskc d n k s
  | .maskn d a => Sys2Proof.Machine.execMaskn d a s
  | .masks a => Sys2Proof.Machine.execMasks a s
  | .maskg d a => Sys2Proof.Machine.execMaskg d a s
  | .maskx d n k => Sys2Proof.Machine.execMaskx d n k s
  | .mfs d a => Sys2Proof.Machine.execMfs d a s
  | .mts d a => Sys2Proof.Machine.execMts d a s
  | .wbase im => Sys2Proof.Machine.execWbase im s
  | .wbaseS a im => Sys2Proof.Machine.execWbaseS a im s
  | .region d im => Sys2Proof.Machine.execRegion d im s
  | .cwb x a b => Sys2Proof.Machine.execCwb x a b s
  | .cdrop a b => Sys2Proof.Machine.execCdrop a b s
  | .cpin a b => Sys2Proof.Machine.execCpin a b s
  | .cunpin a b => Sys2Proof.Machine.execCunpin a b s
  | .barT => Sys2Proof.Machine.execBarT s
  | .barQ => Sys2Proof.Machine.execBarQ s
  | .barto d a => Sys2Proof.Machine.execBarto d a s
  | .spawn d a => Sys2Proof.Machine.execSpawn d a s
  | .join d a => Sys2Proof.Machine.execJoin d a s
  | .parkJoin a => Sys2Proof.Machine.execParkJoin a s
  | .parkAddr a b => Sys2Proof.Machine.execParkAddr a b s
  | .wake a => Sys2Proof.Machine.execWake a s
  | .staged => Sys2Proof.Machine.execStaged s
  | .takew d => Sys2Proof.Machine.execTakew d s
  | .qbind d a => Sys2Proof.Machine.execQbind d a s
  | .qstat d a => Sys2Proof.Machine.execQstat d a s
  | .qclose d => Sys2Proof.Machine.execQclose d s
  | .add t d a b => Sys2Proof.Machine.execAdd t d a b s
  | .sub t d a b => Sys2Proof.Machine.execSub t d a b s
  | .and t d a b => Sys2Proof.Machine.execAnd t d a b s
  | .or t d a b => Sys2Proof.Machine.execOr t d a b s
  | .xor t d a b => Sys2Proof.Machine.execXor t d a b s
  | .andn t d a b => Sys2Proof.Machine.execAndn t d a b s
  | .shl t d a b => Sys2Proof.Machine.execShl t d a b s
  | .shr t d a b => Sys2Proof.Machine.execShr t d a b s
  | .sar t d a b => Sys2Proof.Machine.execSar t d a b s
  | .rol t d a b => Sys2Proof.Machine.execRol t d a b s
  | .min t d a b => Sys2Proof.Machine.execMin t d a b s
  | .max t d a b => Sys2Proof.Machine.execMax t d a b s
  | .minu t d a b => Sys2Proof.Machine.execMinu t d a b s
  | .maxu t d a b => Sys2Proof.Machine.execMaxu t d a b s
  | .absd t d a b => Sys2Proof.Machine.execAbsd t d a b s
  | .mov t d a => Sys2Proof.Machine.execMov t d a s
  | .mulI64 d a b => Sys2Proof.Machine.execMulI64 d a b s
  | .mulhiI64 d a b => Sys2Proof.Machine.execMulhiI64 d a b s
  | .mulhisI64 d a b => Sys2Proof.Machine.execMulhisI64 d a b s
  | .madI64 d a b => Sys2Proof.Machine.execMadI64 d a b s
  | .mulI32 d a b => Sys2Proof.Machine.execMulI32 d a b s
  | .mulhiI32 d a b => Sys2Proof.Machine.execMulhiI32 d a b s
  | .mulhisI32 d a b => Sys2Proof.Machine.execMulhisI32 d a b s
  | .madI32 d a b => Sys2Proof.Machine.execMadI32 d a b s
  | .divI64 d a b => Sys2Proof.Machine.execDivI64 d a b s
  | .idivI64 d a b => Sys2Proof.Machine.execIdivI64 d a b s
  | .remI64 d a b => Sys2Proof.Machine.execRemI64 d a b s
  | .iremI64 d a b => Sys2Proof.Machine.execIremI64 d a b s
  | .divI32 d a b => Sys2Proof.Machine.execDivI32 d a b s
  | .idivI32 d a b => Sys2Proof.Machine.execIdivI32 d a b s
  | .remI32 d a b => Sys2Proof.Machine.execRemI32 d a b s
  | .iremI32 d a b => Sys2Proof.Machine.execIremI32 d a b s
  | .icmp t c a b k => Sys2Proof.Machine.execIcmp t c a b k s
  | .addi d a im => Sys2Proof.Machine.execAddi d a im s
  | .movi d im => Sys2Proof.Machine.execMovi d im s
  | .shfi d a k w n => Sys2Proof.Machine.execShfi d a k w n s
  | .andi d a im => Sys2Proof.Machine.execAndi d a im s
  | .sel d a b n t => Sys2Proof.Machine.execSel d a b n t s
  | .ccmov d a => Sys2Proof.Machine.execCcmov d a s
  | .ccand d x a y b => Sys2Proof.Machine.execCcand d x a y b s
  | .ccor d x a y b => Sys2Proof.Machine.execCcor d x a y b s
  | .ccget d a => Sys2Proof.Machine.execCcget d a s
  | .ccset d a => Sys2Proof.Machine.execCcset d a s
  | .popc d a => Sys2Proof.Machine.execPopc d a s
  | .clz d a => Sys2Proof.Machine.execClz d a s
  | .ctz d a => Sys2Proof.Machine.execCtz d a s
  | .brev d a => Sys2Proof.Machine.execBrev d a s
  | .bswap d a => Sys2Proof.Machine.execBswap d a s
  | .bfe d a b => Sys2Proof.Machine.execBfe d a b s
  | .bfi d a b => Sys2Proof.Machine.execBfi d a b s
  | .lea d a b => Sys2Proof.Machine.execLea d a b s
  | .sextI8 d a => Sys2Proof.Machine.execSextI8 d a s
  | .sextI16 d a => Sys2Proof.Machine.execSextI16 d a s
  | .sextI32 d a => Sys2Proof.Machine.execSextI32 d a s
  | .zextI8 d a => Sys2Proof.Machine.execZextI8 d a s
  | .zextI16 d a => Sys2Proof.Machine.execZextI16 d a s
  | .zextI32 d a => Sys2Proof.Machine.execZextI32 d a s
  | .packI32 d a b => Sys2Proof.Machine.execPackI32 d a b s
  | .packI16 d a b => Sys2Proof.Machine.execPackI16 d a b s
  | .packI8 d a b => Sys2Proof.Machine.execPackI8 d a b s
  | .unpkI32 d a sl => Sys2Proof.Machine.execUnpkI32 d a sl s
  | .unpkI16 d a sl => Sys2Proof.Machine.execUnpkI16 d a sl s
  | .unpkI8 d a sl => Sys2Proof.Machine.execUnpkI8 d a sl s
  | .fadd t d a b => Sys2Proof.Machine.execFadd t d a b s
  | .fsub t d a b => Sys2Proof.Machine.execFsub t d a b s
  | .fmul t d a b => Sys2Proof.Machine.execFmul t d a b s
  | .fma t d a b => Sys2Proof.Machine.execFma t d a b s
  | .fms t d a b => Sys2Proof.Machine.execFms t d a b s
  | .fnma t d a b => Sys2Proof.Machine.execFnma t d a b s
  | .fnms t d a b => Sys2Proof.Machine.execFnms t d a b s
  | .fmin t d a b => Sys2Proof.Machine.execFmin t d a b s
  | .fmax t d a b => Sys2Proof.Machine.execFmax t d a b s
  | .fabs t d a => Sys2Proof.Machine.execFabs t d a s
  | .fneg t d a => Sys2Proof.Machine.execFneg t d a s
  | .fcpys t d a b => Sys2Proof.Machine.execFcpys t d a b s
  | .fdiv t d a b => Sys2Proof.Machine.execFdiv t d a b s
  | .fsqrt t d a => Sys2Proof.Machine.execFsqrt t d a s
  | .frnd t d a x m => Sys2Proof.Machine.execFrnd t d a x m s
  | .fmov t d a => Sys2Proof.Machine.execFmov t d a s
  | .fcmp t c a b k => Sys2Proof.Machine.execFcmp t c a b k s
  | .cvt d a t sl n => Sys2Proof.Machine.execCvt d a t sl n s
  | .dot2F16 d a b => Sys2Proof.Machine.execDot2F16 d a b s
  | .dot2Bf16 d a b => Sys2Proof.Machine.execDot2Bf16 d a b s
  | .dot8Q8 d a b => Sys2Proof.Machine.execDot8Q8 d a b s
  | .dot16Q4 d a b => Sys2Proof.Machine.execDot16Q4 d a b s
  | .dot4Q12 d a b => Sys2Proof.Machine.execDot4Q12 d a b s
  | .dot8I8 d a b => Sys2Proof.Machine.execDot8I8 d a b s
  | .rxadd d a b => Sys2Proof.Machine.execRxadd d a b s
  | .rxsub d a b => Sys2Proof.Machine.execRxsub d a b s
  | .rxmul d a b => Sys2Proof.Machine.execRxmul d a b s
  | .rxmac d a b => Sys2Proof.Machine.execRxmac d a b s
  | .rxneg d a => Sys2Proof.Machine.execRxneg d a s
  | .rxscl d a b => Sys2Proof.Machine.execRxscl d a b s
  | .qpackQ4 d a b => Sys2Proof.Machine.execQpackQ4 d a b s
  | .qpackQ8 d a b => Sys2Proof.Machine.execQpackQ8 d a b s
  | .qpackQ12 d a => Sys2Proof.Machine.execQpackQ12 d a s
  | .qunpkQ4 d a sl => Sys2Proof.Machine.execQunpkQ4 d a sl s
  | .qunpkQ8 d a sl => Sys2Proof.Machine.execQunpkQ8 d a sl s
  | .qunpkQ12 d a => Sys2Proof.Machine.execQunpkQ12 d a s
  | .scaleof d a sl => Sys2Proof.Machine.execScaleof d a sl s
  | .rxfrom d a l => Sys2Proof.Machine.execRxfrom d a l s
  | .rxto d a l => Sys2Proof.Machine.execRxto d a l s
  | .f8pkE4m3 d a l => Sys2Proof.Machine.execF8pkE4m3 d a l s
  | .f8pkE5m2 d a l => Sys2Proof.Machine.execF8pkE5m2 d a l s
  | .f8upE4m3 d a l => Sys2Proof.Machine.execF8upE4m3 d a l s
  | .f8upE5m2 d a l => Sys2Proof.Machine.execF8upE5m2 d a l s
  | .shfl d a b => Sys2Proof.Machine.execShfl d a b s
  | .shflx d a b => Sys2Proof.Machine.execShflx d a b s
  | .shflr d a b => Sys2Proof.Machine.execShflr d a b s
  | .bcast d a b => Sys2Proof.Machine.execBcast d a b s
  | .rev d a sl => Sys2Proof.Machine.execRev d a sl s
  | .vote d n k => Sys2Proof.Machine.execVote d n k s
  | .redaddI64 d a => Sys2Proof.Machine.execRedaddI64 d a s
  | .redaddI32 d a => Sys2Proof.Machine.execRedaddI32 d a s
  | .redaddF64 d a => Sys2Proof.Machine.execRedaddF64 d a s
  | .redaddF32 d a => Sys2Proof.Machine.execRedaddF32 d a s
  | .redminI64 d a => Sys2Proof.Machine.execRedminI64 d a s
  | .redminF64 d a => Sys2Proof.Machine.execRedminF64 d a s
  | .redminF32 d a => Sys2Proof.Machine.execRedminF32 d a s
  | .redmaxI64 d a => Sys2Proof.Machine.execRedmaxI64 d a s
  | .redmaxF64 d a => Sys2Proof.Machine.execRedmaxF64 d a s
  | .redmaxF32 d a => Sys2Proof.Machine.execRedmaxF32 d a s
  | .scanaddI64 d a => Sys2Proof.Machine.execScanaddI64 d a s
  | .scanaddI32 d a => Sys2Proof.Machine.execScanaddI32 d a s
  | .scanaddF64 d a => Sys2Proof.Machine.execScanaddF64 d a s
  | .scanaddF32 d a => Sys2Proof.Machine.execScanaddF32 d a s
  | .exp2 t d a l => Sys2Proof.Machine.execExp2 t d a l s
  | .log2 t d a l => Sys2Proof.Machine.execLog2 t d a l s
  | .rcp t d a l => Sys2Proof.Machine.execRcp t d a l s
  | .rsq t d a l => Sys2Proof.Machine.execRsq t d a l s
  | .sqrt t d a l => Sys2Proof.Machine.execSqrt t d a l s
  | .sin t d a l => Sys2Proof.Machine.execSin t d a l s
  | .cos t d a l => Sys2Proof.Machine.execCos t d a l s
  | .tanh t d a l => Sys2Proof.Machine.execTanh t d a l s
  | .sigm t d a l => Sys2Proof.Machine.execSigm t d a l s
  | .gelu t d a l => Sys2Proof.Machine.execGelu t d a l s
  | .silu t d a l => Sys2Proof.Machine.execSilu t d a l s
  | .erf t d a l => Sys2Proof.Machine.execErf t d a l s
  | .ldg w d a o l => Sys2Proof.Machine.execLdg w d a o l s
  | .ldv d a o l => Sys2Proof.Machine.execLdv d a o l s
  | .stgI8 d a o => Sys2Proof.Machine.execStgI8 d a o s
  | .stgI16 d a o => Sys2Proof.Machine.execStgI16 d a o s
  | .stgI32 d a o => Sys2Proof.Machine.execStgI32 d a o s
  | .stgI64 d a o => Sys2Proof.Machine.execStgI64 d a o s
  | .stv d a o => Sys2Proof.Machine.execStv d a o s
  | .lda d a o l => Sys2Proof.Machine.execLda d a o l s
  | .stl d a o => Sys2Proof.Machine.execStl d a o s
  | .atomAdd w d a b => Sys2Proof.Machine.execAtomAdd w d a b s
  | .atomSub w d a b => Sys2Proof.Machine.execAtomSub w d a b s
  | .atomAnd w d a b => Sys2Proof.Machine.execAtomAnd w d a b s
  | .atomOr w d a b => Sys2Proof.Machine.execAtomOr w d a b s
  | .atomXor w d a b => Sys2Proof.Machine.execAtomXor w d a b s
  | .atomMin w d a b => Sys2Proof.Machine.execAtomMin w d a b s
  | .atomMax w d a b => Sys2Proof.Machine.execAtomMax w d a b s
  | .atomMinu w d a b => Sys2Proof.Machine.execAtomMinu w d a b s
  | .atomMaxu w d a b => Sys2Proof.Machine.execAtomMaxu w d a b s
  | .atomXchg w d a b => Sys2Proof.Machine.execAtomXchg w d a b s
  | .atomCas w d a b => Sys2Proof.Machine.execAtomCas w d a b s
  | .fenceAcq => Sys2Proof.Machine.execFenceAcq s
  | .fenceRel => Sys2Proof.Machine.execFenceRel s
  | .fenceAr => Sys2Proof.Machine.execFenceAr s
  | .fenceEng => Sys2Proof.Machine.execFenceEng s
  | .fenceDev => Sys2Proof.Machine.execFenceDev s
  | .pref x a b => Sys2Proof.Machine.execPref x a b s
  | .discard a b => Sys2Proof.Machine.execDiscard a b s
  | .wback a b => Sys2Proof.Machine.execWback a b s
  | .zero a b => Sys2Proof.Machine.execZero a b s
  | .bind im => Sys2Proof.Machine.execBind im s
  | .ladd d a b => Sys2Proof.Machine.execLadd d a b s
  | .ladc d a sl => Sys2Proof.Machine.execLadc d a sl s
  | .lsub d a b => Sys2Proof.Machine.execLsub d a b s
  | .lsbc d a sl => Sys2Proof.Machine.execLsbc d a sl s
  | .lneg d a => Sys2Proof.Machine.execLneg d a s
  | .lcmp n a b => Sys2Proof.Machine.execLcmp n a b s
  | .lshl d a b => Sys2Proof.Machine.execLshl d a b s
  | .lshr d a b => Sys2Proof.Machine.execLshr d a b s
  | .lsar d a b => Sys2Proof.Machine.execLsar d a b s
  | .labs d a => Sys2Proof.Machine.execLabs d a s
  | .lmuls d a b => Sys2Proof.Machine.execLmuls d a b s
  | .lmacs d a b => Sys2Proof.Machine.execLmacs d a b s
  | .lmull d a b => Sys2Proof.Machine.execLmull d a b s
  | .lmulh d a b => Sys2Proof.Machine.execLmulh d a b s
  | .laccf32 d a => Sys2Proof.Machine.execLaccf32 d a s
  | .ltof32 d a sl => Sys2Proof.Machine.execLtof32 d a sl s
  | .ltof64 d a sl => Sys2Proof.Machine.execLtof64 d a sl s
  | .lfromxa d a b => Sys2Proof.Machine.execLfromxa d a b s
  | .ltoxa d a sl => Sys2Proof.Machine.execLtoxa d a sl s
  | .lfromi64 d a => Sys2Proof.Machine.execLfromi64 d a s
  | .cpy d a b => Sys2Proof.Machine.execCpy d a b s
  | .cbatch d => Sys2Proof.Machine.execCbatch d s
  | .cwait a => Sys2Proof.Machine.execCwait a s
  | .cstat d => Sys2Proof.Machine.execCstat d s
  | .hwait a => Sys2Proof.Machine.execHwait a s
  | .hrel a => Sys2Proof.Machine.execHrel a s
  | .hqry d a => Sys2Proof.Machine.execHqry d a s
  | .astore d a b => Sys2Proof.Machine.execAstore d a b s
  | .mma c r y x z q a b m k => Sys2Proof.Machine.execMma c r y x z q a b m k s
  | .mxcfg a => Sys2Proof.Machine.execMxcfg a s
  | .mxzero q => Sys2Proof.Machine.execMxzero q s
  | .mxdrain d a => Sys2Proof.Machine.execMxdrain d a s
  | .mxwait d sl => Sys2Proof.Machine.execMxwait d sl s
  | .mxfence => Sys2Proof.Machine.execMxfence s
  | .tfetch d a => Sys2Proof.Machine.execTfetch d a s
  | .tunpin a => Sys2Proof.Machine.execTunpin a s
  | .barb n b => Sys2Proof.Machine.execBarb n b s
  | .aredI64 x k n a b => Sys2Proof.Machine.execAredI64 x k n a b s
  | .aredMin x k n a b => Sys2Proof.Machine.execAredMin x k n a b s
  | .aredMax x k n a b => Sys2Proof.Machine.execAredMax x k n a b s
  | .aredXa x n a b => Sys2Proof.Machine.execAredXa x n a b s
  | .arwait d n => Sys2Proof.Machine.execArwait d n s
  | .barx n b => Sys2Proof.Machine.execBarx n b s
  | .pcommit a => Sys2Proof.Machine.execPcommit a s
  | .pcancel a => Sys2Proof.Machine.execPcancel a s
  | .prepeat a => Sys2Proof.Machine.execPrepeat a s
  | .keyset a b => Sys2Proof.Machine.execKeyset a b s
  | .tvbump d a b => Sys2Proof.Machine.execTvbump d a b s
  | .cseal d a => Sys2Proof.Machine.execCseal d a s
  | .cunseal d a => Sys2Proof.Machine.execCunseal d a s
  | .strip d a b => Sys2Proof.Machine.execStrip d a b s
  | .mancut d => Sys2Proof.Machine.execMancut d s
  | .hashb d a b => Sys2Proof.Machine.execHashb d a b s
  | .sign d a b => Sys2Proof.Machine.execSign d a b s
  | .mfsys d a => Sys2Proof.Machine.execMfsys d a s
  | .mtsys a b => Sys2Proof.Machine.execMtsys a b s
  | .tlbinv a b => Sys2Proof.Machine.execTlbinv a b s
  | .ctxkill a => Sys2Proof.Machine.execCtxkill a s
  | .domainTreeMessage ch m => Sys2Proof.Machine.execDomainTreeMessage ch m s
  | .stackRequestRefusal stack => Sys2Proof.Machine.execStackRequestRefusal stack s
  | .encodingFault w => Sys2Proof.Machine.execEncodingFault w s
  | .extEmulate w => Sys2Proof.Machine.execExtEmulate w s

end Sys2Proof.Machine
end

