-- ==== Sys2Proof/Machine/Fetch.lean ====
section
/-!
DEFINITION. How the agent whose turn it is gets its next word (R52, R76, R163, R320, R375, R439), when it may
run, and the end of a prologue that is too long (R375).
-/

namespace Sys2Proof.Machine

/-- What a fetch brings: the word; a miss; a fetch fault of the unit (R76); or a system fault that its pilot
serves, with its TVAL. -/
inductive Fetched where
  | word (w : IWord)
  | miss (va : Word)
  | trap (cause : BitVec 8) (va : Word)
  | pilot (cause : BitVec 8) (tval : Word)
  deriving DecidableEq, Repr

/-- Address of the next word of the unit being assembled (R52). -/
def Agent.fetchVa (a : Agent) : Word := a.pc + BitVec.ofNat 64 (4 * a.pfx.length)

/-- A gang's fetch through its core's instruction cache. A line whose error persisted is dropped when the
unit raises 0x17; a failed fill is what the unit raises. -/
def State.fetchCached (s : State) (a : Agent) (va : Word) : Fetched × State :=
  match s.cachedLine a va with
  | some x =>
    if x.bad then
      (.trap 0x17 va, s.modCore a.core.toNat fun k => { k with icache := k.icache.filter (· != x) })
    else (.word (wordAt x.bytes (va.toNat % 64)), s)
  | none =>
    match a.xfail.find? fun x => x.1 == va.toNat / 2 ^ 16 && x.2.1 != 0x22 with
    | some (_, c, w) => if c = 0x0E || c = 0x0F then (.trap c va, s) else (.pilot c w, s)
    | none => (.miss va, s)

/-- A fetch of a tile sequencer or launch engine, at the home. It waits for the walk of its page. -/
def State.fetchHome (s : State) (a : Agent) (va : Word) : Fetched × State :=
  match s.translate a (va.toNat / 2 ^ 16) with
  | (none, s) => (.miss va, s)
  | (some (.error .s1), s) => (.trap 0x0E va, s)
  | (some (.error e), s) => (.pilot e.cause (e.tval va), s)
  | (some (.ok p), s) =>
    let pa := p.pa + va.toNat % 2 ^ 16
    if !p.x then (.trap 0x0F va, s)
    else if s.refuses pa then (.miss va, s)
    else if !s.there pa then (.pilot 0x25 va, s)
    else
      let ((bs, bad), s) := s.homeGetBytes (a.req (s.treeOf a).1 p) pa 4
      if bad || s.mem.marked pa then (.trap 0x17 va, s) else (.word (wordAt bs 0), s)

/-- The next word of the agent whose turn it is. The address of a firmware core lies in its image (R439), and one
outside the global aperture is no code of any agent (R76, R112). -/
def State.fetch (s : State) : Fetched × State :=
  let a := s.cur
  let va := a.fetchVa
  if va.extractLsb' 0 2 != 0 then (.trap 0x0D va, s)
  else if 0xFE000000000000 ≤ va.toNat then (.trap 0x0F va, s)
  else match a.prof with
    | .firmware => (.word (BitVec.ofNat 32 ((s.imageOf a.id).read va.toNat 4)), s)
    | .full => s.fetchCached a va
    | _ => s.fetchHome a va

/-- The agent may issue: it is active or waits at issue, its registers are in place and its saved requests issued
again, and its berth runs (R394): a prologue under way goes on while its berth is quiescing. -/
def State.canRun (s : State) (a : Agent) : Bool :=
  let on := (s.berth a.berth).state
  (match a.run with | .active | .holding _ _ => true | _ => false) && !a.fresh && !a.looks.any Look.due && match a.prof with
    | .full | .tile => on == 1
    | .launch => on == 1 || on == 2
    | .firmware => true

/-- A launch engine that has executed 4,096 units in its run (R375). -/
def Agent.tooLong (a : Agent) : Bool := a.prof == .launch && a.pfx == [] && 4096 ≤ a.units.toNat

/-- A prologue over its limit ends its packet. -/
def State.endPrologue (s : State) : State :=
  let a := s.cur
  ({ s with cur := { a with run := .off } } : State).endPacket a.packet 3 0xA8 0 0 0

/-- The wait of a retried unit began when it first held: since is kept while the wait stays the same. -/
def keepSince (before : Run) (s : State) (g : Nat) : State :=
  match before with
  | .holding w t => s.modAgent g fun a => match a.run with
      | .holding w' _ => if w' = w then { a with run := .holding w t } else a
      | _ => a
  | _ => s

/-- One word of the agent whose turn it is, with run as what a word does: fetched, then executed. -/
def State.issueWord (s : State) (run : IWord → State → Host.Outcome State Fault Refusal) :
    Host.Outcome State Fault Refusal :=
  let before := s.cur.run
  let g := s.cur.id
  let s : State := { s with cur := { s.cur with run := .active } }
  if s.cur.tooLong then .next s.endPrologue
  else match s.fetch with
    | (.word w, s) => match run w s with
      | .next s => .next (keepSince before s g)
      | x => x
    | (.miss va, s) => .next (keepSince before (onStop (.hold (.ifetch va) id) s) g)
    | (.trap c va, s) => .next (s.takeTrap c va)
    | (.pilot c v, s) => .next (s.systemFault s.cur.id c v v)

end Sys2Proof.Machine
end

