-- ==== Sys2Proof/Machine/Events.lean ====
section
/-!
DEFINITION. The part's own events in the order the model looks at them, the agents' turns, and the passing of
time. An event that changes nothing is not enabled.
-/

namespace Sys2Proof.Machine

/-- What an event makes of the state, if it changes the part that f shows. -/
def gain {α : Type} [BEq α] (f : State → α) (s : State) (o : Host.Outcome State Fault Refusal) : Option State :=
  match o with
  | .next s' => if f s' == f s then none else some s'
  | _ => none

/-- The first of some candidates that answers. -/
def firstOf {α : Type} (xs : List α) (f : α → Option State) : Option State := xs.findSome? f

/-! ### Stores, loads, atomics, lines, walks -/

/-- A store on its way, at its home or acknowledged. -/
def storeEvent (s : State) : Option State :=
  firstOf (List.range s.pend.length) fun k => match s.pend[k]? with
    | none => none
    | some p =>
      gain (·.pend) s (if p.registered then execRegistrationAck k s
        else if isPeer p.pa then execPeerAck k true s else execStoreRegistration k false s)

/-- What the requests and register lines of some agents show. -/
def State.progress (ids : List Nat) (s : State) :=
  (ids.map fun g => (s.agent g).map fun a => (a.run, a.looks, a.lines, a.wbacks), s.walks)

/-- A load, an SFU request, an atomic, a line or a write-back of an agent. -/
def agentEvent (s : State) (a : Agent) : Option State :=
  let work := State.progress (s.all.map (·.id))
  let look := firstOf (List.range a.looks.length) fun k =>
    (gain work s (execDataArrival a.id k s)).orElse fun _ => gain work s (execHomeRead a.id k 0 0 s)
  look.orElse fun _ =>
  (if a.atom.isSome then gain (fun s => (s.agent a.id).map (·.atom)) s (execAtomicAtHome a.id 0 0 s) else none).orElse fun _ =>
  let lines := fun (s : State) => ((s.agent a.id).map fun a => (a.lines, a.wbacks), s.walks)
  (firstOf (a.lines.filter fun l => l.st == .filling) fun l => gain lines s (execLineFillArrival a.id l.n 0 s)).orElse fun _ =>
  (firstOf (a.lines.filter fun l => l.st == .drowsy && a.inSlot) fun l => gain lines s (execDrowsyWake a.id l.n s)).orElse fun _ =>
  (firstOf a.wbacks fun w => gain lines s (execWriteBackRegistered a.id w.1 s)).orElse fun _ =>
  let run := fun (s : State) => ((s.agent a.id).map (·.run), s.walks)
  match a.run with
  | .holding (.ifetch _) _ => gain run s (execIcacheFill a.id 0 s)
  | .leaving => gain run s (execGangRetire a.id s)
  | .parked (.addr _ _) _ => gain run s (execWatchTimeout a.id s)
  | .parked .event _ => gain run s (execWfeTimeout a.id s)
  | .parked (.barto _ _ _) _ => gain run s (execBartoTimeout a.id s)
  | .holding _ _ => (gain run s (execWaitParkTimeout a.id s)).orElse fun _ => gain run s (execBartoTimeout a.id s)
  | _ => none

def walkEvent (s : State) : Option State :=
  firstOf (List.range s.walks.length) fun k =>
    (gain (·.walks) s (execWalkComplete k [] s)).orElse fun _ => gain (·.walks) s (execWalkerGrant k s)

/-! ### Engines of a cluster -/

def copyEvent (s : State) (c : Nat) : Option State :=
  let b : BitVec 6 := BitVec.ofNat 6 c
  let f := fun (s : State) => (s.cluster c).copies
  firstOf (List.range (s.cluster c).copies.length) fun k =>
    (gain f s (execCopyStart b k s)).orElse fun _ => gain f s (execCopyComplete b k 0 [] [] true s)

def matrixEvent (s : State) (c : Nat) : Option State :=
  let b : BitVec 6 := BitVec.ofNat 6 c
  let ops := fun (s : State) => (s.cluster c).mx.ops
  let tiles := (s.cluster c).table.filter fun e => e.kind == .tile && e.st == .filling
  (firstOf tiles fun e => gain (fun s => ((s.cluster c).table, s.walks)) s (execTileFull b (BitVec.ofNat 6 e.idx) s)).orElse fun _ =>
  (firstOf (List.range (ops s).length) fun k => match (ops s)[k]? with
    | none => none
    | some o => match o.kind with
      | .mma .. => (gain ops s (execMmaStart b k s)).orElse fun _ =>
          (gain (fun s => (ops s, s.nextRecord, s.walks)) s (execSegmentEnd b k [] [] [] [] [] false s)).orElse fun _ => gain ops s (execMmaComplete b k s)
      | .zero => gain ops s (execMxzeroDone b k s)
      | .drain .. => (gain ops s (execDrainEntryPush b k [] false s)).orElse fun _ => gain ops s (execDrainComplete b k s)).orElse fun _ =>
  gain (fun s => (s.cluster c).mx.quad) s (execSequencerExitDone b s)

def clusterEvent (s : State) (c : Nat) : Option State :=
  (copyEvent s c).orElse fun _ => (matrixEvent s c).orElse fun _ =>
    if (sfuNextUnit s c).isSome then
      gain (fun s => s.all.map fun a => (a.looks, a.check)) s (execSfuAccept (BitVec.ofNat 6 c) false false s) else none

/-- Clusters in which an event may be due: those with operations, and those of gangs with a request at the
SFU port. -/
def State.busyClusters (s : State) : List Nat :=
  s.clusters.map (·.1) ++
    (s.all.filter fun a => (a.looks ++ a.check.toList).any (·.phase == .issued)).map fun a => a.core.toNat / 4

/-! ### Teams, grids, packets -/

def teamEvent (s : State) (t : Team) : Option State :=
  if t.ended then none
  else
    let f := fun (s : State) => (s.teamOf t.id).map fun t => (t.ended, t.swapped, t.swapWanted, t.blocked, t.waiting)
    (gain f s (execTeamRetire t.id s)).orElse fun _ =>
    (gain f s (execSwapOut t.id s)).orElse fun _ =>
    (gain f s (execSwapThresholdExpiry t.id s)).orElse fun _ => gain f s (execSwapRetest t.id s)

def lathEvent (s : State) : Option State :=
  firstOf s.channels fun c => gain (fun s => (s.channel c.ch).gen) s (execLathInstanceComplete (BitVec.ofNat 6 c.ch) s)

def packetEvent (s : State) : Option State :=
  let phases := fun (s : State) => s.packets.map fun p => (p.phase, p.state, p.code)
  -- a cancellation that was recorded comes before anything of its berth (R400)
  (firstOf s.berths fun b => gain (·.berths) s (.next (s.recorded b.b))).orElse fun _ =>
  (firstOf s.grids fun g =>
    gain (fun s => ((s.gridOf g.id).map (·.flushed), s.teams.map (·.ended))) s (execGridEndFlush g.id s)).orElse fun _ =>
  (firstOf s.packets fun p => gain phases s (execCompletionSignal p.id s)).orElse fun _ =>
  (firstOf s.packets fun p => gain (fun s => (phases s, s.berths)) s (execDeadlineCancel p.id s)).orElse fun _ =>
  (firstOf allBerths fun b =>
    gain (fun s => (phases s, (s.agent (32 + b.toNat)).map (·.run))) s (execHeapStart b s)).orElse fun _ =>
  firstOf allBerths fun b =>
    if s.queues.any fun q => q.berth == b && q.mapped && q.rptr.toNat < q.wptr.toNat then
      gain (fun s => (s.queues, s.nextRecord)) s (execPacketTake b s) else none

/-! ### The scheduler -/

/-- An idle slot of a core pops its first eligible record that a slot can take: a team record is placed on the lowest core
that can take it, or room is made for it there. -/
def popEvent (s : State) : Option State :=
  if !s.records.any (fun r => r.live && r.queued && r.kind != 5) then none
  else
    let cores := (List.range 256).filter fun c => s.berths.any fun b => s.coreIn b.b c
    firstOf cores fun c =>
      if 48 ≤ (s.inSlots c).length then none
      else
        let rs := s.eligible c
        firstOf (s.popOrder rs.length rs) fun r =>
          let places := if r.kind = 0 || r.kind = 4 then [c]
            else match s.teamOf r.team with
              | some t => cores.filter (s.canPlace t)
              | none => []
          firstOf places fun p => gain State.popView s (execSlotPop (BitVec.ofNat 8 c) (BitVec.ofNat 8 p) s)

/-- A record whose fields have changed is written in its entry of its grid's array (R45, log 84). -/
def recordEvent (s : State) : Option State :=
  firstOf (s.records.filter fun r => r.live && r.kind != 5 && decide (r.index < noIndex) && r.bytes != r.stored) fun r =>
    gain (fun s => s.records.map (·.stored)) s (.next (s.storeRecord r.id))

/-- Records that find no gang to pre-empt are noted, gangs are pre-empted, quanta end, and records age: in the order of
R350. -/
def timingEvent (s : State) : Option State :=
  let gangs := s.all.filter fun a => a.prof == .full && a.inSlot
  (gain (fun s => s.records.map (·.seen)) s (.next s.notice)).orElse fun _ =>
  (firstOf gangs fun a => gain (fun s => ((s.agent a.id).map (·.run), s.popView)) s (execPreempt a.id s)).orElse fun _ =>
  (firstOf gangs fun a => gain (fun s => (s.agent a.id).map fun a => (a.run, a.since)) s (execQuantumExpiry a.id s)).orElse fun _ =>
  let ready := s.records.filter fun r => r.live && r.queued && r.kind != 5
  firstOf ready fun r =>
    let f := fun (s : State) => (s.recordOf r.id).map fun r => (r.lvl, r.due)
    (gain f s (execAging r.id s)).orElse fun _ => gain f s (execRecordDue r.id s)

/-! ### Berths, the seal engine, pilots, stacks -/

def berthEvent (s : State) : Option State :=
  let lines := fun (s : State) => (s.all.map fun a => (a.lines, a.wbacks), s.walks)
  (firstOf s.berths fun b =>
    (gain (fun s => (s.berths, lines s)) s (execQuiesceComplete b.b s)).orElse fun _ =>
    (gain (·.berths) s (execQuiesceTimeout b.b s)).orElse fun _ => gain (·.berths) s (execSliceEnd b.b s)).orElse fun _ =>
  (firstOf s.cores fun c => gain (fun s => ((s.core c.1).flushBusy, lines s)) s (execCtxflushDone (BitVec.ofNat 8 c.1) s)).orElse fun _ =>
  (firstOf s.rewraps fun x => match x.2.2.2 with
    | l :: _ => gain (·.rewraps) s (execRewrapLine x.2.1 x.2.2.1 l s)
    | [] => none).orElse fun _ =>
  firstOf s.l2 fun l =>
    let sl := sliceOf (64 * l.line)
    if isHbm (64 * l.line) && s.removing sl l.way then gain (·.l2) s (execWaymaskLineTake (BitVec.ofNat 8 sl) l.line s) else none

/-- The pilot of a berth serves its first record in level order for which something can be done yet (R48, R385), while
the berth is stopped too (R400); a debug stop (0x12) is left to whoever set it. -/
def pilotEvent (s : State) : Option State :=
  firstOf allBerths fun b =>
    let mine := s.records.filter fun r => r.live && r.queued && r.kind == 5 && r.cause != 0x12 && r.berth == b && (s.berth b).state != 0
    firstOf (s.popOrder mine.length mine) fun r =>
      let s' := s.pilotServe r
      if s'.records == s.records then none else some s'

/-- The 1 µs of every 4 µs in which a hot stack refuses requests begins or ends (R27). The manual names no phase:
the model takes the first 700 of every 2,800 aclk since reset (log 80). -/
def stackEvent (s : State) : Option State :=
  firstOf (List.range 8) fun i =>
    if s.refusing.getLsbD i != (s.hotStacks.getLsbD i && s.clk % 2800 < 700) then
      gain (·.refusing) s (execStackRequestRefusal (BitVec.ofNat 3 i) s) else none

/-- The next event of the part. -/
def State.nextEvent (s : State) : Option State :=
  (storeEvent s).orElse fun _ =>
  (firstOf s.all (agentEvent s)).orElse fun _ =>
  (walkEvent s).orElse fun _ =>
  (firstOf s.busyClusters (clusterEvent s)).orElse fun _ =>
  (lathEvent s).orElse fun _ =>
  (firstOf s.teams (teamEvent s)).orElse fun _ =>
  (recordEvent s).orElse fun _ =>
  (packetEvent s).orElse fun _ =>
  (berthEvent s).orElse fun _ =>
  (pilotEvent s).orElse fun _ =>
  (popEvent s).orElse fun _ =>
  (timingEvent s).orElse fun _ => stackEvent s

/-! ### Turns and time -/

/-- Words that an agent issues in its turn; one that waits at issue takes its unit again once. -/
def turnLength (a : Agent) : Nat := match a.run with
  | .holding _ _ => 1
  | _ => 16

/-- The next agent that may run has its turn, and the one before it goes to the end. -/
def State.nextTurn (s : State) : Option State :=
  match s.agents.findIdx? s.canRun with
  | some k => match s.agents[k]? with
    | some a => some { s with
        cur := a, agents := s.agents.drop (k + 1) ++ s.cur :: s.agents.take k, quota := turnLength a }
    | none => none
  | none => if s.canRun s.cur then some { s with quota := turnLength s.cur } else none

/-- The aclk at which something that waits on time is next looked at. -/
def State.timers (s : State) : List Nat :=
  let agents := s.all.flatMap fun a => (match a.run with
    | .parked .event t => if a.prof == .firmware then [] else [t + 7000]
    | .parked (.addr _ w) t => [t + if w then 70000 else 1400]
    | .parked (.barto _ t _) _ => [clkOf t]
    | .holding (.barto _ t _) _ => [clkOf t]
    | .holding _ t => if a.prof == .full then [t + 1400] else []
    | _ => []) ++ if a.prof == .full && a.inSlot then [a.since + 35000] else []
  let records := (s.records.filter fun r => r.live && r.queued && r.kind != 5).map fun r => r.since + 140000
  let teams := s.teams.flatMap fun t => match s.gridOf t.grid with
    | some g => if t.ended then [] else t.waiting.map fun w => w + (if t.blocked then 14000 else 700 * s.swapTh g.berth) + 1
    | none => []
  let packets := (s.packets.filter fun p => p.phase < 4 && p.deadline != 0).map fun p => clkOf p.deadline
  let berths := s.berths.flatMap fun b => b.quiesceEnd.toList ++ [b.sliceEnd]
  let hbms := if s.hotStacks = 0 && s.refusing = 0 then [] else [s.clk / 2800 * 2800 + 700, s.clk / 2800 * 2800 + 2800]
  agents ++ records ++ teams ++ packets ++ berths ++ hbms

/-- Time passes to an aclk. The harbourmaster's dispatcher beats while that core runs (R385). -/
def State.passTo (s : State) (clk : Nat) : State :=
  { s with clk := clk, beat := match s.agent 16 with
      | some a => if a.run == .off then s.beat else clk
      | none => s.beat }

/-- Nothing can happen before the next timer, or ever: time passes. A part without power is dark. -/
def State.idle (s : State) : State :=
  if !s.power then s
  else s.passTo (match s.timers.filter (s.clk < ·) with
    | [] => s.clk + 1
    | t :: ts => ts.foldl min t)

end Sys2Proof.Machine
end

