-- ==== Sys2Proof/Machine/Step.lean ====
section
/-!
DEFINITION. One step of the part: the next thing the outside world or the device has asked for, a word of the
agent whose turn it is, an event of the part, or time passing.
-/

namespace Sys2Proof.Machine

open Sys2Proof

/-- What a word does: the instruction that it decodes to, or the fault of a word that is none. -/
noncomputable def runWord (w : IWord) (s : State) : Host.Outcome State Fault Refusal :=
  match decode w with
  | .ok i => exec i s
  | .error .extension => execExtEmulate w s
  | .error _ => execEncodingFault w s

/-- One step, with run as what a word does. -/
def stepWith (run : IWord → State → Host.Outcome State Fault Refusal) (s : State) : Host.Outcome State Fault Refusal :=
  if s.tripped then .fault .thermalTrip
  else match s.agenda with
    | i :: is => exec i { s with agenda := is }
    | [] =>
      if 0 < s.quota && s.canRun s.cur then
        ({ s.passTo (s.clk + 1) with quota := s.quota - 1 } : State).issueWord run
      else match s.nextEvent with
        | some s' => .next { s' with quota := 0 }
        | none => match s.nextTurn with
          | some s' => .next s'
          | none => .next s.idle

/-- One step of the part. -/
noncomputable def step (s : State) : Host.Outcome State Fault Refusal := stepWith runWord s

/-! ### A word placed where the next step fetches -/

/-- Where the word is placed: virtual, intermediate and physical address alike. -/
def placeAt : Nat := 0x1000

/-- Berth 0 active with cluster 0, a stage 2 that maps the first 64 GiB to themselves with every permission,
and one grid of one team on core 0. -/
def State.withWork (s : State) : State :=
  let g : Grid := {
    id := s.nextGrid, packet := 0, berth := 0, vf := 0, ctx := .none, dims := 0x100010001, stages := 1, gangsPer := 1
    nslots := 96, scratch := 65536, quad := false, persist := false, entry := BitVec.ofNat 64 placeAt, trapent := 0
    emuent := 0, tileent := 0, args := 0, level := 0, ceil := 15, deadline := 0, launchNo := 0
    poolBase := 0x100000, poolCount := 1, usedCtx := [0], area := 0x200000, areaSize := 0x100000, frames := 0x210000
    spawnSize := 0, spawnGens := [], mfBase := 0, mfCount := 0, tiles := 0, kper := 0, fixent := 0, fbase := 0
    fsize := 0, lath := [0, 1], left := 1, flushed := false, killed := false, lostAddr := none }
  let t : Team := {
    id := s.nextTeam, grid := g.id, t := 0, stage := 0, placed := some 0, lastCore := 0, scratch := Mem.empty
    frame := 0x210000, gen := 0, arrived := [], qarrived := [], gangs := [s.nextAgent], count := 1, signalled := false
    swapped := false, waitSince := none, qwaitSince := none, streamed := false, swapWanted := false, blocked := false, ended := false, cursor := none
    mxFrame := none, suspended := none }
  let m := (s.mem.write 0x10000 8 0x12001).write 0x12000 8 0x1F
  let s := { s with
    power := true, agenda := [], quota := 1, mem := m, grids := s.grids ++ [g], teams := s.teams ++ [t]
    nextGrid := s.nextGrid + 1, nextTeam := s.nextTeam + 1 }
  ((s.setSysreg (bclust 0) 1).setSysreg (dev 0x680) 0x10000).modBerth 0 fun b => { b with state := 1 }

/-- The agent that executes a major: the harbourmaster for HALT and majors 0x4E and 0x4F, a tile sequencer
for 0x48 to 0x4A, a launch engine for 0x4D, and a gang for every other. -/
def profileFor (w : IWord) : Profile :=
  let op := (w.extractLsb' 25 7).toNat
  if op = 0x4E || op = 0x4F || w = 7 then .firmware
  else if 0x48 ≤ op && op ≤ 0x4A then .tile
  else if op = 0x4D then .launch else .full

/-- The agent given the turn, in place of the one that has it. -/
def State.giveTurn (s : State) (a : Agent) : State :=
  if s.cur.id = a.id then { s with cur := a }
  else { s with cur := a, agents := s.cur :: s.agents.filter (·.id != a.id) }

/-- The word placed at the next fetch of the agent that executes its major, which has the turn: in the
instruction cache of core 0 for a gang, in memory for a sequencer or launch engine, with its translation, in the firmware image
for the harbourmaster. ERET finds the gang in a trap continuation. -/
def State.withFetchWord (s : State) (nbits w : Nat) : State :=
  let w32 : IWord := BitVec.ofNat 32 (w % 2 ^ nbits)
  let bytes := toBytes 4 w32.toNat ++ List.replicate 60 (0 : Byte)
  let s := s.withWork
  let t := s.nextTeam - 1
  let g := s.nextGrid - 1
  match profileFor w32 with
  | .firmware =>
    let s := { s with image := put 16 ((s.imageOf 16).write placeAt 4 w32.toNat) s.image }
    s.giveTurn { (s.agent 16).getD (Agent.init 16 .firmware) with run := .active, pc := BitVec.ofNat 64 placeAt, pfx := [] }
  | .full =>
    let s := s.modCore 0 fun c => { c with icache := ⟨0, .none, placeAt / 64, bytes, false, 0⟩ :: c.icache }
    let a := { Agent.init s.nextAgent .full with
      run := .active, pc := BitVec.ofNat 64 placeAt, cb := 0x100000, team := t, grid := g, trapc := w32 == 5 }
    ({ s with nextAgent := s.nextAgent + 1 } : State).giveTurn a
  | p =>
    let s := { s with mem := s.mem.write placeAt 4 w32.toNat }
    let n := if p = .tile then 64 else 32
    let s := if p = .tile then s.modCluster 0 fun c => { c with mx := { c.mx with quad := some t } } else s
    let a := { Agent.init n p with run := .active, pc := BitVec.ofNat 64 placeAt, team := t, grid := g }
    -- the page is at hand: its walk has been made
    let (b, c) := s.treeOf a
    (s.fillLevels a b c (placeAt / 2 ^ 16) ⟨0, 0, 0, true, true, true⟩).giveTurn a

end Sys2Proof.Machine
end

