-- ==== Sys2Proof/Claims/Unit.lean ====
section
/-!
DEFINITION. The words of the statements about units: when a unit issues, what writing its result does, and
what completing means. A table of a family says, for each of its instructions, what the unit does to
the state it was read in; none where the instruction is not of the family, or where the unit traps or
waits on these operands.
-/

namespace Sys2Proof.Claims

open Sys2Proof.Machine

/-! ### Fields of a word (R51) -/

def majorOf (w : IWord) : Nat := (w.extractLsb' 25 7).toNat
def fieldD (w : IWord) : Nat := (w.extractLsb' 18 7).toNat
def fieldA (w : IWord) : Nat := (w.extractLsb' 11 7).toNat
def fieldB (w : IWord) : Nat := (w.extractLsb' 4 7).toNat
def fieldF (w : IWord) : Nat := (w.extractLsb' 0 4).toNat

/-! ### Units -/

/-- The unit of i passes the checks of R77 in s and reads its operands u, which leaves s1: its registers are
free and resident, its queue ports hold entries, and no operand traps for word poison. -/
def Issues (i : Instr) (s : State) (u : U) (s1 : State) : Prop :=
  ∃ w, encode i = some w ∧ unitFault s.cur w false = none ∧ issue w s = .ok (u, s1)

/-- What a unit read as u does to the state: the state after its effect, and the address of the next unit
where it is not the next word; none where the unit does not complete. -/
abbrev Effect := U → State → Option (State × Option Word)

/-- Every instruction of a table completes as the table says: whenever its unit issues and its effect
is some state, exec answers the next state that ends the unit there. -/
def Completes (table : Instr → Option Effect) : Prop :=
  ∀ (i : Instr) (e : Effect) (s s1 s2 : State) (u : U) (j : Option Word),
    table i = some e → Issues i s u s1 → e u s1 = some (s2, j) → exec i s = .next (finish u j s s2)

/-- Every instruction of a table traps as the table says: whenever its unit issues and the table gives
a cause with its TVAL, exec answers the state before the unit with the trap taken. -/
def Traps (table : Instr → Option (U → State → Option (BitVec 8 × Word))) : Prop :=
  ∀ (i : Instr) (e : U → State → Option (BitVec 8 × Word)) (s s1 : State) (u : U) (c : BitVec 8) (v : Word),
    table i = some e → Issues i s u s1 → e u s1 = some (c, v) → exec i s = .next (s.takeTrap c v)

/-! ### Results -/

/-- The entry pushed by a unit, its inactive lanes zero, where the port is bound for pushing to an open
queue with room (R186). -/
def pushed (u : U) (n : Nat) (v : Lanes) (p : Mask) (s : State) : Option State :=
  match portOf s s.cur n true with
  | .error _ => none
  | .ok (t, q) =>
    if qClosed t.scratch q then none
    else match s.teamOf t.id with
      | none => some s
      | some x => if 15 ≤ qCount x.scratch q then none
        else some (s.push t.id q (lanesOf fun l => if has u.act l then lane v l else 0) (p &&& u.act))

/-- The result of a unit in its destination (R195): the active lanes of a vector register; a scalar, from the
lowest active lane, and unchanged when no lane is active; or one entry of a queue. -/
def wrote (u : U) (v : Lanes) (p : Mask) (s : State) : Option State :=
  if u.d < 96 then some { s with cur := s.cur.setSlot (s.cur.wb.toNat + u.d) u.act v p }
  else if u.d < 120 then
    match lanesIn u.act with
    | [] => some s
    | l :: _ => some { s with cur := s.cur.setScalar (u.d - 96) (lane v l) (has p l) }
  else pushed u (u.d - 120) v p s

/-- A scalar written with no poison. -/
def scalarIs (n : Nat) (v : Word) (s : State) : State := { s with cur := s.cur.setScalar n v false }

/-- Condition register n of the lanes of a mask replaced by the low four bits of f (R137). -/
def ccIs (n : Nat) (m : Mask) (f : Nat → Nat) (s : State) : State :=
  let a := s.cur
  let cc : Vector CcWord 32 := Vector.ofFn fun i : Fin 32 =>
    let old := (a.cc.getD i.val 0).toNat
    if has m i.val then BitVec.ofNat 16 (old - (old >>> (4 * n) % 16) <<< (4 * n) + (f i.val % 16) <<< (4 * n))
    else a.cc.getD i.val 0
  { s with cur := { a with cc := cc } }

/-- The flags of a unit under FLAGS, in its target (R63): each active lane's own, or, where the destination is a
scalar, those of the one result in it, which is the lowest active lane's (R195). -/
def flagged (u : U) (f : Nat → Nat) (s : State) : State :=
  match u.flags with
  | some (c, _) => ccIs c u.act (if u.form.d.isWritten && 96 ≤ u.d && u.d < 120 then fun _ => f ((lanesIn u.act).headD 0) else f) s
  | none => s

/-- A result without poison, and its flags. -/
def gives (u : U) (r : Nat → Word) (f : Nat → Nat) (s : State) : Option (State × Option Word) :=
  (wrote u (lanesOf r) 0 s).map fun s => (flagged u f s, none)

/-- The floating-point flags that the active lanes raise together (R88). -/
def allFlags (u : U) (fl : Nat → Flags) : Flags := (lanesIn u.act).foldl (fun acc l => acc ||| fl l) 0

/-- The trap enables of FPC (R87). -/
def trapsOn (s : State) : Flags := s.cur.fpc.extractLsb' 16 5

/-- The flags entered into FPC, where none of them is enabled to trap (R88). -/
def raised (u : U) (fl : Nat → Flags) (s : State) : Option State :=
  if allFlags u fl &&& trapsOn s != 0 then none
  else some { s with cur := { s.cur with fpc := s.cur.fpc ||| ((allFlags u fl).setWidth 32 <<< 8) } }

/-- The trap of an enabled floating-point flag: TVAL holds the lanes that raised one in bits [31:0] and the
unit's flags from bit 40 (R88). -/
def fpTrap (u : U) (fl : Nat → Flags) (s : State) : Option (BitVec 8 × Word) :=
  if allFlags u fl &&& trapsOn s = 0 then none
  else some (0x18, BitVec.ofNat 64 ((u.act &&& maskOf fun l => fl l &&& trapsOn s != 0).toNat + (allFlags u fl).toNat * 2 ^ 40))

/-- The place a long-latency unit writes later (R139): its register, or the queue that its port names now,
bound for pushing and open. -/
def laterPlace (u : U) (s : State) : Option LookDest :=
  match regRef s.cur u.d with
  | some r => some r
  | none => match portOf s s.cur (u.d - 120) true with
    | .error _ => none
    | .ok (t, q) =>
      if qClosed t.scratch q then none
      else some (.port (u.d - 120) (s.cur.kbyte (u.d - 120)) (s.cur.kcore.extractLsb' (2 * (u.d - 120)) 2))

/-- A descriptor taken for a long-latency unit with window L, where one of the four is free (R67, R139). -/
def described (u : U) (window : Nat) (phase : LookPhase) (req val : Lanes) (poison got : Mask)
    (homes : List (Nat × Nat × BitVec 9 × BitVec 12)) (flg : Flags) (s : State) : Option State :=
  match laterPlace u s with
  | none => none
  | some d =>
    if 4 ≤ s.cur.looks.length then none
    else some { s with
      nextOrd := s.nextOrd + 1
      cur := { s.cur with looks := s.cur.looks ++ ([{
        word := u.w, dest := d, lanes := u.act, lrem := BitVec.ofNat 4 window, phase := phase, req := req
        got := got, homes := homes, val := val, poison := poison, flg := flg, live := true, ord := s.nextOrd, ls := s.cur.ls }] : List Look) } }

/-- A state as a completed unit that goes on at the next word. -/
def goes (x : Option State) : Option (State × Option Word) := x.map (·, none)

/-- What a shared operation of a unit does to a state, none where it traps or waits. -/
def ran {α : Type} (x : Act α) (s : State) : Option (α × State) :=
  match x s with
  | .ok r => some r
  | .error _ => none

/-- Scalars that no earlier unit still has to write (R164). -/
def free (ns : List Nat) (s : State) : Bool := ns.all fun n => !regBusy s.cur (.scalar n)

/-- The agent's earlier loads and stores are done (R121), and no peer store of it was lost (R262). -/
def quiet (s : State) : Bool := s.released s.cur.id && s.cur.lost.isNone

/-- A state given where a condition holds. -/
def only (c : Bool) (s : State) : Option State := if c then some s else none

end Sys2Proof.Claims
end

