-- ==== Sys2Proof/Claims/Control.lean ====
section
/-!
DEFINITION. What the statements say of the gang sequencer and the context store: system instructions
(R42, R177 to R179), branches, calls and returns (R169 to R171), masks (R172, R173), special registers
(R58, R87, R174), the window and its lines (R155 to R160), barriers (R183, R184), queue ports (R187),
and the continuations of the distributor (R355 to R363).
-/

namespace Sys2Proof.Claims

open Sys2Proof.Machine

/-! ### SYS (R177 to R179) -/

/-- EXIT (R42, R177): the active lanes leave; a gang whose last lane leaves waits to retire. A stream closes
(R321), a prologue ends without a launch once its stores are done (R375), a firmware core goes on. -/
def exitOf (u : U) (s : State) : Option State :=
  match s.cur.prof with
  | .full =>
    let gone := s.cur.xm ||| u.act
    only (splitLanes s.cur u.act == 0)
      { s with cur := { s.cur with em := s.cur.em &&& ~~~u.act, xm := gone, run := if gone = 0xFFFFFFFF then .leaving else s.cur.run } }
  | .tile => some { s with cur := { s.cur with run := .closing } }
  | .launch => only (quiet s) (s.cancelPrologue 0)
  | .firmware => some s

/-- The agents whose event bit SEV sets: the team's gangs, or the firmware cores (R178). -/
def sevTargets (s : State) : List Nat :=
  match s.cur.prof with
  | .firmware => List.range 18
  | .launch => []
  | _ => (s.teamOf s.cur.team).elim [] (·.gangs)

def systemTable : Instr → Option Effect
  | .nop => some fun _ s => some (s, none)
  | .yield => some fun _ s =>
      let a := s.cur
      goes (some (if a.prof = .full then
        -- its record is a gang record at the level it re-enters at (R348), with a new sequence number
        let s : State := { s with cur := { a.leave with run := .ready } }
        (s.modRecord a.record fun r => { r with
          kind := 0, wake := 0, code := a.pc, lvl := (if a.trapc then a.held else a.joined.getD a.base).setWidth 8 }).enqueue a.record
      else s))
  | .exit => some fun u s => goes (exitOf u s)
  | .wfe => some fun _ s => goes (some (
      if s.cur.prof = .launch then s
      else if s.cur.evt then { s with cur := { s.cur with evt := false } }
      else s.park s.cur.id .event))
  | .halt => some fun _ s => goes (some (s.park s.cur.id .doorbell))
  | .sev => some fun _ s => goes (some ((sevTargets s).foldl State.setEvent s))
  | _ => none

/-- TRAP and BRK take their trap with the word's number as TVAL, in every profile (R177). -/
def trapTable : Instr → Option (U → State → Option (BitVec 8 × Word))
  | .trap n => some fun _ _ => some (0x10, n.setWidth 64)
  | .brk n => some fun _ _ => some (0x11, n.setWidth 64)
  | _ => none

/-! ### Branches (R169 to R171) -/

/-- A branch is taken (R169): when the condition holds in some active lane, in every one, in none, or
always. -/
def branchTaken (u : U) (s : State) (m c : BitVec 2) (k : BitVec 4) : Bool :=
  let holds := fun l => condHolds k.toNat (ccOf s.cur l c.toNat)
  if m = 0 then (lanesIn u.act).any holds
  else if m = 1 then (lanesIn u.act).all holds
  else if m = 2 then !(lanesIn u.act).any holds
  else true

/-- The target of a jump through a register (R171): a scalar, or a vector register whose active lanes agree,
with at least one of them; and a multiple of 4. -/
def target (u : U) : Option Word :=
  match if 96 ≤ u.a then some (lane u.va 0) else
    match lanesIn u.act with
    | [] => none
    | l :: ls => if ls.all fun x => lane u.va x == lane u.va l then some (lane u.va l) else none with
  | none => none
  | some t => if t.toNat % 4 = 0 then some t else none

/-- The address p words away from a unit's own word. -/
def away (u : U) (p : BitVec 17) : Word := u.here + 4 * p.signExtend 64

def branchTable : Instr → Option Effect
  | .bra m c k p => some fun u s => some (s, if branchTaken u s m c k then some (away u p) else none)
  | .call m c k p => some fun u s =>
      if !branchTaken u s m c k then some (s, none)
      else if free [23] s then some (scalarIs 23 u.next s, some (away u p))
      else none
  | .jmpr _ => some fun u s => (target u).map fun t => (s, some t)
  | .callr _ _ => some fun u s => (target u).map fun t => (scalarIs (u.d - 96) u.next s, some t)
  | .ret _ => some fun u s => (target u).map fun t => (s, some t)
  | _ => none

/-- A misaligned target of a scalar (R171). -/
def branchTraps : Instr → Option (U → State → Option (BitVec 8 × Word))
  | .jmpr _ | .callr _ _ | .ret _ => some fun u _ =>
      if 96 ≤ u.a && (lane u.va 0).toNat % 4 != 0 then some (0x0D, lane u.va 0) else none
  | _ => none

/-! ### Masks (R172, R173) -/

/-- The lanes that a mask instruction asks for, exited lanes aside (R172). -/
def newMask : Instr → Option (U → Agent → Mask)
  | .maskc _ n k => some fun _ a => a.em &&& maskOf fun l => condHolds k.toNat (ccOf a l n.toNat)
  | .maskn _ _ => some fun u a => (lane u.va 0).setWidth 32 &&& ~~~a.em
  | .masks _ => some fun u _ => (lane u.va 0).setWidth 32
  | .maskg _ _ => some fun u a => a.em &&& maskOf fun l => lane u.va l != 0
  | .maskx _ n k => some fun _ a => a.em &&& maskOf fun l => !condHolds k.toNat (ccOf a l n.toNat)
  | _ => none

/-- EM becomes the new mask without the exited lanes; the old EM goes to the scalar where one is named. A
bound gang keeps whole groups (R269). -/
def maskTable (i : Instr) : Option Effect := (newMask i).map fun f u s =>
  let em := f u s.cur &&& ~~~s.cur.xm
  if splitLanes s.cur em != 0 then none
  else
    let s' := match i with
      | .masks _ => s
      | _ => scalarIs (u.d - 96) (s.cur.em.setWidth 64) s
    some ({ s' with cur := { s'.cur with em := em } }, none)

def maskTraps (i : Instr) : Option (U → State → Option (BitVec 8 × Word)) := (newMask i).map fun f u s =>
  let bad := splitLanes s.cur (f u s.cur &&& ~~~s.cur.xm)
  if bad != 0 then some (0x50, bad.setWidth 64) else none

/-! ### Special registers (R58, R87, R174) -/

/-- Every earlier floating-point unit has its flags, but for one that a trap saved (R91, R241). -/
def flagsReady (s : State) : Bool := s.cur.looks.all fun l => !(0x29 ≤ l.major && l.major < 0x30) || l.phase == .held || l.phase == .saved

/-- A special register written (R174): EM as MASKS does, WB within its bound, the writable bits of FPC, CAUSE,
TVAL, EPC, TRAPVEC with bits [1:0] zero; every other one unchanged. EM and WB are a gang's. -/
def special (n : Nat) (full : Bool) (v : Word) (s : State) : Option State :=
  let a := s.cur
  match n with
  | 0 => if !full then some s else
      let em := v.setWidth 32 &&& ~~~a.xm
      only (splitLanes a em == 0) { s with cur := { a with em := em } }
  | 2 => if !full then some s else only (v.toNat ≤ a.nslots.toNat - 96) { s with cur := { a with wb := v.setWidth 10 } }
  | 6 => only (flagsReady s) { s with cur := { a with fpc := v.setWidth 32 &&& 0x001F1F07 } }
  | 15 => some { s with cur := { a with cause := v.setWidth 8 } }
  | 16 => some { s with cur := { a with tval := v } }
  | 17 => some { s with cur := { a with epc := v } }
  | 23 => some { s with cur := { a with trapvec := v - (v % 4) } }
  | _ => some s

def specialTable : Instr → Option Effect
  | .mfs _ _ => some fun u s => goes (
      if u.a = 6 && !flagsReady s then none
      else if u.a = 11 then wrote u (lanesOf fun l => if u.full then BitVec.ofNat 64 l else 0) 0 s
      else if u.d < 96 then wrote u (splat (sprValue s s.cur u.a)) 0 s
      else some (scalarIs (u.d - 96) (sprValue s s.cur u.a) s))
  | .mts _ _ => some fun u s => goes (special u.d u.full (lane u.va 0) s)
  | _ => none

/-! ### The window and its lines (R155 to R160) -/

/-- The slots a CTX instruction covers, where its registers are in order (R157). -/
def slotsFrom (u : U) (s : State) : Option (List Nat) :=
  if u.b < u.a then none else some ((List.range (u.b - u.a + 1)).map (s.cur.wb.toNat + u.a + ·))

def windowTable : Instr → Option Effect
  | .wbase _ => some fun u s => goes (moved (s.cur.wb.toNat + u.imm) s)
  | .wbaseS _ _ => some fun u s => goes (moved ((lane u.va 0).toInt + u.imm) s)
  | .region _ _ => some fun u s => goes (
      let b := { s.cur with regionFirst := BitVec.ofNat 10 (s.cur.wb.toNat + u.d), regionCount := BitVec.ofInt 7 u.imm }
      if u.imm < 0 || 96 < u.d + u.imm || 128 < b.pins then none
      else some (({ s with cur := b } : State).fillSlots b.id ((List.range 1024).filter b.inRegion)))
  | .cwb x _ _ => some fun u s => goes (
      if x = 1 then
        let a := (List.range s.cur.nslots.toNat).foldl Agent.cwbSlot s.cur
        -- header lines 0 to 3 go as the gang's registers make them
        some { s with cur := { a with wbacks := a.wbacks ++ ([0, 1, 2, 3] : List Nat).map fun n => (n, (a.headerLine n).data, (a.headerLine n).poison) } }
      else (slotsFrom u s).map fun is => { s with cur := is.foldl Agent.cwbSlot s.cur })
  | .cdrop _ _ => some fun u s => goes ((slotsFrom u s).bind fun is =>
      only (is.all fun i => !regBusy s.cur (.slot i)) { s with cur := is.foldl (fun a i =>
        { a.dropLine (lineOf i) with written := setBit a.written i false, pin := setBit a.pin i false }) s.cur })
  | .cpin _ _ => some fun u s => goes ((slotsFrom u s).bind fun is =>
      let b := { s.cur with pin := is.foldl (fun m i => setBit m i true) s.cur.pin }
      only (b.pins ≤ 128) (({ s with cur := b } : State).fillSlots b.id is))
  | .cunpin _ _ => some fun u s => goes ((slotsFrom u s).map fun is =>
      { s with cur := { s.cur with pin := is.foldl (fun m i => setBit m i false) s.cur.pin } })
  | _ => none
where
  /-- WB at an exact new base between 0 and NSLOTS - 96 (R55, R155). -/
  moved (n : Int) (s : State) : Option State :=
    only (0 ≤ n && n ≤ (s.cur.nslots.toNat : Int) - 96) { s with cur := { s.cur with wb := BitVec.ofInt 10 n } }

/-! ### Barriers (R183, R184) -/

/-- Arrival at a barrier with every lane that has not exited active, once the gang's accesses are released (R127, R183). -/
def arrived (quad : Bool) (w : BitVec 32 → Wait) (swaps : Bool) (s : State) : Option State :=
  if s.cur.em != ~~~s.cur.xm || !quiet s then none
  else match s.teamOf s.cur.team with
    | none => some s
    | some t =>
      -- the gang parks, and its arrival stands in its own team, or in the first of its quad
      let home := s.barHome t quad
      let first := fun (x : Option Nat) => if swaps && x.isNone then some s.clk else x
      let s1 := (s.park s.cur.id (w home.gen)).modTeam home.id fun y =>
        if s.sepBar t quad then { y with qwaitSince := first y.qwaitSince, qarrived := y.qarrived ++ [s.cur.id] }
        else { y with waitSince := first y.waitSince, arrived := y.arrived ++ [s.cur.id] }
      some ((s1.saveHead home.id).barComplete s.cur.team quad)

/-- What barComplete does (R183): while a gang that counts has not arrived, nothing; once all have, the generation
advances, no arrival stands, and each gang that waits in its slot's absence is ready. No arrival is that of a BARTO
whose time has passed (R184). -/
def BarrierEnds : Prop :=
  ∀ (s : State) (t : Nat) (quad : Bool) (x : Team), s.teamOf t = some x → x.arrived.any s.overdue = false →
    s.teamOf (s.barHome x quad).id = some (s.barHome x quad) →
    let counts := ((s.barTeams x quad).map fun y => (s.countedGangs y).length).sum
    let there := s.arrivedAt x quad
    (there = [] ∨ there.length < counts → s.barComplete t quad = s) ∧
    (there ≠ [] → counts ≤ there.length →
      (∃ y, (s.barComplete t quad).teamOf (s.barHome x quad).id = some y ∧ y.gen = (s.barHome x quad).gen + 1 ∧
        (if s.sepBar x quad then y.qarrived else y.arrived) = []) ∧
      ∀ g ∈ there, ∀ a, s.agent g = some a → a.prof = .full → (∃ w since, a.run = .parked w since) →
        ∃ b, (s.barComplete t quad).agent g = some b ∧ b.run = .ready)

def barrierTable : Instr → Option Effect
  | .barT => some fun _ s => goes (arrived false .barrier true s)
  | .barQ => some fun _ s => goes (arrived true .barrier true s)
  | .barto _ _ => some fun u s => goes (
      let th := bits (s.sysreg (dev (0x200 + s.cur.berth.toNat)) 0x0000001400000000) 47 32
      let n := (lane u.va 0).toNat
      let wait := if th = 0 then n else min n (1000 * th)
      -- a gang whose own time has passed no longer counts
      let last := (s.teamOf s.cur.team).all fun t =>
        (t.gangs.filter fun g => (s.agent g).all (·.counted)).length ≤ (t.arrived.filter (!s.overdue ·)).length + 1
      let s' := scalarIs (u.d - 96) 1 s
      if s.cur.em != ~~~s.cur.xm then none
      else if wait = 0 && !last then some s'
      else arrived false (fun gen => .barto gen (s.time + wait) (u.d - 96)) false s')
  | _ => none

/-! ### Queue ports (R187) -/

def portTable : Instr → Option Effect
  | .qbind _ _ => some fun u s => goes (
      let v := (lane u.va 0).toNat
      let tile := s.cur.prof == .tile
      let core := if v.testBit 7 then v / 256 % 4 else 0
      if (if tile then 1024 else 256) ≤ v then none
      else if v.testBit 7 && (!queueFits s s.cur (v % 64) || (tile && (s.member s.cur.team core).isNone)) then none
      else some { s with cur := { s.cur with
        kbind := setBits s.cur.kbind (8 * (u.d - 120)) 8 (v % 256)
        kcore := if tile then BitVec.ofNat 16 (s.cur.kcore.toNat - (s.cur.kcore.toNat >>> (2 * (u.d - 120)) % 4) <<< (2 * (u.d - 120)) + core <<< (2 * (u.d - 120)))
          else s.cur.kcore } })
  | .qstat _ _ => some fun u s => goes (
      let k := s.cur.kbyte (u.a - 120)
      if !k.getLsbD 7 then some (scalarIs (u.d - 96) 0 s)
      else (bound u.a s).map fun (_, m, q) => scalarIs (u.d - 96) (BitVec.ofNat 64 (qCount m q % 16
        + (if qClosed m q then 256 else 0) + 2 ^ 16 + (if k.getLsbD 6 then 2 ^ 17 else 0))) s)
  | .qclose _ => some fun u s => goes (
      if (s.cur.kbyte (u.d - 120)).getLsbD 7 then
        (bound u.d s).map fun (t, _, q) =>
          (s.modTeam t fun t => { t with scratch := t.scratch.setByte (4096 * q + 0x10) 1 }).queueEvent t q
      else none)
  | _ => none
where
  /-- The team, its scratchpad and the queue that a bound port names (R186). -/
  bound (reg : Nat) (s : State) : Option (Nat × Mem × Nat) :=
    (s.portTeam s.cur (s.cur.kcore.extractLsb' (2 * (reg - 120)) 2).toNat).map fun t =>
      (t.id, t.scratch, (s.cur.kbyte (reg - 120)).toNat % 64)

/-! ### Work (R355 to R363) -/

/-- An image SPAWN takes: in order (R46), of kind 0 or 3, of the gang's own stage and with no frame of its own
(R357). -/
def spawnable (s : State) (g : Grid) (code frame w : Word) : Bool :=
  !imageBad g code frame w && (bits w 47 40 == 0 || bits w 47 40 == 3) && frame == 0 && bits w 63 48 == s.cur.stage.toNat

/-- SPAWN (R357): the lowest free entry of the spawn area takes a join point, or a gang of the team with a
free context, ready or waiting for its joins. The scalar gets its reference. -/
def spawned (u : U) (s : State) : Option State := do
  let n := u.a - 96
  let x := fun i => s.cur.scalar (n + i)
  let g ← s.gridOf s.cur.grid
  let t ← s.teamOf s.cur.team
  let idx ← s.freeEntry g
  let lvl : BitVec 8 := (x 2).extractLsb' 32 8
  let join : BitVec 32 := (x 2).extractLsb' 0 32
  let gen := g.genOf idx
  if !free [n, n + 1, n + 2, n + 3] s || (List.range 4).any (fun i => s.cur.spois.getLsbD (n + i))
      || !spawnable s g (x 0) (x 1) (x 2) || !quiet s then none
  else if bits (x 2) 47 40 = 3 then
    some (scalarIs (u.d - 96) (refOf gen idx) (s.makeEntry s.cur idx 3 lvl join (x 0) (x 3) 0 gen))
  else if g.freeCtx = [] || 32 ≤ t.count.toNat then none
  else
    let s' := s.newGang g t s.cur.core t.count.toNat (g.freeCtx.headD 0) (x 0) (x 3) lvl fun r =>
      { r with join := join, index := idx, gen := gen, joins := join, wake := x 3 }
    -- the new gang's record stands in the grid's array and in its team's frame (R34, R41)
    let s' := (s'.storeRecord s.nextRecord).saveHead t.id
    -- no barrier counts it before it has been activated (R357)
    let s' := s'.modAgent s.nextAgent fun a => { a with counted := false }
    let s' := if join = 0 then s'.enqueue s.nextRecord else s'.modAgent s.nextAgent fun a => { a with run := .parked .joins s.clk }
    some (scalarIs (u.d - 96) (refOf gen idx) s')

/-- The record that JOIN's reference names: a join point, or a gang parked on joins (R356, R358). -/
def joinTarget (ref : Word) (s : State) : Option Record :=
  match s.resolve s.cur.grid ref with
  | .stale => none
  | .entry r => if r.kind = 3 || (r.kind = 0 && ((s.agent r.agent).map Agent.onJoins).getD false) then some r else none
  | .gang a => if a.onJoins then s.recordOf a.record else none

/-- JOIN (R358): the counter goes down by one. At zero the scalar is 1; a gang gets ready, and a join point
is entered at its code with its wake word, reference, counts and the return address in S20 to S23. -/
def joined (u : U) (s : State) : Option (State × Option Word) := do
  let ref := lane u.va 0
  let r ← joinTarget ref s
  if r.join = 0 || !quiet s || (r.kind = 3 && r.join = 1 && !free [20, 21, 22, 23] s) then none
  else
    let s1 := (s.modRecord r.id fun r => { r with join := r.join - 1 }).storeRecord r.id
    if r.join ≠ 1 then some (scalarIs (u.d - 96) 0 s1, none)
    else
      let s2 := scalarIs (u.d - 96) 1 s1
      if r.kind ≠ 3 then some (s2.ready r.agent, none)
      else
        let s3 := scalarIs 23 u.next (scalarIs 22 (BitVec.ofNat 64 (r.joins.toNat + r.tile.toNat * 2 ^ 32))
          (scalarIs 21 ref (scalarIs 20 r.wake s2)))
        let s4 := s3.modRecord r.id fun r => { r with live := false }
        let s5 := s4.modGrid r.grid fun g => { g with spawnGens := put r.index (r.gen + 1) g.spawnGens }
        -- the level it had is the one it leaves at (R348)
        let s6 : State := { s5 with cur := { s5.cur with pri := 16, joined := some (s5.cur.joined.getD s5.cur.pri) } }
        some (s6.acquire s6.cur.id, some r.code)

/-- PARK.addr (R359): the word read now differs from the scalar's, or is poisoned, and the gang goes on; else
it parks, with a watch where its slice has one of 64 free. -/
def watched (u : U) (s0 : State) : Option State := do
  let va := lane u.va 0
  let (_, s) ← ran memOrder s0
  let (t, s) ← ran (watchedWord va) s
  if (s.pend.any fun p => p.agent == s.cur.id && p.meets t.pa 4) || s.refuses t.pa then none
  else
    let ((v, marked, bad), s1) := s.homeGet (s.cur.req (s.treeOf s.cur).1 ⟨t.pa, t.key, t.t, true, true, false⟩) t.pa
    if marked || bad || v.toNat / 2 ^ (8 * (t.pa % 8)) % 2 ^ 32 != (lane u.vb 0).toNat % 2 ^ 32 then some s1
    else
      let room := (s1.watches.filter fun w => sliceOf (4 * w.pa) == sliceOf t.pa).length < 64
      let s2 := ((s1.park s.cur.id (.addr t.pa room)).modRecord s.cur.record fun r => { r with wake := va }).storeRecord s.cur.record
      some (if room then { s2 with watches := s2.watches ++ [⟨t.pa / 4, s.cur.id⟩] } else s2)

/-- TAKEW (R362, R363): the next run of iterations of a persistent grid's team, as its tile, first and last
iteration, the slot of its partial and the reference of the tile's fix-up where several teams share
the tile; all ones with zeros when no iteration is left. -/
def taken (u : U) (s : State) : Option State := do
  let n := u.d - 96
  let g ← s.gridOf s.cur.grid
  let t ← s.teamOf s.cur.team
  let c := g.chunk
  let total := g.tiles * g.kper
  let first := min (t.t.toNat * c) total
  let last := min (first + c) total
  let at_ := t.cursor.getD first
  let set4 := fun (w0 w1 w2 w3 : Word) s => scalarIs (n + 3) w3 (scalarIs (n + 2) w2 (scalarIs (n + 1) w1 (scalarIs n w0 s)))
  if !free [n, n + 1, n + 2, n + 3] s || !g.persist then none
  else if last ≤ at_ then some (set4 (BitVec.allOnes 64) 0 0 0 s)
  else
    let tile := at_ / g.kper
    let lo := at_ % g.kper
    let hi := min g.kper (last - tile * g.kper)
    let team0 := tile * g.kper / c
    let team1 := (tile * g.kper + g.kper - 1) / c
    let part := fun (i : Nat) => BitVec.ofNat 64 (g.fbase.toNat + (tile * g.cmax + i) * g.fsize)
    let adv := fun (s : State) => s.modTeam t.id fun t => { t with cursor := some (tile * g.kper + hi) }
    let answer := set4 (BitVec.ofNat 64 tile) (BitVec.ofNat 64 (lo + hi * 2 ^ 32))
    if team0 = team1 then some (answer 0 0 (adv s))
    else match s.records.find? (fun r => r.grid == g.id && r.kind == 3 && r.live && r.lvl == 16 && r.tile.toNat == tile && r.wake == part 0) with
      | some r => some (answer (part (t.t.toNat - team0)) (refOf r.gen r.index) (adv s))
      | none =>
        let idx := s.freeFixup g
        some (answer (part (t.t.toNat - team0)) (refOf (g.genOf idx) idx) (adv
          (s.makeEntry s.cur idx 3 16 (BitVec.ofNat 32 (team1 - team0 + 1)) g.fixent (part 0) (BitVec.ofNat 32 tile) (g.genOf idx))))

def workTable : Instr → Option Effect
  | .spawn _ _ => some fun u s => goes (spawned u s)
  | .join _ _ => some joined
  | .parkJoin _ => some fun u s => goes (
      let n := (lane u.va 0).toNat
      if 2 ^ 31 ≤ n then none
      else if n = 0 then some s
      else some ((((s.park s.cur.id .joins).modRecord s.cur.record fun r => { r with join := BitVec.ofNat 32 n }).storeRecord s.cur.record).readyAll
        fun _ w => w == .joinOf s.cur.id))
  | .parkAddr _ _ => some fun u s => goes (watched u s)
  | .wake _ => some fun u s => goes (
      (ran (watchedWord (lane u.va 0)) s).bind fun (t, s) => only (quiet s) (s.endWatches (t.pa / 4)))
  | .staged => some fun _ s => goes (only (quiet s) (s.signal s.cur.team))
  | .takew _ => some fun u s => goes (taken u s)
  | _ => none

end Sys2Proof.Claims
end

