-- ==== Sys2Proof/Claims/Engines.lean ====
section
/-!
DEFINITION. What the statements say of the engines' instructions: copies, batches and handles (R301 to
R315), the matrix engine and its tiles (R324 to R342), and the lath (R287 to R294); and of what firmware
cores and launch engines do with them (R375).
-/

namespace Sys2Proof.Claims

open Sys2Proof.Machine

/-- An address of a scratchpad aperture. -/
def inPad (s : State) (va : Word) : Bool := match placeOf s s.cur va with | .pad _ _ _ => true | _ => false

/-! ### Copies (R301 to R305) -/

/-- A CPY's command and extent words hold together: no reserved field, a size and strides within bounds, no
cluster of a multicast beyond the fourth core, a third scalar for the handle, and no poison (R302 to R305). -/
def copyOrdered (u : U) (s : State) (w ext : Word) : Bool :=
  let c := CpyCmd.of w
  !cmdBad w ext && !sizeBad c ext && c.mcast < 16 && !(c.track && 117 < u.d)
    && !s.cur.spois.getLsbD (u.d - 96) && !s.cur.spois.getLsbD (u.d - 95) && u.pa == 0 && u.pb == 0

/-- CPY (R301, R305): the operation joins its cluster's queue with locks on both ranges, on every scratchpad of
a multicast, and an entry whose handle goes to the third scalar where TRACK is set. -/
def copied (u : U) (s : State) : Option State := do
  let w := s.cur.scalar (u.d - 96)
  let ext := s.cur.scalar (u.d - 95)
  let c := CpyCmd.of w
  let lens := spanLens c ext
  let src : Span := ⟨lane u.va 0, lens.1, false, if c.mode = 2 then c.srcEl else if c.mode = 3 then c.wide else 1⟩
  let dst : Span := ⟨lane u.vb 0, lens.2, true, if c.mode = 2 then c.dstEl else if c.mode = 3 then 256 else 1⟩
  if !free [u.d - 96, u.d - 95] s || !copyOrdered u s w ext || (c.mcast ≠ 0 && !inPad s dst.va) then none
  else
    let (pages, s1) ← ran (checkSpans [src, dst] (fun _ => true) fun _ _ => none) s
    let cl := clusterOf s1.cur.core.toNat
    let k := s1.cluster cl
    let own := spanLock s1 s1.cur s1.nextOp dst
    let locks := spanLock s1 s1.cur s1.nextOp src :: (if c.mcast = 0 then [own] else
      ((List.range 4).filter c.mcast.testBit).map fun i => { own with space := .scratch (BitVec.ofNat 8 (4 * cl + i)) })
    if spansMeet s1 s1.cur src dst || lockEntries < k.locks.length + locks.length then none
    else
      let here := inPad s1 dst.va && c.mcast == 0
      let op : CopyOp := {
        id := s1.nextOp, agent := s1.cur.id, team := s1.cur.team, mode := c.mode, cmd := w, ext := ext, src := src.va
        dst := dst.va, core := s1.cur.core, berth := (s1.treeOf s1.cur).1, ctx := (s1.treeOf s1.cur).2, started := false
        entry := if c.track then k.freeEntry else none, skip := 0, err := false, link := false
        teams := if inPad s1 src.va || here then [s1.cur.team] else [], dests := if here then [s1.cur.team] else []
        pages := pages, pos := 0, ord := s1.nextOrd }
      let queued : State := { s1.modCluster cl fun k => { k with locks := k.locks ++ locks, copies := k.copies ++ [op] } with
        nextOp := s1.nextOp + 1, nextOrd := s1.nextOrd + 1 }
      if !c.track then
        some { queued with cur := { queued.cur with trk := { queued.cur.trk with openSet := queued.cur.trk.openSet ++ [op.id] } } }
      else
        let i ← k.freeEntry
        let (k', e) := (queued.cluster cl).take i op.id .copy own.lo own.hi s1.cur.grid 0 none
        if free [u.d - 94] s1 then some (scalarIs (u.d - 94) (handleOf queued s1.cur cl e) (queued.setCluster cl k')) else none

/-- ASTORE (R315): bytes of this device go to a peer under the source's lock. -/
def asyncStored (u : U) (s : State) : Option State := do
  let n := (lane u.vb 0).toNat
  let src : Span := ⟨lane u.va 0, n, false, 1⟩
  let dst : Span := ⟨lane u.vd 0, n, true, 1⟩
  let intoPad := (spanPlace s s.cur true src).isSome && match spanPlace s s.cur true dst with
    | some (.pad _ _ _) => true
    | _ => false
  if n = 0 || 2 ^ 26 < n || u.pd != 0 || u.pa != 0 || u.pb != 0 || intoPad then none
  else
    let (pages, s1) ← ran (checkSpans [src, dst] (fun r => !r.write) fun _ _ => none) s
    let cl := clusterOf s1.cur.core.toNat
    if pages.any (fun p => (pagesIn dst.va.toNat (dst.va.toNat + n)).contains p.1 && !isPeer p.2.1) || spansMeet s1 s1.cur src dst
        || lockEntries < (s1.cluster cl).locks.length + 1 then none
    else
      let op : CopyOp := {
        id := s1.nextOp, agent := s1.cur.id, team := s1.cur.team, mode := 4, cmd := lane u.vb 0, ext := 0, src := src.va
        dst := dst.va, core := s1.cur.core, berth := (s1.treeOf s1.cur).1, ctx := (s1.treeOf s1.cur).2, started := false
        entry := none, skip := 0, err := false, link := false, teams := if inPad s1 src.va then [s1.cur.team] else []
        dests := [], pages := pages, pos := 0, ord := s1.nextOrd }
      let queued : State := { s1.modCluster cl fun k => { k with locks := k.locks ++ [spanLock s1 s1.cur s1.nextOp src], copies := k.copies ++ [op] } with
        nextOp := s1.nextOp + 1, nextOrd := s1.nextOrd + 1 }
      some { queued with cur := { queued.cur with trk := { queued.cur.trk with openSet := queued.cur.trk.openSet ++ [op.id] } } }

/-- The state of an entry as HQRY reads it: 4 for a stale handle; else 0 to 3 with an error bit and a
skip field (R314). -/
def entryWord (s : State) (h : Word) : Word :=
  match handleEntry s s.cur h with
  | none => 4
  | some (_, e) => BitVec.ofNat 64 ((match e.st with | .free => 0 | .filling => 1 | .full => 2 | .draining => 3)
      + (if e.err then 8 else 0) + 16 * e.skip.toNat)

/-- With no active lane none of these does anything (R140). -/
def copyOpTable : Instr → Option Effect
  | .cpy _ _ _ => some fun u s => goes (if u.act = 0 then some s else copied u s)
  | .astore _ _ _ => some fun u s => goes (if u.act = 0 then some s else asyncStored u s)
  | .cbatch _ => some fun u s => goes (if u.act = 0 then some s else
      let a := s.cur
      let n := a.batch + 1
      let batches := if a.trk.openSet = [] then a.trk.batches else a.trk.batches ++ [(n, a.trk.openSet)]
      some (scalarIs (u.d - 96) (n.setWidth 64) { s with cur := { a with batch := n, trk := { a.trk with openSet := [], batches := batches } } }))
  | .cwait _ => some fun u s => goes (if u.act = 0 then some s else
      let n := (lane u.va 0).setWidth 32
      only (reached s.cur.batch n && reached s.cur.done n) (s.acquire s.cur.id))
  | .cstat _ => some fun u s => goes (if u.act = 0 then some s else
      let t := s.cur.trk
      let v := s.cur.done.toNat + (if t.skip then 2 ^ 32 else 0) + (if t.err then 2 ^ 33 else 0) + (if t.link then 2 ^ 34 else 0)
        + t.skipMask.toNat * 2 ^ 36
      let s' := scalarIs (u.d - 96) (BitVec.ofNat 64 v) s
      some { s' with cur := { s'.cur with trk := { t with skipMask := 0, link := false, err := false, skip := false } } })
  | .hwait _ => some fun u s => goes (if u.act = 0 then some s else
      (handleEntry s s.cur (lane u.va 0)).bind fun (_, e) => only (e.st != .filling) (s.acquire s.cur.id))
  | .hrel _ => some fun u s => goes (if u.act = 0 then some s else
      (handleEntry s s.cur (lane u.va 0)).bind fun (c, e) => only (e.st == .full) (s.freeEntryOf c e.idx))
  | .hqry _ _ => some fun u s => goes (if u.act = 0 then some s else some (scalarIs (u.d - 96) (entryWord s (lane u.va 0)) s))
  | _ => none

/-! ### The matrix engine (R324 to R342) -/

/-- The engine of the sequencer's cluster, and room for one more of four operations. -/
def engine (s : State) : Matrix := (s.cluster (s.cur.id - 64)).mx
def engineRoom (s : State) : Bool := (engine s).ops.length < 4

/-- MMA (R329, R330): both operands named as tiles of the shape and of the formats of MXCONF; the operation
joins the queue with its entries, tiles not yet held being fetched. -/
def multiplied (acc z ra rb ro co : BitVec 1) (u : U) (s : State) : Option State := do
  let (a, s1) ← ran (mxOperand (lane u.va 0)) s
  let (b, s2) ← ran (mxOperand (lane u.vb 0)) s1
  let m := if u.f / 4 = 0 || u.f / 4 = 1 then 256 else 128
  let n := if u.f / 4 = 0 || u.f / 4 = 2 then 256 else 128
  let k := 256 * 2 ^ (u.f % 4)
  let fs := confFormats (engine s2).conf
  let fetched := [a, b].filterMap fun x => match x with | .fetch t => some t | _ => none
  if a.tile.lines ≠ m || b.tile.lines ≠ n || a.tile.k ≠ k || b.tile.k ≠ k || (ro = 1 && m = 256) || (co = 1 && n = 256)
      || a.tile.fmt.toNat ≠ fs.1 || b.tile.fmt.toNat ≠ fs.2 || !quiet s2 || !engineRoom s2
      || !(s2.cluster (s2.cur.id - 64)).tilesFit fetched then none
  else
    let (s3, oa) := s2.takeOperand a (ra == 1)
    let (s4, ob) := s3.takeOperand b (rb == 1)
    some (s4.acceptMx acc (.mma (z == 1) (ro == 1) (co == 1) (BitVec.ofNat 4 u.f) oa ob))

/-- MXDRAIN (R339, R340): into a queue port bound for pushing to a member that has not retired (R187), or to memory as an entry with a lock and a
handle in the next scalar. -/
def drained (u : U) (s : State) : Option State :=
  let w := lane u.va 0
  let c := DrainCtl.of w
  if drainBad w then none
  else if 120 ≤ u.d then
    let k := s.cur.kbyte (u.d - 120)
    only ((portOf s s.cur (u.d - 120) true).isOk && quiet s && engineRoom s)
      (s.acceptMx c.acc (.drain w (some (k, s.cur.kcore.extractLsb' (2 * (u.d - 120)) 2)) 0 none []))
  else do
    let va := lane u.vd 0
    let r : Span := ⟨va, c.bytes, true, 256⟩
    let (pages, s1) ← ran (checkSpans [r] (fun _ => false) fun _ p => if isHbm p.pa || isHost p.pa then none else some 0x76) s
    let cl := s1.cur.id - 64
    let k := s1.cluster cl
    let i ← k.freeEntry
    if !free [u.d - 95] s || !quiet s1 || !engineRoom s1 || lockEntries < k.locks.length + 1 then none
    else
      let (k', e) := k.take i s1.nextOp .drain va.toNat (va.toNat + c.bytes - 1) s1.cur.grid s1.cur.team none
      let s2 := s1.setCluster cl { k' with locks := k'.locks ++ [spanLock s1 s1.cur s1.nextOp r] }
      some (scalarIs (u.d - 95) (handleOf s1 s1.cur cl e) (s2.acceptMx c.acc (.drain w none va (some (64 * cl + i)) pages)))

def matrixTable : Instr → Option Effect
  | .mma co ro rb ra z acc _ _ _ _ => some fun u s => goes (multiplied acc z ra rb ro co u s)
  | .mxcfg _ => some fun u s => goes (
      only ((lane u.va 0).toNat < 4 && engineRoom s && !(engine s).ops.any (fun o => match o.kind with | .mma _ _ _ _ _ _ => true | _ => false))
        (s.modCluster (s.cur.id - 64) fun k => { k with mx := { k.mx with conf := (lane u.va 0).setWidth 2 } }))
  | .mxzero q => some fun _ s => goes (only (engineRoom s) (s.acceptMx q .zero))
  | .mxdrain _ _ => some fun u s => goes (drained u s)
  | .mxwait _ _ => some fun u s => goes (
      let x := engine s
      let busy := fun (n : Nat) => x.ops.any (·.acc.toNat == n)
      if x.ops.any fun o => u.b.testBit o.acc.toNat then none
      else
        let v := (if busy 0 then 1 else 0) + (if busy 1 then 2 else 0) + (if x.pdr then 2 ^ 16 else 0)
          + (if x.spr then 2 ^ 17 else 0) + (if x.qcl then 2 ^ 18 else 0) + x.rpl.toNat * 2 ^ 32
        some ((scalarIs (u.d - 96) (BitVec.ofNat 64 v) s).modCluster (s.cur.id - 64) fun k =>
          { k with mx := { k.mx with rpl := 0, qcl := false, spr := false, pdr := false } }))
  | .mxfence => some fun _ s => goes (only ((engine s).ops.isEmpty && !s.fetchBusy s.cur.team) (s.acquire s.cur.id))
  | .tfetch _ _ => some fun u s => goes (do
      let (t, s1) ← ran (readTile (lane u.va 0)) s
      if !quiet s1 || !(s1.cluster (s1.cur.id - 64)).tilesFit [t] then none
      else
        let r := s1.acceptTile t
        some (scalarIs (u.d - 96) (handleOf r.1 r.1.cur (r.1.cur.id - 64) r.2.2) r.1))
  | .tunpin _ => some fun u s => goes ((handleEntry s s.cur (lane u.va 0)).bind fun (c, e) =>
      only (e.kind == .tile) (if e.st == .draining then s.modCluster c (·.setEntry { e with dying := true })
        else s.freeEntryOf c e.idx))
  | _ => none

/-! ### The lath (R287 to R294) -/

/-- A control word that a unit may arrive with (R291): bits [62:24] zero, bit 63 only in a reduction, a count
that is not 0, and a domain channel where the domain is named. -/
def control (s : State) (ch : Nat) (w : Word) (red dx : Bool) : Bool :=
  w.toNat % 2 ^ 63 < 2 ^ 24 && w.toNat % 2 ^ 24 ≠ 0 && (red || !w.getLsbD 63) && (!dx || (s.channel ch).dx)

/-- The gang's arrival was counted while it waited for the instance to open (R289). -/
def counted (s : State) (ch : Nat) : Bool := (s.channel ch).counted.any (·.1 == s.cur.id)

/-- An arrival at a channel (R287, R288): the first gives the form, later ones join one of the same form that
is not full, of which the first of this device gives the result address; the values are combined. An arrival that
was counted while it waited is not made again (R289), and one at an aborted barrier traps (R298). -/
def arrivedAt (ch : Nat) (f : LathForm) (vals : List Word) (units : List (Nat × BitVec 9 × BitVec 12)) (team : Option Nat)
    (s : State) : Option State :=
  let old : LathInst := (s.channel ch).inst.getD ⟨f, 0, [], [], false, 0, [], [], []⟩
  let open_ := (s.channel ch).inst.all fun x =>
    x.arrived < x.form.p.toNat && (x.form == f || (x.form.addr.isNone && x.form == { f with addr := none }))
  if counted s ch then some (s.modChannel ch fun c => { c with counted := c.counted.filter (·.1 != s.cur.id) })
  else if (s.channel ch).broken.any (·.hits f s.cur.id) || !open_ || !quiet s then none
  else
    let new : LathInst := { old with
      form := f, arrived := old.arrived + 1, agents := old.agents ++ [s.cur.id], units := units
      vals := if old.vals = [] then vals else combine f.op.toNat old.vals vals
      teams := old.teams ++ (team.toList.filter fun t => !old.teams.contains t) }
    some (s.modChannel ch fun c => { c with inst := some new })

/-- BARB and BARX (R294): the gang arrives and parks until the instance is done; one whose instance is done already
goes on with an acquire. -/
def barred (dx : Bool) (u : U) (s : State) : Option State :=
  let ch := chanOf s (u.d % 4)
  let w := lane u.vb 0
  if w.toNat < 2 ^ 24 && control s ch w false dx then
    (arrivedAt ch ⟨false, 0, 0, dx, w.setWidth 24, false, none⟩ [] [] none s).map fun t =>
      if (s.channel ch).counted.any (fun y => y.1 == s.cur.id && y.2 != (s.channel ch).gen) then t.acquire t.cur.id
      else t.park t.cur.id (.lathDone ch)
  else none

/-- ARED (R290 to R292): k values from consecutive scalars, and the address of the result in the scalar after
the control word where W is set. -/
def reduced (op k : Nat) (x : BitVec 1) (u : U) (s : State) : Option State := do
  let ch := chanOf s (u.d % 4)
  let w := lane u.vb 0
  let wr := w.getLsbD 63
  let vals := List.range k |>.map fun i => s.cur.scalar (u.a - 96 + i)
  if !((List.range k).tail.all fun i => free [u.a - 96 + i] s) || (List.range k).any (fun i => s.cur.spois.getLsbD (u.a - 96 + i))
      || (wr && (u.b = 119 || !free [u.b - 95] s || s.cur.spois.getLsbD (u.b - 95))) || !control s ch w true (x == 1) then none
  else if wr then
    -- the range of an arrival that was counted is locked already
    let (p, s1) ← if counted s ch then some (([], none, none), s) else ran (resultRange ch (s.cur.scalar (u.b - 95)) k) s
    arrivedAt ch ⟨true, BitVec.ofNat 4 op, k, x == 1, w.setWidth 24, true, some (s.cur.scalar (u.b - 95))⟩ vals p.1 p.2.1 s1
  else arrivedAt ch ⟨true, BitVec.ofNat 4 op, k, x == 1, w.setWidth 24, false, none⟩ vals [] none s

/-- ARWAIT (R293): the values of a complete reduction go to consecutive scalars, with an acquire; the last
taker opens the channel again. -/
def awaited (u : U) (s : State) : Option State := do
  let ch := chanOf s u.a
  let x ← (s.channel ch).inst
  let ds := (List.range x.form.k).map (u.d - 96 + ·)
  if (s.channel ch).aborted.any (·.1 == s.cur.id) || !x.form.red || !x.complete
      || 24 < u.d - 96 + x.form.k || !free ds s then none
  else
    let s1 := (List.range x.form.k).foldl (fun s i => scalarIs (u.d - 96 + i) (x.vals.getD i 0) s) s
    let x' : LathInst := { x with taken := x.taken + 1, agents := x.agents.erase s.cur.id }
    let s2 := if x.form.p.toNat ≤ x.taken + 1 then s1.openChannel ch else s1.modChannel ch fun c => { c with inst := some x' }
    some (s2.acquire s.cur.id)

def lathTable : Instr → Option Effect
  | .barb _ _ => some fun u s => goes (barred false u s)
  | .barx _ _ => some fun u s => goes (barred true u s)
  | .aredI64 x k _ _ _ => some fun u s => goes (reduced 1 (k.toNat + 1) x u s)
  | .aredMin x k _ _ _ => some fun u s => goes (reduced 2 (k.toNat + 1) x u s)
  | .aredMax x k _ _ _ => some fun u s => goes (reduced 3 (k.toNat + 1) x u s)
  | .aredXa x _ _ _ => some fun u s => goes (reduced 4 2 x u s)
  | .arwait _ _ => some fun u s => goes (awaited u s)
  | _ => none

/-! ### Prologues (R375) -/

/-- A packet that has not ended ends with a state and a code. -/
def packetEnds (s : State) (p : Nat) (state code : BitVec 8) : State := s.modPacket p fun x => if 4 ≤ x.phase then x else
  { x with phase := 4, state := state, code := code, sub := 0, detail1 := 0, detail2 := 0 }

/-- A commit of DIMS: the engine is free. DIMS that a launch refuses end the packet FAILED with 0xA2 (R369), and an area
that its queue's pool can never hold ends it with 0xA4 (R371); else the packet waits for room with them, to be
repeated where PREPEAT asked for that and REPMAX allows it (R376). -/
def committed (dims : Word) (again : Bool) (s : State) : State :=
  let s1 : State := { s with cur := { s.cur with run := .off } }
  match s.packetOf s.cur.packet with
  | none => s1
  | some p =>
    if bits dims 63 48 ≠ 0 || dimsBad dims then packetEnds s1 p.id 3 0xA2
    else
      let rerunDone := again && p.repMax ≤ s.cur.rerun.toNat
      let s2 := s1.modPacket p.id fun x => { x with dims := dims, repeats := again && !rerunDone, lim := x.lim || rerunDone, phase := 2 }
      if (s.queueOf p.owner p.nidx).any fun q => q.poolSize.toNat < p.areaSize dims then packetEnds s2 p.id 2 0xA4 else s2

/-- PCANCEL: the engine is free, and the packet ends CANCELLED with the code at its first run, DONE at a re-run. -/
def cancelled (code : BitVec 8) (s : State) : State :=
  let s1 : State := { s with cur := { s.cur with run := .off } }
  if s.cur.rerun = 0 then packetEnds s1 s.cur.packet 3 code else packetEnds s1 s.cur.packet 1 0

def prologueTable : Instr → Option Effect
  | .pcommit _ => some fun u s => goes (only (quiet s) (committed (lane u.va 0) false s))
  | .pcancel _ => some fun u s => goes (only (quiet s) (cancelled ((lane u.va 0).setWidth 8) s))
  | .prepeat _ => some fun u s => goes (only (quiet s) (committed (lane u.va 0) true s))
  | _ => none

end Sys2Proof.Claims
end

