-- ==== Sys2Proof/Claims/Firmware.lean ====
section
/-!
DEFINITION. What the statements say of the seal engine and of system registers on firmware cores
(R190, R414 to R434): each completes when its operands name what the core may name, between a release and
an acquire (R419).
-/

namespace Sys2Proof.Claims

open Sys2Proof.Machine

/-- A SEAL unit: the effect once the core's stores are done, and then an acquire (R419). -/
def betweenFences (f : U → State → Option State) (u : U) (s : State) : Option State :=
  if quiet s then (f u s).bind fun s2 => only (quiet s2) (s2.acquire s2.cur.id) else none

/-- KEYSET (R414): a key slot of the core's berth and a segment that it may name; the slot is emptied for a
secret of 0, or loaded with the keys of the 32 bytes of SRAM, which are overwritten with zeros. -/
def keySet (u : U) (s : State) : Option State :=
  let x := lane u.va 0
  let y := lane u.vb 0
  let k : BitVec 9 := x.setWidth 9
  if bits x 15 9 ≠ 0 || bits x 63 20 ≠ 0 || !s.fwMay s.cur (fun c => (s.keySlots c).contains k.toNat)
      || !s.fwSeg s.cur (bits x 19 16) then none
  else if y = 0 then some ((s.dropKey k).setKey k none (x.extractLsb' 16 4))
  else (sramOff y 32).map fun off =>
    ((s.dropKey k).setKey k (some (keysFrom (s.sramBytes s.cur.id off 32))) (x.extractLsb' 16 4)).sramPut s.cur.id off
      (List.replicate 32 0)

/-- The operands of a TVBUMP that neither traps nor goes on with a rewrap (R417, R419): a segment that the core may
name, a REWRAP of 0 or 1, and a valid and shut tensor with a version left. -/
def bumpable (u : U) (s : State) : Bool :=
  let x := lane u.va 0
  let t := s.tensor (x.extractLsb' 16 4) (x.setWidth 12)
  !(s.rewraps.any (·.1 == s.cur.id)) && bits x 15 12 = 0 && bits x 63 20 = 0 && s.fwSeg s.cur (bits x 19 16)
    && (lane u.vb 0).toNat < 2 && t.v && t.shut && t.ver != 0xFFFFFFFF

/-- TVBUMP (R417, R418): the version of a shut tensor goes up by one and is answered, its lines dropped from every cache,
and what their channels hold left under the version before; or, for a rewrap that has taken every line, its version is
answered. -/
def versionBumped (u : U) (s : State) : Option State :=
  let x := lane u.va 0
  let t := s.tensor (x.extractLsb' 16 4) (x.setWidth 12)
  match s.rewraps.find? (·.1 == s.cur.id) with
  | some r =>
    if r.2.2.2 ≠ [] then none
    else some (scalarIs (u.d - 96) (t.ver.setWidth 64) { s with rewraps := s.rewraps.filter (·.1 != s.cur.id) })
  | none =>
    if !bumpable u s || lane u.vb 0 ≠ 0 then none
    else
      -- a line that its channel never took is of the version before from now on (log 57)
      let drop := fun (s : State) (n : Nat) =>
        let s1 := s.discardLine n
        let s2 : State := { s1 with cores := s1.cores.map fun c => (c.1, { c.2 with l1 := c.2.l1.filter (·.line != n) }) }
        if (find? n s2.seals).isSome then s2
        else { s2 with seals := put n (.under (s2.slotKeys t.kslot) t.index t.seg t.ver) s2.seals }
      some (scalarIs (u.d - 96) ((t.ver + 1).setWidth 64) (((s.rangeLines t).foldl drop s).setTensor { t with ver := t.ver + 1 }))

/-- CSEAL (R420 to R423): the source's bytes, with a bit for each 8 bytes where some are marked, encrypted
under the image key and the next value of the seal counter, which is answered; head, ciphertext and tag
go to the destination. -/
def imageSealed (u : U) (s : State) : Option State := do
  let (e, s1) ← ran (readDesc (lane u.va 0)) s
  if !s1.sideOk s1.cur e.src e.srct e.len then none
  else
    let ((pt, ms), s2) := s1.readSide e.src e.srct 0 e.len
    let marks := ms.any id
    let c := findD e.ctr (0 : Word) s1.counters
    if !s1.sideOk s1.cur e.dst e.dstt (e.len + (if marks then e.len / 64 else 0) + 80) || 2 ^ 64 - 2 ≤ c.toNat then none
    else
      let head := imageHead e marks (c + 1)
      let r := gcmSeal (s1.imageKey e) ((head.drop 32).take 12) head (if marks then pt ++ bitBytes ms else pt)
      let s3 : State := { s2 with counters := put e.ctr (c + 1) s2.counters }
      some (scalarIs (u.d - 96) (c + 1) (s3.writeSide e.dst e.dstt (head ++ r.1 ++ r.2) fun _ => false))

/-- CUNSEAL (R424): the code it answers and the state it leaves. A head that is poisoned, or a body that is
poisoned, meets a persistent error (a free value: log 2) or fails its tag, answers 0xBD with zeros at the destination; a head that is no head of this image
0xBD; a counter other than the slot's 0xBC; else 0, with the bytes, their marks, and the counter advanced. -/
def imageOpened (u : U) (s : State) : Option State := do
  let x := lane u.va 0
  let (e, s1) ← ran (readDesc x) s
  if !s1.sideOk s1.cur e.src e.srct (e.len + 80) || !s1.sideOk s1.cur e.dst e.dstt e.len then none
  else
    let ((head, hm), s2) := s1.readSide e.src e.srct 0 64
    let word := fun (j : Nat) => ofBytes ((head.drop (8 * j)).take 8)
    let marks := (word 0).testBit 40
    let total := e.len + (if marks then e.len / 64 else 0)
    let c := findD e.ctr (0 : Word) s1.counters
    let answer := fun (v : Word) (s : State) => some (scalarIs (u.d - 96) v s)
    let failed := fun (code : BitVec 8) (s : State) => answer (code.setWidth 64) (s.note code s1.cur.id x)
    let zeroed := fun (s : State) => s.writeSide e.dst e.dstt (List.replicate e.len 0) fun _ => false
    if hm.any id then failed 0xBD (zeroed s2)
    else if word 0 % 2 ^ 40 ≠ 0x4C414553 + 2 ^ 32 || word 0 / 2 ^ 41 ≠ 0 || word 1 ≠ e.bind.toNat || word 3 ≠ e.len then failed 0xBD s2
    else if word 2 ≠ c.toNat then failed 0xBC s2
    else if marks && !s1.sideOk s1.cur e.src e.srct (total + 80) then none
    else
      let ((body, bm), s3) := s2.readSide e.src e.srct 64 (total + 16)
      let r := gcmOpen (s1.imageKey e) ((head.drop 32).take 12) head (body.take total) (body.drop total)
      let lost := Config.freeBit (s3.takeFree).1
      let s4 := if lost then (s3.takeFree).2.note 0x29 s1.cur.id (BitVec.ofNat 64 (bits e.src 47 0)) else (s3.takeFree).2
      if bm.any id || !r.2 || lost then failed 0xBD (zeroed s4)
      else
        let s5 := s4.writeSide e.dst e.dstt (r.1.take e.len) fun b => marks && ((r.1.drop e.len).getD (b / 8) 0).getLsbD (b % 8)
        answer 0 { s5 with counters := put e.ctr (c + 1) s5.counters }

/-- HASHB (R425): blocks hashed into a state of 80 bytes in SRAM; the last call pads and leaves the 48 bytes of
the hash. -/
def hashed (u : U) (s : State) : Option State := do
  let ctl := lane u.vd 0
  let n := ctl.toNat % 2 ^ 32
  if bits ctl 61 32 ≠ 0 || (!ctl.getLsbD 63 && n % 128 ≠ 0) then none
  else
    let off ← sramOff (lane u.va 0) 128
    let (bs, s1) ← ran (dataBytes (lane u.vb 0) n) s
    let st := s1.sramBytes s1.cur.id off 128
    let h := if ctl.getLsbD 62 then shaInit else (pieces 8 (st.take 64)).map fun x => BitVec.ofNat 64 (beNat x)
    let count := (if ctl.getLsbD 62 then 0 else ofBytes ((st.drop 64).take 16)) + 8 * n
    let out := if ctl.getLsbD 63 then (shaBytes (shaBlocks h (shaPad bs count))).take 48
      else shaBytes (shaBlocks h bs) ++ toBytes 16 count ++ (if ctl.getLsbD 62 then List.replicate 48 0 else [])
    some (scalarIs (u.d - 96) 0 (s1.sramPut s1.cur.id off out))

/-- SIGN (R425): both signatures of the 48 bytes by the attestation key, 3373 bytes of SRAM. -/
def signed (u : U) (s : State) : Option State := do
  let x ← sramOff (lane u.va 0) 48
  let y ← sramOff (lane u.vb 0) 3373
  let r := signatures s.attester (s.sramBytes s.cur.id x 48)
  some (scalarIs (u.d - 96) 3373 (s.sramPut s.cur.id y (r.1 ++ r.2)))

/-- MANCUT (R433): the manifest of the core's berth with its hash goes to the next page of the berth's ring; the
number of the cut is answered, and the counts start again before the record is written. -/
def manifestCut (u : U) (s : State) : Option State :=
  let b := (s.fwBerth s.cur).getD ((s.fwxlate s.cur.id).extractLsb' 4 4)
  let cfg := s.sysreg (dev (0x1400 + b.toNat)) 0
  let n := (s.cutOf b).1
  let head := sha384 (s.manifest b)
  if bits cfg 63 48 = 0 || (!s.cur.isHm && (s.fwBerth s.cur).isNone) then none
  else
    let s1 : State := { s with
      mancount := s.mancount.filter fun x => x.1 / 4096 != b.toNat
      mancut := put b.toNat (n + 1, s.time, head) s.mancut, withheld := del b.toNat s.withheld }
    some (scalarIs (u.d - 96) (BitVec.ofNat 64 n) (s1.homePutBytes ⟨b, cfg.setWidth 9, 0, 3⟩
      (bits cfg 47 12 * 4096 + 4096 * (n % bits cfg 63 48)) (s.manifest b ++ head) fun _ => false))

/-- The operands of a STRIP that begins (R431): of the harbourmaster, a quiesced berth with no VF, and a page of HBM. -/
def strippable (u : U) (s : State) : Bool :=
  let x := lane u.va 0
  let y := lane u.vb 0
  let b : BitVec 4 := x.setWidth 4
  s.cur.isHm && !s.strips.any (·.1 == s.cur.id) && x.toNat < 16 && (s.berth b).state == 3 && s.vfsOf b == 0
    && y.toNat % 4096 = 0 && y.toNat < 2 ^ 48 && isHbm y.toNat && s.there y.toNat && s.there (y.toNat + 3884)

/-- The end of a STRIP (R431): what the berth held is overwritten, and a receipt of 3885 bytes is written, its first 512
those from before with the TIME of now, signed by the device. -/
def stripped (u : U) (s : State) : Option State :=
  match s.strips.find? (·.1 == s.cur.id) with
  | none => none
  | some r =>
    if !s.cur.isHm then none
    else
      let m := r.2.take 16 ++ toBytes 8 s.time ++ r.2.drop 24
      let sg := signatures deviceSigner (sha384 m)
      let s1 : State := { s with strips := s.strips.filter (·.1 != s.cur.id) }
      some (scalarIs (u.d - 96) 3885 (s1.homePutBytes s1.hmReq (lane u.vb 0).toNat (m ++ sg.1 ++ sg.2) fun _ => false))

/-- A register of the core read, or written (R190): where it may; another read answers 0 and another write
has no effect, and the lock-keeper logs both. -/
def systemRead (u : U) (s : State) : Option State :=
  let x := lane u.va 0
  if 2 ^ 28 ≤ x.toNat then none
  else some (match (regAt x).filter fun r => s.mayRead s.cur r with
    | some r => scalarIs (u.d - 96) (s.readReg190 s.cur r) s
    | none => scalarIs (u.d - 96) 0 (s.strayed s.cur x))

def systemWritten (u : U) (s : State) : Option State :=
  let x := lane u.va 0
  let v := lane u.vb 0
  let waits := fun (r : Reg190) => match r, s.selected s.cur with
    | .ttw1, some (false, g, j) => v.getLsbD 12 && s.tensorBusy (s.tensor g j)
    | _, _ => false
  if 2 ^ 28 ≤ x.toNat then none
  else match (regAt x).filter fun r => s.mayWrite s.cur r v with
    | some r => only (!waits r) (s.writeReg190 s.cur r v)
    | none => some (s.strayed s.cur x)

def firmwareTable : Instr → Option Effect
  | .keyset _ _ => some fun u s => goes (betweenFences keySet u s)
  | .tvbump _ _ _ => some fun u s => goes (betweenFences versionBumped u s)
  | .cseal _ _ => some fun u s => goes (betweenFences imageSealed u s)
  | .cunseal _ _ => some fun u s => goes (betweenFences imageOpened u s)
  | .hashb _ _ _ => some fun u s => goes (betweenFences hashed u s)
  | .sign _ _ _ => some fun u s => goes (betweenFences signed u s)
  | .mancut _ => some fun u s => goes (betweenFences manifestCut u s)
  | .strip _ _ _ => some fun u s => goes (betweenFences stripped u s)
  | .mfsys _ _ => some fun u s => goes (systemRead u s)
  | .mtsys _ _ => some fun u s => goes (systemWritten u s)
  | .tlbinv _ _ => some fun u s => goes (
      let x := lane u.va 0
      only ((s.cur.isHm || (x.toNat % 4 < 2 && s.fwBerth s.cur == some (x.extractLsb' 4 4))) && x.toNat < 2 ^ 8 && x.toNat / 4 % 4 = 0)
        { s with
          -- kind 0 names one page; the others all of the berth's
          tlb := s.tlb.filter fun e => !(e.berth == x.extractLsb' 4 4 && (x.toNat % 4 != 0 || e.vpn == (lane u.vb 0).toNat / 2 ^ 16))
          walks := s.walks.filter fun e => !(e.berth == x.extractLsb' 4 4 && (x.toNat % 4 != 0 || e.vpn == (lane u.vb 0).toNat / 2 ^ 16)) })
  | .ctxkill _ => some fun u s => goes (some (
      match s.all.find? fun g => g.prof == .full && g.run != .off && g.cb == lane u.va 0 && s.fwMay s.cur (· == g.berth) with
      | some g => s.killGang g.id
      | none => s.strayed s.cur (lane u.va 0)))
  | _ => none

/-- What CTXKILL leaves of a gang (R190): it runs no more, holds no line and no held write, and no team of its grid
counts it or has its arrival. -/
def Killed : Prop :=
  ∀ (s : State) (g : Nat) (a : Agent), s.agent g = some a →
    (∃ b, (s.killGang g).agent g = some b ∧ b.run = .off ∧ b.lines = [] ∧ b.wbacks = [] ∧ b.looks = []) ∧
    ∀ x ∈ (s.killGang g).teams, x.grid = a.grid → g ∉ x.gangs ∧ g ∉ x.arrived ∧ g ∉ x.qarrived

/-- An operand of a SEAL unit that it may not take (R419), and TLBINV of another's (R190). -/
def firmwareTraps : Instr → Option (U → State → Option (BitVec 8 × Word))
  | .keyset _ _ => some fun u s =>
      let x := lane u.va 0
      if quiet s && (bits x 15 9 ≠ 0 || bits x 63 20 ≠ 0 || !s.fwSeg s.cur (bits x 19 16)) then some (0xBA, x) else none
  | .mfsys _ _ | .mtsys _ _ => some fun u _ => if 2 ^ 28 ≤ (lane u.va 0).toNat then some (0x02, u.w.setWidth 64) else none
  | .tlbinv _ _ => some fun u s =>
      let x := lane u.va 0
      if !s.cur.isHm && (2 ≤ x.toNat % 4 || s.fwBerth s.cur != some (x.extractLsb' 4 4)) then some (0x05, u.w.setWidth 64) else none
  | _ => none

end Sys2Proof.Claims
end

