-- ==== Sys2Proof/Claims/Lanes.lean ====
section
/-!
DEFINITION. What the statements say the lane engine computes: packed integer arithmetic from exact integers
with its flags (R193, R198 to R208), condition registers (R175, R203, R214), floating point (R209 to
R216), dot products, residues and quantising (R217 to R224).
-/

namespace Sys2Proof.Claims

open Sys2Proof.Machine

/-! ### Packed integers (R193, R198, R200) -/

/-- The exact value e reduced to w bits, with N and Z from the result, C given, and V set where e is no
w-bit two's complement number (R200). -/
def exact (w : Nat) (e : Int) (c : Bool) : Nat × Nat :=
  let r := (e % (2 ^ w : Nat)).toNat
  (r, nzcv (r.testBit (w - 1)) (r == 0) c (decide (e < -(2 ^ (w - 1) : Nat)) || decide ((2 ^ (w - 1) : Nat) ≤ e)))

/-- A result with N and Z, and with C and V given as 0 (R200). -/
def logic (w r : Nat) : Nat × Nat := (r % 2 ^ w, nzcv ((r % 2 ^ w).testBit (w - 1)) (r % 2 ^ w == 0) false false)

/-- A shift's result with C the last bit shifted out and V 0 (R199, R200). -/
def shifted (w r : Nat) (out : Bool) : Nat × Nat := (r, nzcv (r.testBit (w - 1)) (r == 0) out false)

/-- An operation of one sub-element: carry in, a, b and old d give the result and N, Z, C, V. -/
abbrev ElemOp := Bool → Nat → Nat → Nat → Nat × Nat

/-- Left, logical right and arithmetic right shift, and rotate left, by n (R199). -/
def shlOp (w : Nat) : ElemOp := fun _ x n _ =>
  shifted w (if w ≤ n then 0 else x * 2 ^ n % 2 ^ w) (decide (1 ≤ n) && decide (n ≤ w) && x / 2 ^ (w - n) % 2 == 1)
def shrOp (w : Nat) : ElemOp := fun _ x n _ =>
  shifted w (if w ≤ n then 0 else x / 2 ^ n) (decide (1 ≤ n) && decide (n ≤ w) && x / 2 ^ (n - 1) % 2 == 1)
def sarOp (w : Nat) : ElemOp := fun _ x n _ =>
  shifted w (signedOf w x / (2 ^ min n w : Nat) % (2 ^ w : Nat)).toNat (decide (1 ≤ n) && x / 2 ^ (min n w - 1) % 2 == 1)
def rolOp (w : Nat) : ElemOp := fun _ x n _ =>
  let r := (x * 2 ^ (n % w) + x / 2 ^ (w - n % w)) % 2 ^ w
  shifted w r (decide (1 ≤ n % w) && r % 2 == 1)

/-- The packed integer instructions: element width, the carry in when FLAGS gives none, and the operation
(R198 to R201). -/
def packedOp : Instr → Option (Nat × Bool × ElemOp)
  | .add t _ _ _ => some (iwidth t, false, fun c x y _ =>
      ((exact (iwidth t) (signedOf (iwidth t) x + signedOf (iwidth t) y + c.toNat) (decide (2 ^ iwidth t ≤ x + y + c.toNat)))))
  | .sub t _ _ _ => some (iwidth t, true, fun c x y _ =>
      ((exact (iwidth t) (signedOf (iwidth t) x - signedOf (iwidth t) y - (1 - c.toNat : Nat)) (decide (y + (1 - c.toNat) ≤ x)))))
  | .and t _ _ _ => some (iwidth t, false, fun _ x y _ => logic (iwidth t) (x &&& y))
  | .or t _ _ _ => some (iwidth t, false, fun _ x y _ => logic (iwidth t) (x ||| y))
  | .xor t _ _ _ => some (iwidth t, false, fun _ x y _ => logic (iwidth t) (x ^^^ y))
  | .andn t _ _ _ => some (iwidth t, false, fun _ x y _ => logic (iwidth t) (x &&& (2 ^ iwidth t - 1 - y)))
  | .shl t _ _ _ => some (iwidth t, false, shlOp (iwidth t))
  | .shr t _ _ _ => some (iwidth t, false, shrOp (iwidth t))
  | .sar t _ _ _ => some (iwidth t, false, sarOp (iwidth t))
  | .rol t _ _ _ => some (iwidth t, false, rolOp (iwidth t))
  | .min t _ _ _ => some (iwidth t, false, fun _ x y _ =>
      logic (iwidth t) (if signedOf (iwidth t) x ≤ signedOf (iwidth t) y then x else y))
  | .max t _ _ _ => some (iwidth t, false, fun _ x y _ =>
      logic (iwidth t) (if signedOf (iwidth t) x ≤ signedOf (iwidth t) y then y else x))
  | .minu t _ _ _ => some (iwidth t, false, fun _ x y _ => logic (iwidth t) (if x ≤ y then x else y))
  | .maxu t _ _ _ => some (iwidth t, false, fun _ x y _ => logic (iwidth t) (if x ≤ y then y else x))
  | .absd t _ _ _ => some (iwidth t, false, fun _ x y _ =>
      logic (iwidth t) (signedOf (iwidth t) x - signedOf (iwidth t) y).natAbs)
  | .mulI64 _ _ _ => some (64, false, fun _ x y _ => logic 64 (x * y))
  | .mulhiI64 _ _ _ => some (64, false, fun _ x y _ => logic 64 (x * y / 2 ^ 64))
  | .mulhisI64 _ _ _ => some (64, false, fun _ x y _ =>
      logic 64 (signedOf 64 x * signedOf 64 y / (2 ^ 64 : Nat) % (2 ^ 64 : Nat)).toNat)
  | .madI64 _ _ _ => some (64, false, fun _ x y z => logic 64 (z + x * y))
  | .mulI32 _ _ _ => some (32, false, fun _ x y _ => logic 32 (x * y))
  | .mulhiI32 _ _ _ => some (32, false, fun _ x y _ => logic 32 (x * y / 2 ^ 32))
  | .mulhisI32 _ _ _ => some (32, false, fun _ x y _ =>
      logic 32 (signedOf 32 x * signedOf 32 y / (2 ^ 32 : Nat) % (2 ^ 32 : Nat)).toNat)
  | .madI32 _ _ _ => some (32, false, fun _ x y z => logic 32 (z + x * y))
  | _ => none

/-- The divisions: element width and operation, quotients truncated toward zero (R201, R202). -/
def divOp : Instr → Option (Nat × ElemOp)
  | .divI64 _ _ _ => some (64, fun _ x y _ => logic 64 (x / y))
  | .idivI64 _ _ _ => some (64, fun _ x y _ => logic 64 ((signedOf 64 x).tdiv (signedOf 64 y) % (2 ^ 64 : Nat)).toNat)
  | .remI64 _ _ _ => some (64, fun _ x y _ => logic 64 (x % y))
  | .iremI64 _ _ _ => some (64, fun _ x y _ => logic 64 ((signedOf 64 x).tmod (signedOf 64 y) % (2 ^ 64 : Nat)).toNat)
  | .divI32 _ _ _ => some (32, fun _ x y _ => logic 32 (x / y))
  | .idivI32 _ _ _ => some (32, fun _ x y _ => logic 32 ((signedOf 32 x).tdiv (signedOf 32 y) % (2 ^ 32 : Nat)).toNat)
  | .remI32 _ _ _ => some (32, fun _ x y _ => logic 32 (x % y))
  | .iremI32 _ _ _ => some (32, fun _ x y _ => logic 32 ((signedOf 32 x).tmod (signedOf 32 y) % (2 ^ 32 : Nat)).toNat)
  | _ => none

/-- A packed operation on every sub-element of every lane; the carry in of FLAGS enters sub-element 0, whose
flags are the lane's (R193, R200). -/
def packedEffect (w : Nat) (dflt : Bool) (op : ElemOp) : Effect := fun u s =>
  let c := fun (l : Nat) => carryIn u s.cur dflt l
  let r := fun (l j : Nat) => op (if j = 0 then c l else dflt) (el w (lane u.va l) j) (el w (lane u.vb l) j) (el w (lane u.vd l) j)
  gives u (fun l => packEls w fun j => (r l j).1) (fun l => (r l 0).2) s

def packedTable (i : Instr) : Option Effect := (packedOp i).map fun x => packedEffect x.1 x.2.1 x.2.2

/-- The active lanes with a zero divisor in some sub-element (R202). -/
def zeroDivisors (w : Nat) (u : U) : Mask :=
  u.act &&& maskOf fun l => (List.range (64 / w)).any fun j => el w (lane u.vb l) j == 0

def divTable (i : Instr) : Option Effect := (divOp i).map fun x u s =>
  if zeroDivisors x.1 u = 0 then packedEffect x.1 false x.2 u s else none

def divTraps (i : Instr) : Option (U → State → Option (BitVec 8 × Word)) := (divOp i).map fun x u _ =>
  if zeroDivisors x.1 u = 0 then none else some (0x19, (zeroDivisors x.1 u).setWidth 64)

/-! ### Whole lanes (R176, R175, R204 to R208) -/

/-- A shift of every element by a constant (R205). -/
def shfiElem (k w n x : Nat) : Nat := match k with
  | 0 => (shlOp w false x n 0).1
  | 1 => (shrOp w false x n 0).1
  | 2 => (sarOp w false x n 0).1
  | _ => (rolOp w false x n 0).1

/-- The bits of a number counted, and its leading and trailing zeros, of 64 (R206). -/
def ones (x : Nat) : Nat := ((List.range 64).filter x.testBit).length
def leading (x : Nat) : Nat := 64 - ((List.range 64).filter fun n => 2 ^ n ≤ x).length
def trailing (x : Nat) : Nat := ((List.range 64).filter fun n => x % 2 ^ (n + 1) == 0).length

/-- Lane forms that write no flags but those of BITS (R206): the value of lane l, and its flags. -/
def laneOp : Instr → Option (Agent → U → Nat → Word × Nat)
  | .addi _ _ _ => some fun a u l =>
      let x := (lane u.va l).toNat
      let y := (u.imm % (2 ^ 64 : Nat)).toNat
      let c := carryIn u a false l
      let r := exact 64 (signedOf 64 x + signedOf 64 y + c.toNat) (decide (2 ^ 64 ≤ x + y + c.toNat))
      (BitVec.ofNat 64 r.1, r.2)
  | .movi _ _ => some fun _ u _ => (BitVec.ofInt 64 u.imm, 0)
  | .andi _ _ _ => some fun _ u l => (lane u.va l &&& BitVec.ofInt 64 u.imm, 0)
  | .sel _ _ _ n t => some fun a u l =>
      -- 0 EQ, 1 NE, 2 LT, 3 GE (R176)
      let k := match t.toNat with | 0 => 0 | 1 => 1 | 2 => 11 | _ => 10
      (if condHolds k (ccOf a l n.toNat) then lane u.va l else lane u.vb l, 0)
  | .ccget _ n => some fun a _ l => (BitVec.ofNat 64 (ccOf a l n.toNat), 0)
  | .popc _ _ => some fun _ u l => let r := logic 64 (ones (lane u.va l).toNat); (BitVec.ofNat 64 r.1, r.2)
  | .clz _ _ => some fun _ u l => let r := logic 64 (leading (lane u.va l).toNat); (BitVec.ofNat 64 r.1, r.2)
  | .ctz _ _ => some fun _ u l => let r := logic 64 (trailing (lane u.va l).toNat); (BitVec.ofNat 64 r.1, r.2)
  | .brev _ _ => some fun _ u l => let r := logic 64 (lane u.va l).reverse.toNat; (BitVec.ofNat 64 r.1, r.2)
  | .bswap _ _ => some fun _ u l =>
      let r := logic 64 (joinEls 8 ((List.range 8).map fun j => el 8 (lane u.va l) (7 - j)))
      (BitVec.ofNat 64 r.1, r.2)
  | .lea _ _ _ => some fun _ u l => (lane u.va l + 8 * lane u.vb l, 0)
  | .sextI8 _ _ => some fun _ u l => (((lane u.va l).setWidth 8).signExtend 64, 0)
  | .sextI16 _ _ => some fun _ u l => (((lane u.va l).setWidth 16).signExtend 64, 0)
  | .sextI32 _ _ => some fun _ u l => (((lane u.va l).setWidth 32).signExtend 64, 0)
  | .zextI8 _ _ => some fun _ u l => (((lane u.va l).setWidth 8).setWidth 64, 0)
  | .zextI16 _ _ => some fun _ u l => (((lane u.va l).setWidth 16).setWidth 64, 0)
  | .zextI32 _ _ => some fun _ u l => (((lane u.va l).setWidth 32).setWidth 64, 0)
  | .packI32 _ _ _ => some fun _ u l => ((lane u.vb l).setWidth 32 ++ (lane u.va l).setWidth 32, 0)
  | .packI16 _ _ _ => some fun _ u l =>
      (packEls 16 fun j => if j < 2 then el 32 (lane u.va l) j else el 32 (lane u.vb l) (j - 2), 0)
  | .packI8 _ _ _ => some fun _ u l =>
      (packEls 8 fun j => if j < 4 then el 16 (lane u.va l) j else el 16 (lane u.vb l) (j - 4), 0)
  | .unpkI32 _ _ x => some fun _ u l => (widened 32 x (lane u.va l), 0)
  | .unpkI16 _ _ x => some fun _ u l => (widened 16 x (lane u.va l), 0)
  | .unpkI8 _ _ x => some fun _ u l => (widened 8 x (lane u.va l), 0)
  | _ => none
where
  /-- A half of the elements widened: bit 0 takes the upper half, bit 1 zero-extends (R208). -/
  widened (w : Nat) (x : BitVec 7) (v : Word) : Word := packEls (2 * w) fun j =>
    let e := el w v (j + if x.getLsbD 0 then 32 / w else 0)
    if x.getLsbD 1 then e else (signedOf w e % (2 ^ (2 * w) : Nat)).toNat

/-- The table of the lane forms, with SHFI, whose kind, width and amount are fields of its immediate (R205). -/
def laneTable : Instr → Option Effect
  | .shfi _ _ _ _ _ => some fun u s =>
      let n := (u.imm % 2048).toNat
      let w := 64 >>> (n / 64 % 4)
      gives u (fun l => packEls w fun j => shfiElem (n / 512) w (n % 64) (el w (lane u.va l) j)) (fun _ => 0) s
  | i => (laneOp i).map fun f u s => gives u (fun l => (f s.cur u l).1) (fun l => (f s.cur u l).2) s

/-- The active lanes whose field of BFE or BFI leaves the word: more than 64 bits, or past bit 63 (R206). -/
def badFields (u : U) : Mask := u.act &&& maskOf fun l =>
  decide (64 < bits (lane u.vb l) 14 8) || decide (64 < bits (lane u.vb l) 5 0 + bits (lane u.vb l) 14 8)

/-- BFE and BFI of one lane: field position in bits [5:0] of b, length in [14:8], sign in bit 15 (R206). -/
def fieldOp : Instr → Option (U → Nat → Nat)
  | .bfe _ _ _ => some fun u l =>
      let p := bits (lane u.vb l) 5 0
      let n := bits (lane u.vb l) 14 8
      let x := (lane u.va l).toNat / 2 ^ p % 2 ^ n
      if (lane u.vb l).getLsbD 15 && decide (1 ≤ n) then (signedOf n x % (2 ^ 64 : Nat)).toNat else x
  | .bfi _ _ _ => some fun u l =>
      let p := bits (lane u.vb l) 5 0
      let n := bits (lane u.vb l) 14 8
      let d := (lane u.vd l).toNat
      d / 2 ^ (p + n) * 2 ^ (p + n) + (lane u.va l).toNat % 2 ^ n * 2 ^ p + d % 2 ^ p
  | _ => none

def fieldTable (i : Instr) : Option Effect := (fieldOp i).map fun f u s =>
  if badFields u = 0 then gives u (fun l => BitVec.ofNat 64 (f u l)) (fun l => (logic 64 (f u l)).2) s else none

def fieldTraps (i : Instr) : Option (U → State → Option (BitVec 8 × Word)) := (fieldOp i).map fun _ u _ =>
  if badFields u = 0 then none else some (0x1A, (badFields u).setWidth 64)

/-! ### Copies (R196, R198, R211) -/

/-- MOV and FMOV: all 64 bits with the word poison; flags of the first sub-element. -/
def copyTable : Instr → Option Effect
  | .mov t _ _ => some fun u s => (wrote u u.va u.pa s).map fun s =>
      (flagged u (fun l => (logic (iwidth t) (el (iwidth t) (lane u.va l) 0)).2) s, none)
  | .fmov t _ _ => some fun u s => (wrote u u.va u.pa s).map fun s =>
      (flagged u (fun l => fpFlags (ffmt t) (el (ffmt t).width (lane u.va l) 0)) s, none)
  | _ => none

/-! ### Condition registers (R175, R203, R214, R276) -/

/-- A compare under condition k: its N, Z, C, V where k is 14, else the boolean form of the condition. -/
def compared (k : Nat) (f : Nat) : Nat := if k = 14 then f else boolForm (condHolds k f)

/-- N, Z, C, V of a comparison of two w-bit numbers, as SUB gives them (R203). -/
def difference (w x y : Nat) : Nat := (exact w (signedOf w x - signedOf w y) (decide (y ≤ x))).2

def ccTable : Instr → Option Effect
  | .icmp t c _ _ k => some fun u s => some (ccIs c.toNat u.act (fun l =>
      compared k.toNat (difference (iwidth t) (el (iwidth t) (lane u.va l) 0) (el (iwidth t) (lane u.vb l) 0))) s, none)
  | .ccmov d a => some fun u s => some (ccIs d.toNat u.act (fun l => ccOf s.cur l a.toNat) s, none)
  | .ccand d x a y b => some fun u s => some (ccIs d.toNat u.act (fun l =>
      boolForm (condHolds x.toNat (ccOf s.cur l a.toNat) && condHolds y.toNat (ccOf s.cur l b.toNat))) s, none)
  | .ccor d x a y b => some fun u s => some (ccIs d.toNat u.act (fun l =>
      boolForm (condHolds x.toNat (ccOf s.cur l a.toNat) || condHolds y.toNat (ccOf s.cur l b.toNat))) s, none)
  | .ccset d _ => some fun u s => some (ccIs d.toNat u.act (fun l => (lane u.va l).toNat) s, none)
  | .fcmp t c _ _ k => some fun u s =>
      let f := ffmt t
      let z := ftzOf s.cur
      let r := fun l => fcmpFlags f (f.ftzIn z (el f.width (lane u.va l) 0)) (f.ftzIn z (el f.width (lane u.vb l) 0))
      (raised u (fun l => (r l).2) s).map fun s => (ccIs c.toNat u.act (fun l => compared k.toNat (r l).1) s, none)
  | _ => none

/-! ### Floating point (R88, R209 to R216) -/

/-- An operation of one floating-point element: rounding mode, FTZ, a, b and old d give result and flags. -/
abbrev FpOp := Rm → Bool → Nat → Nat → Nat → Nat × Flags

/-- The packed floating-point instructions: format and operation (R209 to R212). -/
def fpOp : Instr → Option (Fmt × FpOp)
  | .fadd t _ _ _ => some (ffmt t, fun rm z x y _ => fAdd (ffmt t) rm z x y false)
  | .fsub t _ _ _ => some (ffmt t, fun rm z x y _ => fAdd (ffmt t) rm z x y true)
  | .fmul t _ _ _ => some (ffmt t, fun rm z x y _ => fMul (ffmt t) rm z x y)
  | .fma t _ _ _ => some (ffmt t, fun rm z x y c => fMa (ffmt t) rm z x y c false false)
  | .fms t _ _ _ => some (ffmt t, fun rm z x y c => fMa (ffmt t) rm z x y c true false)
  | .fnma t _ _ _ => some (ffmt t, fun rm z x y c => fMa (ffmt t) rm z x y c false true)
  | .fnms t _ _ _ => some (ffmt t, fun rm z x y c => fMa (ffmt t) rm z x y c true true)
  | .fmin t _ _ _ => some (ffmt t, fun _ z x y _ => fPick (ffmt t) z false x y)
  | .fmax t _ _ _ => some (ffmt t, fun _ z x y _ => fPick (ffmt t) z true x y)
  | .fabs t _ _ => some (ffmt t, fun _ _ x _ _ => (x % 2 ^ ((ffmt t).width - 1), 0))
  | .fneg t _ _ => some (ffmt t, fun _ _ x _ _ => (x ^^^ 2 ^ ((ffmt t).width - 1), 0))
  | .fcpys t _ _ _ => some (ffmt t, fun _ _ x y _ =>
      (x % 2 ^ ((ffmt t).width - 1) + y / 2 ^ ((ffmt t).width - 1) * 2 ^ ((ffmt t).width - 1), 0))
  | .fdiv t _ _ _ => some (ffmt t, fun rm z x y _ => fDiv (ffmt t) rm z x y)
  | .fsqrt t _ _ => some (ffmt t, fun rm z x _ _ => fSqrt (ffmt t) rm z x)
  | .frnd t _ _ x m => some (ffmt t, fun rm z v _ _ =>
      fRnd (ffmt t) (if m.getLsbD 2 then Rm.of (m.setWidth 2) else rm) z (x == 1) v)
  | _ => none

/-- What the elements of lane l give. -/
def fpLane (f : Fmt) (op : FpOp) (a : Agent) (u : U) (l j : Nat) : Nat × Flags :=
  op (rmOf a) (ftzOf a) (el f.width (lane u.va l) j) (el f.width (lane u.vb l) j) (el f.width (lane u.vd l) j)

/-- The flags of a lane's elements together (R88). -/
def laneRaises (n : Nat) (r : Nat → Nat × Flags) : Flags := (List.range n).foldl (fun acc j => acc ||| (r j).2) 0

/-- Lanes whose values carry floating-point flags: the values and flags of lane l, and the flags written under
FLAGS. -/
def fpValues : Instr → Option (Agent → U → Nat → Word × Flags × Nat)
  | .cvt _ _ t c n => some fun a u l =>
      let r := cvtLane t c (n == 1) (rmOf a) (ftzOf a) (lane u.va l)
      (BitVec.ofNat 64 r.1, r.2, 0)
  | .dot2F16 _ _ _ => some fun a u l => dot2Of Fmt.f16 a u l
  | .dot2Bf16 _ _ _ => some fun a u l => dot2Of Fmt.bf16 a u l
  | .qpackQ4 _ _ _ => some fun a u l =>
      let r := packFl 4 8 fun j => quantise 4 (rmOf a) (ftzOf a) (qScale u l) (bf16At u l j)
      (BitVec.ofNat 64 (r.1 * 2 ^ 32 + (lane u.vd l).toNat / 2 ^ 32), r.2, 0)
  | .qpackQ8 _ _ _ => some fun a u l =>
      let r := packFl 8 8 fun j => quantise 8 (rmOf a) (ftzOf a) (qScale u l) (bf16At u l j)
      (BitVec.ofNat 64 r.1, r.2, 0)
  | .qpackQ12 _ _ => some fun a u l =>
      let r := packFl 16 4 fun j => quantise 12 (rmOf a) (ftzOf a) (qScale u l) (bf16At u l j)
      (BitVec.ofNat 64 r.1, r.2, 0)
  | .qunpkQ4 _ _ x => some fun a u l => unpacked 4 x.toNat a u l
  | .qunpkQ8 _ _ x => some fun a u l => unpacked 8 x.toNat a u l
  | .qunpkQ12 _ _ => some fun a u l => unpacked 12 0 a u l
  | i => (fpOp i).map fun x a u l =>
      let r := fpLane x.1 x.2 a u l
      (packEls x.1.width fun j => (r j).1, laneRaises (64 / x.1.width) r, fpFlags x.1 (r 0).1)
where
  /-- DOT2 of a lane: two products and the addend of each f32 element (R217). -/
  dot2Of (f : Fmt) (a : Agent) (u : U) (l : Nat) : Word × Flags × Nat :=
    let r := fun (j : Nat) => dot2 f (rmOf a) (ftzOf a)
      (el 16 (lane u.va l) (2 * j)) (el 16 (lane u.vb l) (2 * j))
      (el 16 (lane u.va l) (2 * j + 1)) (el 16 (lane u.vb l) (2 * j + 1)) (el 32 (lane u.vd l) j)
    (packEls 32 fun j => (r j).1, (r 0).2 ||| (r 1).2, 0)
  /-- QUNPK of a lane: elements 4·sel on, times the scale, in bf16 (R223). -/
  unpacked (w sel : Nat) (a : Agent) (u : U) (l : Nat) : Word × Flags × Nat :=
    let r := packFl 16 4 fun j => dequantise w (rmOf a) (ftzOf a) (qScale u l) (el (qWidth w) (lane u.va l) (4 * sel + j))
    (BitVec.ofNat 64 r.1, r.2, 0)

/-- FALU, CVT, DOT2, QPACK and QUNPK: the flags of all active lanes enter FPC together, then each active
lane is written. FLAGS is taken by FALU alone. -/
def fpTable (i : Instr) : Option Effect := (fpValues i).map fun f u s =>
  (raised u (fun l => (f s.cur u l).2.1) s).bind fun s' =>
    (wrote u (lanesOf fun l => (f s.cur u l).1) (maskOf fun _ => false) s').map fun s' =>
      (if (fpOp i).isSome then flagged u (fun l => (f s.cur u l).2.2) s' else s', none)

/-- FALU, FCMP, CVT, DOT2, QPACK and QUNPK trap with 0x18 where a raised flag is enabled (R88). -/
def fpTraps : Instr → Option (U → State → Option (BitVec 8 × Word))
  | .fcmp t _ _ _ _ => some fun u s => fpTrap u (fun l => (fcmpFlags (ffmt t)
      ((ffmt t).ftzIn (ftzOf s.cur) (el (ffmt t).width (lane u.va l) 0))
      ((ffmt t).ftzIn (ftzOf s.cur) (el (ffmt t).width (lane u.vb l) 0))).2) s
  | i => (fpValues i).map fun f u s => fpTrap u (fun l => (f s.cur u l).2.1) s

/-! ### Integer dot products, residues, SCALEOF (R218, R220, R224) -/

/-- The integer dot forms: element width code, 0 for i8 (R218). -/
def dotCode : Instr → Option Nat
  | .dot8Q8 _ _ _ => some 8
  | .dot16Q4 _ _ _ => some 4
  | .dot4Q12 _ _ _ => some 12
  | .dot8I8 _ _ _ => some 0
  | _ => none

/-- Without SCL, the exact sum added to the 64-bit d, the lane poisoned for an invalid element; with it, the
sum times both scales added to the f64 in d. -/
def dotTable (i : Instr) : Option Effect := (dotCode i).map fun q u s =>
  let x := fun l => dotSum q (lane u.va l) (lane u.vb l)
  match u.scl with
  | none => goes (wrote u (lanesOf fun l => lane u.vd l + BitVec.ofInt 64 (x l).1) (maskOf fun l => (x l).2) s)
  | some (sa, sb) =>
    let r := fun l => dotScaled (rmOf s.cur) (x l).1 (x l).2 (lane sa l).toNat (lane sb l).toNat (lane u.vd l).toNat
    (raised u (fun l => (r l).2) s).bind fun s =>
      goes (wrote u (lanesOf fun l => BitVec.ofNat 64 (r l).1) (maskOf fun _ => false) s)

/-- Residue words (R99, R220): the channels modulo 1023, 1024 and 1025 apart; poison where an operand is bad. -/
def residue (a b c : Int) : Nat := rxWord (a % 1023).toNat (b % 1024).toNat (c % 1025).toNat

/-- The residue forms of one 32-bit word: operands a, b and old d. -/
def residueOp : Instr → Option (Nat → Nat → Nat → Nat)
  | .rxadd _ _ _ => some fun x y _ => if rxBad x || rxBad y then rxPoison
      else residue (rxA x + rxA y) (rxB x + rxB y) (rxC x + rxC y)
  | .rxsub _ _ _ => some fun x y _ => if rxBad x || rxBad y then rxPoison
      else residue (rxA x - rxA y) (rxB x - rxB y) (rxC x - rxC y)
  | .rxmul _ _ _ => some fun x y _ => if rxBad x || rxBad y then rxPoison
      else residue (rxA x * rxA y) (rxB x * rxB y) (rxC x * rxC y)
  | .rxmac _ _ _ => some fun x y z => if rxBad x || rxBad y || rxBad z then rxPoison
      else residue (rxA z + rxA x * rxA y) (rxB z + rxB x * rxB y) (rxC z + rxC x * rxC y)
  | .rxneg _ _ => some fun x _ _ => if rxBad x then rxPoison else residue (-rxA x) (-rxB x) (-rxC x)
  | .rxscl _ _ _ => some fun x y _ => if rxBad x then rxPoison
      else residue (rxA x * signedOf 32 y) (rxB x * signedOf 32 y) (rxC x * signedOf 32 y)
  | _ => none

def residueTable : Instr → Option Effect
  | .scaleof _ _ x => some fun u s =>
      let w := match x.toNat with | 0 => 4 | 1 => 8 | _ => 12
      goes (wrote u (lanesOf fun l => BitVec.ofNat 64 (scaleCode w (ftzOf s.cur) (el 32 (lane u.va l) 0))) 0 s)
  | i => (residueOp i).map fun f u s => goes (wrote u (lanesOf fun l => packEls 32 fun j =>
      f (el 32 (lane u.va l) j) (el 32 (lane u.vb l) j) (el 32 (lane u.vd l) j)) 0 s)

end Sys2Proof.Claims
end

