-- ==== Sys2Proof/Claims/Gang.lean ====
section
/-!
DEFINITION. What the statements say the forms that look across lanes, and the long-latency units, do: shuffles
and reductions (R226 to R230), conversions and special functions with their windows (R67, R225, R233 to
R240), and the carry chain (R267 to R282).
-/

namespace Sys2Proof.Claims

open Sys2Proof.Machine

/-! ### Shuffles (R226, R227) -/

/-- The lane that lane l of a shuffle takes, none for zero. -/
def sourceLane : Instr → Option (U → Nat → Option Nat)
  | .shfl _ _ _ => some fun u l =>
      if (lane u.vb l).toNat / 32 % 2 = 1 then none else some ((lane u.vb l).toNat % 32)
  | .shflx _ _ _ => some fun u l => some (l ^^^ (lane u.vb l).toNat % 32)
  | .shflr _ _ _ => some fun u l =>
      let k := (l : Int) + signedOf 6 (lane u.vb l).toNat
      some (if 0 ≤ k ∧ k ≤ 31 then k.toNat else l)
  | _ => none

/-- A shuffle moves whole values with their word poison; BCAST spreads one element of a lane to every
element of every lane, and REV reverses the order of the elements of the gang. -/
def shuffleTable : Instr → Option Effect
  | .bcast _ _ _ => some fun u s =>
      let c := (lane u.vb 0).toNat
      let w := 64 >>> (c / 64 % 4)
      let x := el w (lane u.va (c % 32)) (c / 256 % 64 % (64 / w))
      goes (wrote u (splat (packEls w fun _ => x)) (if has u.pa (c % 32) then 0xFFFFFFFF else 0) s)
  | .rev _ _ x => some fun u s =>
      let w := 64 >>> x.toNat
      goes (wrote u (lanesOf fun l => packEls w fun j => el w (lane u.va (31 - l)) (64 / w - 1 - j))
        (maskOf fun l => has u.pa (31 - l)) s)
  | i => (sourceLane i).map fun f u s => goes (wrote u
      (lanesOf fun l => match f u l with | some k => lane u.va k | none => 0)
      (maskOf fun l => match f u l with | some k => has u.pa k | none => false) s)

/-! ### Votes, reductions and scans (R228, R229, R230) -/

/-- Sub-element j of the active lanes, in lane order. -/
def column (u : U) (w j : Nat) : List Nat := (lanesIn u.act).map fun l => el w (lane u.va l) j

/-- The first of a list that no other one goes before. -/
def best (before : Nat → Nat → Bool) : List Nat → Nat
  | [] => 0
  | x :: xs => xs.foldl (fun x y => if before y x then y else x) x

/-- The place of a lane among the active ones. -/
def placeOfLane (u : U) (l : Nat) : Nat := ((lanesIn u.act).filter (· < l)).length

/-- Integer reductions: the element width, and the value of a column in every lane (R229); and integer scans, the
value at a place of the column (R230). -/
def foldOp : Instr → Option (Nat × (List Nat → Nat → Nat))
  | .redaddI64 _ _ => some (64, fun xs _ => xs.foldl (· + ·) 0 % 2 ^ 64)
  | .redaddI32 _ _ => some (32, fun xs _ => xs.foldl (· + ·) 0 % 2 ^ 32)
  | .redminI64 _ _ => some (64, fun xs _ => best (fun y x => decide (signedOf 64 y ≤ signedOf 64 x)) xs)
  | .redmaxI64 _ _ => some (64, fun xs _ => best (fun y x => decide (signedOf 64 x ≤ signedOf 64 y)) xs)
  | .scanaddI64 _ _ => some (64, fun xs n => (xs.take (n + 1)).foldl (· + ·) 0 % 2 ^ 64)
  | .scanaddI32 _ _ => some (32, fun xs n => (xs.take (n + 1)).foldl (· + ·) 0 % 2 ^ 32)
  | _ => none

/-- Floating-point reductions and scans: format, the value of a column at a place, and the flags its lane
raises (R229, R230). -/
def foldFp : Instr → Option (Fmt × (Bool → List Nat → Nat → Nat) × (Bool → List Nat → Nat → Flags))
  | .redaddF64 _ _ => some (Fmt.f64, fun z xs _ => (pwSum Fmt.f64 z 6 xs).1, fun z xs n => laneFlags Fmt.f64 z xs n)
  | .redaddF32 _ _ => some (Fmt.f32, fun z xs _ => (pwSum Fmt.f32 z 6 xs).1, fun z xs n => laneFlags Fmt.f32 z xs n)
  | .redminF64 _ _ => some (Fmt.f64, chosen Fmt.f64 false, own Fmt.f64)
  | .redminF32 _ _ => some (Fmt.f32, chosen Fmt.f32 false, own Fmt.f32)
  | .redmaxF64 _ _ => some (Fmt.f64, chosen Fmt.f64 true, own Fmt.f64)
  | .redmaxF32 _ _ => some (Fmt.f32, chosen Fmt.f32 true, own Fmt.f32)
  | .scanaddF64 _ _ => some (Fmt.f64, prefixSum Fmt.f64, prefixFlags Fmt.f64)
  | .scanaddF32 _ _ => some (Fmt.f32, prefixSum Fmt.f32, prefixFlags Fmt.f32)
  | _ => none
where
  /-- The smallest or largest value of a column, or its NaN (R229). -/
  chosen (f : Fmt) (larger z : Bool) (xs : List Nat) (_ : Nat) : Nat :=
    let ys := xs.map (f.ftzIn z)
    match nanPick f ys, ys with
    | some c, _ => c
    | none, [] => 0
    | none, y :: ys => ys.foldl (fun p q => (fPick f z larger p q).1) y
  own (f : Fmt) (z : Bool) (xs : List Nat) (n : Nat) : Flags := match xs[n]? with
    | some x => snanFlag f [f.ftzIn z x]
    | none => 0
  prefixSum (f : Fmt) (z : Bool) (xs : List Nat) (n : Nat) : Nat := (pwSum f z 6 (xs.take (n + 1))).1
  prefixFlags (f : Fmt) (z : Bool) (xs : List Nat) (n : Nat) : Flags :=
    (List.range xs.length).foldl (fun acc k => acc ||| laneFlags f z (xs.take (k + 1)) n) 0

/-- VOTE gives every lane the active lanes whose condition holds; reductions and scans write each lane from
the columns of the active lanes. -/
def foldTable : Instr → Option Effect
  | .vote _ n k => some fun u s => goes (wrote u
      (splat ((u.act &&& maskOf fun l => condHolds k.toNat (ccOf s.cur l n.toNat)).setWidth 64)) 0 s)
  | i => match foldOp i with
    | some (w, f) => some fun u s => goes (wrote u
        (lanesOf fun l => packEls w fun j => f (column u w j) (placeOfLane u l)) 0 s)
    | none => (foldFp i).map fun x u s =>
      let f := x.1
      let z := ftzOf s.cur
      (raised u (fun l => (List.range (64 / f.width)).foldl (fun acc j =>
          acc ||| x.2.2 z (column u f.width j) (placeOfLane u l)) 0) s).bind fun s =>
        goes (wrote u (lanesOf fun l => packEls f.width fun j => x.2.1 z (column u f.width j) (placeOfLane u l)) 0 s)

/-! ### Long-latency conversions and special functions (R67, R221, R225, R233 to R240) -/

/-- XCONV: value, flags and word poison of a lane. -/
def xconvOp : Instr → Option (Agent → U → Nat → Nat × Flags × Bool)
  | .rxfrom _ _ _ => some fun _ u l =>
      ((packEls 32 fun j => rxFromInt (signedOf 32 (el 32 (lane u.va l) j))).toNat, 0, false)
  | .rxto _ _ _ => some fun _ u l =>
      ((packEls 32 fun j =>
        let x := el 32 (lane u.va l) j
        if rxBad x then 0 else (rxToInt x % (2 ^ 32 : Nat)).toNat).toNat, 0,
       rxBad (el 32 (lane u.va l) 0) || rxBad (el 32 (lane u.va l) 1))
  | .f8pkE4m3 _ _ _ => some (narrowed Fmt.e4m3fmt)
  | .f8pkE5m2 _ _ _ => some (narrowed Fmt.e5m2)
  | .f8upE4m3 _ _ _ => some (widenedF8 Fmt.e4m3fmt)
  | .f8upE5m2 _ _ _ => some (widenedF8 Fmt.e5m2)
  | _ => none
where
  /-- Four bf16 packed to FP8 above the upper half of d (R225). -/
  narrowed (g : Fmt) (a : Agent) (u : U) (l : Nat) : Nat × Flags × Bool :=
    let r := packFl 8 4 fun j => f8pack g (rmOf a) (ftzOf a) (el 16 (lane u.va l) j)
    (r.1 * 2 ^ 32 + (lane u.vd l).toNat / 2 ^ 32, r.2, false)
  /-- Four FP8 widened exactly to bf16 (R225). -/
  widenedF8 (g : Fmt) (_ : Agent) (u : U) (l : Nat) : Nat × Flags × Bool :=
    let r := packFl 16 4 fun j => fConvert g Fmt.bf16 .rne false (el 8 (lane u.va l) j)
    (r.1, r.2, false)

/-- The function number of a special function (R233). -/
def sfuFn : Instr → Option Nat
  | .exp2 _ _ _ _ => some 0
  | .log2 _ _ _ _ => some 1
  | .rcp _ _ _ _ => some 2
  | .rsq _ _ _ _ => some 3
  | .sqrt _ _ _ _ => some 4
  | .sin _ _ _ _ => some 5
  | .cos _ _ _ _ => some 6
  | .tanh _ _ _ _ => some 7
  | .sigm _ _ _ _ => some 8
  | .gelu _ _ _ _ => some 9
  | .silu _ _ _ _ => some 10
  | .erf _ _ _ _ => some 11
  | _ => none

/-- The answer that the SFU port gave this unit, which waits for it because a trap is enabled (R240). -/
def sfuAnswer (u : U) (s : State) : Option Look :=
  s.cur.check.filter fun l => l.same (sfuAsk s u) && l.phase == .held && (laterPlace u s).isSome

/-- An XCONV result is held to the end of its window with its flags. A special function is a request at the
SFU port; with a trap enable set the gang waits at the unit for the answer, and goes on with it, in a window of 0,
where it raises no enabled flag (R240). -/
def laterTable (i : Instr) : Option Effect := match xconvOp i with
  | some f => some fun u s =>
      let fl := allFlags u fun l => (f s.cur u l).2.1
      if fl &&& trapsOn s != 0 then none
      else goes (described u u.f .held (splat 0) (lanesOf fun l => BitVec.ofNat 64 (f s.cur u l).1)
        (u.act &&& maskOf fun l => (f s.cur u l).2.2) 0 [] fl s)
  | none => (sfuFn i).map fun _ u s =>
      if trapsOn s = 0 then goes (described u u.f .issued u.va (splat 0) 0 0 [] 0 s)
      else (sfuAnswer u s).bind fun l =>
        if l.flg &&& trapsOn s != 0 then none
        else goes ((described u 0 .held u.va l.val 0 0 [] l.flg s).map fun s => { s with cur := { s.cur with check := none } })

def laterTraps (i : Instr) : Option (U → State → Option (BitVec 8 × Word)) := match xconvOp i with
  | some f => some fun u s => fpTrap u (fun l => (f s.cur u l).2.1) s
  | none => (sfuFn i).map fun fn u s =>
      if trapsOn s = 0 then none
      else (sfuAnswer u s).bind fun l =>
        if l.flg &&& trapsOn s = 0 then none
        else fpTrap u (fun l => (sfuLane u.op fn (rmOf s.cur) (ftzOf s.cur) (lane u.va l)).2) s

/-! ### The carry chain (R267 to R282) -/

/-- The limbs of a group, one per lane; 1 while the gang is not bound. -/
def limbs (s : State) : Nat := (groupSize s.cur).getD 1

/-- A group operand as an unsigned and as a signed number of 64·n bits (R267, R271). -/
def groupNat (n reg : Nat) (v : Lanes) (g : Nat) : Nat :=
  if 96 ≤ reg then ((lane v 0).toInt % (2 ^ (64 * n) : Nat)).toNat
  else (List.range n).foldl (fun acc j => acc + (lane v (n * g + j)).toNat * 2 ^ (64 * j)) 0
def groupSigned (n reg : Nat) (v : Lanes) (g : Nat) : Int := signedOf (64 * n) (groupNat n reg v g)

/-- Long arithmetic of group g over n limbs: the result and N, Z, C, V (R276, R277). -/
def longOp : Instr → Option (Agent → U → Nat → Nat → Nat × Nat)
  | .ladd _ _ _ => some fun a u n g =>
      let c := (carryIn u a false (n * g)).toNat
      exact (64 * n) (groupSigned n u.a u.va g + groupSigned n u.b u.vb g + c)
        (decide (2 ^ (64 * n) ≤ groupNat n u.a u.va g + groupNat n u.b u.vb g + c))
  | .ladc _ _ _ => some fun a u n g =>
      let c := (carryOf a n g u.b).toNat
      exact (64 * n) (groupSigned n u.a u.va g + c) (decide (2 ^ (64 * n) ≤ groupNat n u.a u.va g + c))
  | .lsub _ _ _ => some fun a u n g =>
      let c := 1 - (carryIn u a true (n * g)).toNat
      exact (64 * n) (groupSigned n u.a u.va g - groupSigned n u.b u.vb g - c)
        (decide (groupNat n u.b u.vb g + c ≤ groupNat n u.a u.va g))
  | .lsbc _ _ _ => some fun a u n g =>
      let c := 1 - (carryOf a n g u.b).toNat
      exact (64 * n) (groupSigned n u.a u.va g - c) (decide (c ≤ groupNat n u.a u.va g))
  | .lneg _ _ => some fun _ u n g => exact (64 * n) (-groupSigned n u.a u.va g) (decide (groupNat n u.a u.va g = 0))
  | .labs _ _ => some fun _ u n g => exact (64 * n) (groupSigned n u.a u.va g).natAbs false
  | .lshl _ _ _ => some fun _ u n g => shlOp (64 * n) false (groupNat n u.a u.va g) (lane u.vb (n * g)).toNat 0
  | .lshr _ _ _ => some fun _ u n g => shrOp (64 * n) false (groupNat n u.a u.va g) (lane u.vb (n * g)).toNat 0
  | .lsar _ _ _ => some fun _ u n g => sarOp (64 * n) false (groupNat n u.a u.va g) (lane u.vb (n * g)).toNat 0
  | .lmuls _ _ _ => some fun _ u n g => exact (64 * n) (groupSigned n u.a u.va g * (lane u.vb (n * g)).toInt) false
  | .lmacs _ _ _ => some fun _ u n g =>
      exact (64 * n) (groupSigned n u.d u.vd g + groupSigned n u.a u.va g * (lane u.vb (n * g)).toInt) false
  | .lmull _ _ _ => some fun _ u n g => exact (64 * n) (groupSigned n u.a u.va g * groupSigned n u.b u.vb g) false
  | .lmulh _ _ _ => some fun _ u n g =>
      logic (64 * n) (groupSigned n u.a u.va g * groupSigned n u.b u.vb g / (2 ^ (64 * n) : Nat) % (2 ^ (64 * n) : Nat)).toNat
  | .lfromxa _ _ _ => some fun _ u n g =>
      ((((lane u.va (n * g)).toNat + (2 ^ 64 : Nat) * (lane u.vb (n * g)).toInt) % (2 ^ (64 * n) : Nat)).toNat, 0)
  | .lfromi64 _ _ => some fun _ u n g => (((lane u.va (n * g)).toInt % (2 ^ (64 * n) : Nat)).toNat, 0)
  | _ => none
where
  /-- C of condition register k in the lane of a group's limb 0. -/
  carryOf (a : Agent) (n g k : Nat) : Bool := ccOf a (n * g) k / 2 % 2 == 1

/-- LTOF of a group (R281): mode 0 a number scaled by 2^-36, 1 an accumulator, 2 an integer. -/
def toFloat (f : Fmt) (a : Agent) (u : U) (n g : Nat) : Nat × Flags :=
  if u.b = 1 then
    let c := Acc.of u.va g
    if c.nan then (if f.width = 32 then c.nanBits else nanTo Fmt.f32 f c.nanBits, 0)
    else if (c.pinf && c.ninf) || c.ovf then (f.qnan, flagIV)
    else if c.pinf then (f.infinity false, 0)
    else if c.ninf then (f.infinity true, 0)
    else roundInt f (rmOf a) c.x (-160)
  else roundInt f (rmOf a) (groupSigned n u.a u.va g) (if u.b = 0 then -36 else 0)

/-- Every lane takes its own limb of its group's result. -/
def limbsOf (u : U) (n : Nat) (r : Nat → Nat) (s : State) : Option State :=
  wrote u (lanesOf fun l => BitVec.ofNat 64 (r (l / n) / 2 ^ (64 * (l % n)))) 0 s

def chainTable : Instr → Option Effect
  | .bind _ => some fun u s => goes (
      if u.imm = 0 then some { s with cur := { s.cur with ls := 0 } }
      else if [2, 4, 8, 16, 32].contains u.imm then
        let n := u.imm.toNat
        only (splitBy n s.cur.em ||| splitBy n s.cur.xm == 0)
          { s with cur := { s.cur with ls := BitVec.ofNat 8 (0x80 + n.log2) } }
      else none)
  | .lcmp k _ _ => some fun u s =>
      let n := limbs s
      some (ccIs k.toNat u.act (fun l => (exact (64 * n) (groupSigned n u.a u.va (l / n) - groupSigned n u.b u.vb (l / n))
        (decide (groupNat n u.b u.vb (l / n) ≤ groupNat n u.a u.va (l / n)))).2) s, none)
  | .laccf32 _ _ => some fun u s =>
      let r := fun (g : Nat) => (splitEls 32 16 (groupNat 8 u.a u.va g)).foldl Acc.add (Acc.of u.vd g, (0 : Flags))
      (raised u (fun l => (r (l / 8)).2) s).bind fun s' =>
        (limbsOf u (limbs s) (fun g => (r g).1.limbs) s').map fun s' => (flagged u (fun _ => 0) s', none)
  | .ltof32 _ _ _ => some fun u s => float Fmt.f32 u s
  | .ltof64 _ _ _ => some fun u s => float Fmt.f64 u s
  | .ltoxa _ _ _ => some fun u s => goes (wrote u (lanesOf fun l => lane u.va (l / limbs s * limbs s + u.b)) 0 s)
  | i => (longOp i).map fun f u s =>
      let n := limbs s
      (limbsOf u n (fun g => (f s.cur u n g).1) s).map fun s' => (flagged u (fun l => (f s.cur u n (l / n)).2) s', none)
where
  float (f : Fmt) (u : U) (s : State) : Option (State × Option Word) :=
    let r := toFloat f s.cur u (limbs s)
    (raised u (fun l => (r (l / limbs s)).2) s).bind fun s' =>
      goes (wrote u (lanesOf fun l => BitVec.ofNat 64 (r (l / limbs s)).1) 0 s')

end Sys2Proof.Claims
end

