-- ==== Sys2Proof/Claims/Memory.lean ====
section
/-!
DEFINITION. What the statements say of the load-store engine: loads (R246, R247), stores (R118, R125,
R248), atomics (R123, R249, R250), fences (R122) and operations on ranges (R251).
-/

namespace Sys2Proof.Claims

open Sys2Proof.Machine

/-! ### Addresses (R246) -/

/-- The address of each active lane: its own pointer and the offset in elements. -/
def laneAddrs (u : U) (size : Nat) : List (Nat × Word) :=
  (lanesIn u.act).map fun l => (l, lane u.va l + BitVec.ofInt 64 u.imm * BitVec.ofNat 64 size)

/-- The addresses of LDV and STV: 8 bytes a lane from one pointer, the offset in 256-byte lines. -/
def lineAddrs (u : U) : List (Nat × Word) :=
  (lanesIn u.act).map fun l => (l, lane u.va 0 + 256 * BitVec.ofInt 64 u.imm + BitVec.ofNat 64 (8 * l))

/-- A place of global memory. -/
def isGlob (t : Target) : Bool := match t.place with | .glob _ => true | _ => false

/-- The accesses of a load, store or atomic, in order after its agent's earlier atomic and acquiring load
(R120, R124), checked as a whole (R253 to R260). -/
def accesses (xs : List (Nat × Word)) (k : Access) (size : Nat) (vec : Bool) (s : State) : Option (List Target × State) :=
  if s.cur.atom.isSome || s.cur.looks.any (fun l => l.major == 0x3A && l.loading) then none
  else ran (checkAccesses xs k size vec) s

/-! ### Loads (R247) -/

def loadOp : Instr → Option (Nat × Bool)
  | .ldg w _ _ _ _ => some (2 ^ w.toNat, false)
  | .ldv _ _ _ _ => some (8, true)
  | .lda _ _ _ _ => some (8, false)
  | _ => none

/-- Word poison of a lane is that of its bound group (R263, R275). -/
def grouped (s : State) (lanes p : Mask) : Mask :=
  match groupSize s.cur with
  | none => p
  | some n => maskOf fun l => has lanes l && (List.range n).any fun j => has p (l / n * n + j)

/-- A load takes a descriptor: the lanes outside global memory have their data, the others their homes to
be read at. An LDA with no lane in global memory acquires at once. -/
def loaded (size : Nat) (vec : Bool) (u : U) (s : State) : Option State := do
  let (ts, s1) ← accesses (if vec then lineAddrs u else laneAddrs u size) .read size vec s
  let (_, s1) ← ran (needOwn ts) s1
  let here := ts.filter fun t => !isGlob t
  let away := ts.filter isGlob
  let got := fun l => ((here.find? (·.lane == l)).map fun t => readPlace s1 s1.cur t.place size).getD (0, false)
  let fpc := ts.any fun t => match t.place with | .own off => off / 8 == 3 | _ => false
  if fpc && s1.cur.looks.any (fun l => 0x29 ≤ l.major && l.major < 0x30 && l.phase != .held && l.phase != .saved) then none
  else
    let s2 ← described u u.f (if away = [] then .held else .outstanding)
      (if vec then lanesOf fun l => if l = 0 then lane u.va 0 + 256 * BitVec.ofInt 64 u.imm else 0
        else lanesOf fun l => ((ts.find? (·.lane == l)).map (·.va)).getD 0)
      (lanesOf fun l => (got l).1) (if away = [] then grouped s1 u.act (maskOf fun l => (got l).2) else maskOf fun l => (got l).2)
      (maskOf fun l => here.any (·.lane == l))
      (away.map fun t => (t.lane, t.pa, t.key, t.t)) 0 s1
    -- a slot of the own context that was read counts as written, with zeros (R153)
    let touch := fun (a : Agent) (t : Target) => match t.place with
      | .own off => if 0x1000 ≤ off && !a.isWritten ((off - 0x1000) / 256) then a.setSlot ((off - 0x1000) / 256) 0xFFFFFFFF (splat 0) 0 else a
      | _ => a
    let s3 : State := { s2 with cur := here.foldl touch s2.cur }
    some (if u.op = 0x3A && away = [] then s3.acquire s3.cur.id else s3)

def loadTable (i : Instr) : Option Effect := (loadOp i).map fun p u s => goes (loaded p.1 p.2 u s)

/-! ### Stores (R118, R125, R248) -/

def storeOp : Instr → Option (Nat × Bool)
  | .stgI8 _ _ _ => some (1, false)
  | .stgI16 _ _ _ => some (2, false)
  | .stgI32 _ _ _ => some (4, false)
  | .stgI64 _ _ _ => some (8, false)
  | .stv _ _ _ => some (8, true)
  | .stl _ _ _ => some (8, false)
  | _ => none

/-- The lanes whose store is marked: word-poisoned, or of a bound group with a poisoned lane (R263). -/
def markedLanes (u : U) (s : State) : Mask := grouped s u.act (u.pd &&& u.act)

/-- A store: the lanes write each place as one access, a higher lane's byte over a lower one's (R125); what goes to
global memory is on its way to its homes. STL stores after a release (R121). -/
def stored (size : Nat) (vec : Bool) (u : U) (s : State) : Option State := do
  let (ts, s1) ← accesses (if vec then lineAddrs u else laneAddrs u size) .write size vec s
  if u.op = 0x3B && !quiet s1 then none
  else
    let (_, s2) ← ran (needOwn ts) s1
    some (s2.putLanes ts size u.vd (markedLanes u s2))

def storeTable (i : Instr) : Option Effect := (storeOp i).map fun p u s => goes (stored p.1 p.2 u s)

/-! ### Atomics (R123, R249, R250) -/

def atomOp : Instr → Option (BitVec 1)
  | .atomAdd w _ _ _ | .atomSub w _ _ _ | .atomAnd w _ _ _ | .atomOr w _ _ _ | .atomXor w _ _ _ | .atomMin w _ _ _
  | .atomMax w _ _ _ | .atomMinu w _ _ _ | .atomMaxu w _ _ _ | .atomXchg w _ _ _ | .atomCas w _ _ _ => some w
  | _ => none

/-- The lanes outside global memory performed one after another, with their old values. -/
def atomsHere (u : U) (n : Nat) : List Target → State → List (Nat × Word × Bool) × State
  | [], s => ([], s)
  | t :: ts, s =>
    let r := atomPlace s t.place u.f n (lane u.vb t.lane).toNat (lane u.vd t.lane).toNat
    let rest := atomsHere u n ts r.2
    ((t.lane, r.1.1, r.1.2) :: rest.1, rest.2)

/-- An atomic: its lanes outside global memory are performed in lane order, the others sent to their homes;
the old values go to the destination once all are known. -/
def atomTable (i : Instr) : Option Effect := (atomOp i).map fun w u s => goes (do
  let n := if w = 1 then 64 else 32
  let (ts, s1) ← accesses ((lanesIn u.act).map fun l => (l, lane u.va l)) (.atomic u.f) (n / 8) false s
  let r := atomsHere u n (ts.filter fun t => !isGlob t) s1
  let away := ts.filter isGlob
  match regRef s1.cur u.d with
  | none => some r.2
  | some d =>
    -- a poisoned lane poisons its bound group (R263)
    if away = [] then some { r.2 with cur := r.2.cur.putOld d (groupOld r.2.cur.ls r.1) }
    else some { r.2 with nextOrd := r.2.nextOrd + 1, cur := { r.2.cur with atom := some {
      op := BitVec.ofNat 4 u.f, w := w, dest := d, done := r.1, ord := r.2.nextOrd, ls := r.2.cur.ls
      lanes := away.map fun t => ⟨t.lane, t.pa, t.key, t.t, lane u.vb t.lane, lane u.vd t.lane⟩ } } })

/-! ### Fences (R122) -/

/-- What a fence waits for: the agent's engine operations, which for FENCE.DEV go with its stores at host memory, its
stores; and whether it acquires. -/
def fenceOp : Instr → Option (Bool × Bool × Bool)
  | .fenceAcq => some (false, false, true)
  | .fenceRel => some (false, true, false)
  | .fenceAr => some (false, true, true)
  | .fenceEng => some (true, false, true)
  | .fenceDev => some (true, true, true)
  | _ => none

/-- A fence with no active lane does nothing; any other ends once what it waits for is done. -/
def fenceTable (i : Instr) : Option Effect := (fenceOp i).map fun f u s =>
  if u.act = 0 then some (s, none)
  else if s.cur.atom.isSome || s.cur.looks.any (fun l => l.major == 0x3A && l.loading) then none
  else if (f.1 && !enginesDone s s.cur) || (f.2.1 && !quiet s) then none
  else if f.1 && f.2.1 && s.pend.any (fun p => p.agent == s.cur.id && isHost p.pa) then none
  else some (if f.2.2 then s.acquire s.cur.id else s, none)

/-! ### Ranges (R251) -/

/-- What DISCARD, WBACK and ZERO send to the homes of a translated piece of global memory, and whether they need
write permission. -/
def rangeOp : Instr → Option (Bool × (Nat → PendOp))
  | .discard _ _ => some (true, .discard)
  | .wback _ _ => some (false, .wback)
  | .zero _ _ => some (true, .zero)
  | _ => none

/-- A range of n bytes from lo, in order after the agent's earlier accesses: its pieces, page by page, are on
their way to their homes as stores are, and the agent does not wait for them; with no active lane or no byte, nothing
happens. ZERO of the team's own scratchpad acts at once. -/
def ranged (write : Bool) (op : Nat → PendOp) (u : U) (s : State) : Option State :=
  let lo := (lane u.va 0).toNat
  let n := (lane u.vb 0).toNat
  if u.act = 0 || n = 0 then some s
  else if 2 ^ 26 < n || s.cur.atom.isSome || s.cur.looks.any (fun l => l.major == 0x3A && l.loading)
      || (firstBad s s.cur lo (lo + n) (u.f = 3)).isSome then none
  else match placeOf s s.cur (BitVec.ofNat 64 lo) with
    | .pad t c off =>
      if (pagesIn lo (lo + n)).any fun v =>
          let x := max lo (v * 2 ^ 16)
          locked s s.cur (.pad t c (off + (x - lo))) (min (lo + n) (v * 2 ^ 16 + 2 ^ 16) - x) true then none
      else some ((s.modTeam t fun x => { x with scratch := x.scratch.zero off (off + n) }).padEvent t off n)
    | _ => do
      let (ps, s1) ← ran (checkRange lo (lo + n) write) s
      some { s1 with
        nextOrd := s1.nextOrd + ps.length
        pend := s1.pend ++ ps.mapIdx fun i p => ({
          op := op (p.2.1 - p.1), agent := s1.cur.id, core := s1.cur.l1Core, va := BitVec.ofNat 64 p.1
          pa := p.2.2.pa + p.1 % 2 ^ 16, be := 0, val := 0, poison := false, key := p.2.2.key, t := p.2.2.t
          registered := false, berth := (s1.treeOf s1.cur).1, cls := s1.cur.cls, grid := s1.cur.grid, ord := s1.nextOrd + i } : Pending) }

def rangeTable (i : Instr) : Option Effect := (rangeOp i).map fun p u s => goes (ranged p.1 p.2 u s)

end Sys2Proof.Claims
end

