-- ==== Sys2Proof/Claims/Traps.lean ====
section
/-!
DEFINITION. What the statements say of units that do not complete: traps whose TVAL the manual gives, traps whose
TVAL it does not give, poisoned operands (R105, R259), the checks of memory accesses (R258), and units that
stay at issue until what they wait for is done.
-/

namespace Sys2Proof.Claims

open Sys2Proof.Machine

/-! ### Two more ways to end -/

/-- A trap whose cause has no TVAL in the manual: TVAL is a free value (log 2). -/
def freeTrap (c : BitVec 8) (s : State) : State := (s.takeFree.2).takeTrap c (Config.freeWord s.takeFree.1)

/-- Every instruction of a table traps with its cause, TVAL being a free value: whenever its unit issues and the
table gives a cause, exec answers the state before the unit with that trap taken. -/
def TrapsFree (table : Instr → Option (U → State → Option (BitVec 8))) : Prop :=
  ∀ (i : Instr) (e : U → State → Option (BitVec 8)) (s s1 : State) (u : U) (c : BitVec 8),
    table i = some e → Issues i s u s1 → e u s1 = some c → exec i s = .next (freeTrap c s)

/-- Every instruction of a table waits at issue as the table says: whenever its unit issues and the table gives a wait
with what starts meanwhile, exec answers the state before the unit with that started, and the agent held. -/
def Holds (table : Instr → Option (U → State → Option (Wait × (State → State)))) : Prop :=
  ∀ (i : Instr) (e : U → State → Option (Wait × (State → State))) (s s1 : State) (u : U) (w : Wait) (f : State → State),
    table i = some e → Issues i s u s1 → e u s1 = some (w, f) → (f s).cur.run = .active →
      exec i s = .next { f s with cur := { (f s).cur with run := .holding w (f s).clk } }

/-- A cause raised where a condition holds. -/
def raisedIf {α : Type} (c : Bool) (x : α) : Option α := if c then some x else none

/-! ### Causes without a TVAL (R157, R171, R183, R187, R251, R357 to R362) -/

/-- The registers of a CTX instruction are out of order (R157), or pin more than 128 slots (R160). -/
def badCover (u : U) (s : State) (pins : Bool) : Option (BitVec 8) :=
  if u.b < u.a then some 0x44
  else
    let is := (List.range (u.b - u.a + 1)).map (s.cur.wb.toNat + u.a + ·)
    raisedIf (pins && 128 < ({ s.cur with pin := is.foldl (fun m i => setBit m i true) s.cur.pin } : Agent).pins) 0x46

/-- A jump through a vector register whose active lanes disagree, or none of which is active (R171). -/
def diverged (u : U) : Option (BitVec 8) :=
  raisedIf (u.a < 96 && (u.act == 0 || (lanesIn u.act).any fun l => lane u.va l != lane u.va ((lanesIn u.act).headD 0))) 0x14

/-- SPAWN turned away: its image (R46), what it may not name (R357), or no entry, context or gang index free. -/
def spawnCause (u : U) (s : State) : Option (BitVec 8) := do
  let n := u.a - 96
  let x := fun i => s.cur.scalar (n + i)
  let g ← s.gridOf s.cur.grid
  let t ← s.teamOf s.cur.team
  if !free [n, n + 1, n + 2, n + 3] s || (List.range 4).any (fun i => s.cur.spois.getLsbD (n + i)) then none
  else if imageBad g (x 0) (x 1) (x 2) then some 0x88
  else if bits (x 2) 47 40 = 1 || bits (x 2) 47 40 = 2 || x 1 ≠ 0 || bits (x 2) 63 48 ≠ s.cur.stage.toNat then some 0x89
  else raisedIf ((s.freeEntry g).isNone || (bits (x 2) 47 40 = 0 && (g.freeCtx = [] || 32 ≤ t.count.toNat))) 0x8A

/-- JOIN of a reference that names nothing to join (R356), or of a counter at zero (R358). -/
def joinCause (u : U) (s : State) : Option (BitVec 8) := match s.resolve s.cur.grid (lane u.va 0) with
  | .stale => some 0x8C
  | .entry r =>
    if r.kind = 3 || (r.kind = 0 && ((s.agent r.agent).map Agent.onJoins).getD false) then raisedIf (r.join == 0) 0x8B
    else some 0x8C
  | .gang a => if !a.onJoins then none else match s.recordOf a.record with
    | some r => raisedIf (r.join == 0) 0x8B
    | none => some 0x8C

def causeTable : Instr → Option (U → State → Option (BitVec 8))
  -- a barrier with an active set other than the gang's live lanes
  | .barT | .barQ | .barto _ _ => some fun _ s => raisedIf (s.cur.em != ~~~s.cur.xm) 0x13
  | .jmpr _ | .callr _ _ | .ret _ => some fun u _ => diverged u
  | .cwb x _ _ => some fun u s => if x = 1 then none else badCover u s false
  | .cdrop _ _ | .cunpin _ _ => some fun u s => badCover u s false
  | .cpin _ _ => some fun u s => badCover u s true
  | .region _ _ => some fun u s =>
      if u.imm < 0 || 96 < (u.d : Int) + u.imm then some 0x45
      else raisedIf (128 < ({ s.cur with regionFirst := BitVec.ofNat 10 (s.cur.wb.toNat + u.d), regionCount := BitVec.ofInt 7 u.imm } : Agent).pins) 0x46
  | .qbind _ _ => some fun u s =>
      let v := (lane u.va 0).toNat
      let tile := s.cur.prof == .tile
      raisedIf (v < (if tile then 1024 else 256) && v.testBit 7
        && (!queueFits s s.cur (v % 64) || (tile && (s.member s.cur.team (v / 256 % 4)).isNone))) 0x8F
  | .qclose _ => some fun u s =>
      if !(s.cur.kbyte (u.d - 120)).getLsbD 7 then some 0x90
      else raisedIf (s.portTeam s.cur (s.cur.kcore.extractLsb' (2 * (u.d - 120)) 2).toNat).isNone 0x8F
  | .spawn _ _ => some spawnCause
  | .join _ _ => some joinCause
  | .parkJoin _ => some fun u _ => raisedIf (decide (2 ^ 31 ≤ (lane u.va 0).toNat)) 0x88
  | .takew _ => some fun u s =>
      let n := u.d - 96
      raisedIf (free [n, n + 1, n + 2, n + 3] s && (s.gridOf s.cur.grid).any (!·.persist) && (s.teamOf s.cur.team).isSome) 0x8E
  | .discard _ _ | .wback _ _ | .zero _ _ => some fun u _ => raisedIf (u.act != 0 && decide (2 ^ 26 < (lane u.vb 0).toNat)) 0x2D
  -- the last version of a tensor (R417)
  | .tvbump _ _ _ => some fun u s =>
      let x := lane u.va 0
      let t := s.tensor (x.extractLsb' 16 4) (x.setWidth 12)
      raisedIf (quiet s && !(s.rewraps.any (·.1 == s.cur.id)) && bits x 15 12 == 0 && bits x 63 20 == 0 && s.fwSeg s.cur (bits x 19 16)
        && decide ((lane u.vb 0).toNat < 2) && t.v && t.shut && t.ver == 0xFFFFFFFF) 0xBB
  | _ => none

/-! ### Causes with a TVAL (R55, R262, R269, R359, R419) -/

/-- A release finds every store registered but one of a peer's, which was never (R262): its address. -/
def lostPeer (s : State) : Option (BitVec 8 × Word) := if s.released s.cur.id then s.cur.lost.map fun va => (0x2B, va) else none

/-- The window would leave 0 to NSLOTS − 96 (R55). -/
def windowLeaves (n : Int) (u : U) (s : State) : Option (BitVec 8 × Word) :=
  raisedIf (n < 0 || (s.cur.nslots.toNat : Int) - 96 < n) (0x0A, u.w.setWidth 64)

/-- An address that PARK.addr or WAKE may not name: not a multiple of 4, or outside global memory (R359, R360). -/
def watchBad (u : U) (s : State) : Option (BitVec 8 × Word) :=
  let va := lane u.va 0
  raisedIf (va.toNat % 4 != 0 || !(match placeOf s s.cur va with | .glob _ => true | _ => false)) (0x8D, va)

def operandTraps : Instr → Option (U → State → Option (BitVec 8 × Word))
  | .wbase _ => some fun u s => windowLeaves (s.cur.wb.toNat + u.imm) u s
  | .wbaseS _ _ => some fun u s => windowLeaves ((lane u.va 0).toInt + u.imm) u s
  | .mts _ _ => some fun u s => if u.d = 2 && u.full then windowLeaves (lane u.va 0).toNat u s else none
  | .bind _ => some fun u s =>
      if u.imm = 0 then none
      else if [2, 4, 8, 16, 32].contains u.imm then
        let split := splitBy u.imm.toNat s.cur.em ||| splitBy u.imm.toNat s.cur.xm
        raisedIf (split != 0) (0x50, split.setWidth 64)
      else some (0x51, BitVec.ofInt 64 u.imm)
  | .qbind _ _ => some fun u s =>
      raisedIf (decide ((if s.cur.prof == .tile then 1024 else 256) ≤ (lane u.va 0).toNat)) (0x02, u.w.setWidth 64)
  | .parkAddr _ _ => some fun u s =>
      if s.cur.atom.isSome || s.cur.looks.any (fun l => l.major == 0x3A && l.loading) then none else watchBad u s
  | .wake _ => some watchBad
  | .fenceRel | .fenceAr => some fun u s =>
      if u.act = 0 || s.cur.atom.isSome || s.cur.looks.any (fun l => l.major == 0x3A && l.loading) then none else lostPeer s
  | .staged => some fun _ s => lostPeer s
  | .barT | .barQ => some fun _ s => if s.cur.em != ~~~s.cur.xm then none else lostPeer s
  -- STRIP is the harbourmaster's (R419); its operands name a quiesced berth without a VF, and a page of HBM (R431)
  | .strip _ _ _ => some fun u s =>
      let x := lane u.va 0
      let y := lane u.vb 0
      if !s.cur.isHm then some (0x05, u.w.setWidth 64)
      else if !quiet s || s.strips.any (·.1 == s.cur.id) then none
      else if 16 ≤ x.toNat || (s.berth (x.setWidth 4)).state ≠ 3 || s.vfsOf (x.setWidth 4) ≠ 0 then some (0xBA, x)
      else raisedIf (decide (y.toNat % 4096 ≠ 0) || decide (2 ^ 48 ≤ y.toNat) || !isHbm y.toNat || !s.there y.toNat
        || !s.there (y.toNat + 3884)) (0xBA, y)
  -- a segment that the core may not name, a REWRAP above 1, and an entry that is not valid and shut (R417, R419)
  | .tvbump _ _ _ => some fun u s =>
      let x := lane u.va 0
      let y := lane u.vb 0
      let t := s.tensor (x.extractLsb' 16 4) (x.setWidth 12)
      if !quiet s || s.rewraps.any (·.1 == s.cur.id) then none
      else if bits x 15 12 ≠ 0 || bits x 63 20 ≠ 0 || !s.fwSeg s.cur (bits x 19 16) then some (0xBA, x)
      else if 2 ≤ y.toNat then some (0xBA, y)
      else raisedIf (!t.v || !t.shut) (0xBA, x)
  | .hashb _ _ _ => some fun u s =>
      let ctl := lane u.vd 0
      if !quiet s then none
      else if bits ctl 61 32 ≠ 0 || (!ctl.getLsbD 63 && ctl.toNat % 2 ^ 32 % 128 ≠ 0) then some (0xBA, ctl)
      else raisedIf (sramOff (lane u.va 0) 128).isNone (0xBA, lane u.va 0)
  | .sign _ _ _ => some fun u s =>
      if !quiet s then none
      else if (sramOff (lane u.va 0) 48).isNone then some (0xBA, lane u.va 0)
      else raisedIf (sramOff (lane u.vb 0) 3373).isNone (0xBA, lane u.vb 0)
  | _ => none

/-! ### Memory accesses (R258, R259) -/

/-- The loads, stores and atomics: what they do, the size of each lane's access, and whether they are LDV or STV. -/
def memOp (i : Instr) : Option (Access × Nat × Bool) :=
  match loadOp i, storeOp i, i with
  | some (n, vec), _, _ => some (.read, n, vec)
  | _, some (n, vec), _ => some (.write, n, vec)
  | _, _, .atomAdd w _ _ _ => some (.atomic 0, if w = 1 then 8 else 4, false)
  | _, _, .atomSub w _ _ _ => some (.atomic 1, if w = 1 then 8 else 4, false)
  | _, _, .atomAnd w _ _ _ => some (.atomic 2, if w = 1 then 8 else 4, false)
  | _, _, .atomOr w _ _ _ => some (.atomic 3, if w = 1 then 8 else 4, false)
  | _, _, .atomXor w _ _ _ => some (.atomic 4, if w = 1 then 8 else 4, false)
  | _, _, .atomMin w _ _ _ => some (.atomic 5, if w = 1 then 8 else 4, false)
  | _, _, .atomMax w _ _ _ => some (.atomic 6, if w = 1 then 8 else 4, false)
  | _, _, .atomMinu w _ _ _ => some (.atomic 7, if w = 1 then 8 else 4, false)
  | _, _, .atomMaxu w _ _ _ => some (.atomic 8, if w = 1 then 8 else 4, false)
  | _, _, .atomXchg w _ _ _ => some (.atomic 9, if w = 1 then 8 else 4, false)
  | _, _, .atomCas w _ _ _ => some (.atomic 10, if w = 1 then 8 else 4, false)
  | _, _, _ => none

/-- A lane's access reads, or writes. -/
def readsMem (k : Access) : Bool := match k with | .write => false | _ => true
def writesMem (k : Access) : Bool := match k with | .read => false | _ => true

/-- Class 2: the access of n bytes lies in no aperture, or leaves the one it begins in; an atomic on the own context. -/
def leavesAperture (s : State) (k : Access) (n : Nat) (x : Nat × Word) : Bool := match placeOf s s.cur x.2 with
  | .bad => true
  | .own off => (match k with | .atomic _ => true | _ => false) || decide (0x1000 + 256 * s.cur.nslots.toNat < off + n)
  | .glob va => s.cur.prof != .firmware && decide (0xFE000000000000 < va + n)
  | .pad _ _ off => (s.gridOf s.cur.grid).all fun g => decide (g.scratch < off + n)
  | .sram off => decide (2 ^ 18 < off + n)

/-- Class 3: an address that is no multiple of the size; in the own context 0x43, with a base of LDV and STV that is no
multiple of 256, and 0x42 for header fields that the access may not touch (R252, R154). -/
def badlyPlaced (s : State) (k : Access) (n : Nat) (vec : Bool) (x : Nat × Word) : Option (BitVec 8) := match placeOf s s.cur x.2 with
  | .own off =>
    if off % n ≠ 0 || (vec && ((off : Int) - 8 * x.1) % 256 ≠ 0) then some 0x43
    else raisedIf (off < 0x1000 && (List.range ((n + 7) / 8)).any fun i => !headerOpen (off + 8 * i) k) 0x42
  | _ => raisedIf (x.2.toNat % n != 0) 0x21

/-- The pages of global memory that a lane's access touches. -/
def itsPages (s : State) (n : Nat) (x : Nat × Word) : List Nat :=
  if isGlob ⟨0, 0, placeOf s s.cur x.2, 0, 0, 0⟩ then
    let p := x.2.toNat / 2 ^ 16
    let q := (x.2.toNat + n - 1) / 2 ^ 16
    if q = p then [p] else [p, p + 1]
  else []

/-- Class 4: a page whose stage-1 walk failed. -/
def unmapped (s : State) (n : Nat) (x : Nat × Word) : Bool := (itsPages s n x).any fun v => match s.pageOf s.cur v with
  | some (.error e) => e.1 == 0x22
  | _ => false

/-- Class 5: a page that may not be read, or written, where the access does. -/
def forbidden (s : State) (k : Access) (n : Nat) (x : Nat × Word) : Option (BitVec 8) := (itsPages s n x).findSome? fun v =>
  match s.pageOf s.cur v with
  | some (.ok p) => if readsMem k && !p.r then some 0x23 else raisedIf (writesMem k && !p.w) 0x24
  | _ => none

/-- Class 6: an atomic other than ADD, XCHG and CAS on host memory. -/
def hostAtomic (s : State) (k : Access) (n : Nat) (x : Nat × Word) : Bool := match k, itsPages s n x with
  | .atomic op, v :: _ => (match s.pageOf s.cur v with
    | some (.ok p) => isHost (p.pa + x.2.toNat % 2 ^ 16) && op ≠ 0 && op ≠ 9 && op ≠ 10
    | _ => false)
  | _, _ => false

/-- Class 7: a write to a tensor that is shut (R416). -/
def shutTensor (s : State) (k : Access) (n : Nat) (x : Nat × Word) : Bool := writesMem k && (itsPages s n x).any fun v =>
  match s.pageOf s.cur v with
  | some (.ok p) => sealedFor s s.cur p
  | _ => false

/-- TVAL: the address in [55:0] and the lane in [60:56] (R259); a firmware core's whole address (R439). -/
def laneTval (s : State) (x : Nat × Word) : Word :=
  if s.cur.prof == .firmware then x.2 else BitVec.ofNat 64 (x.2.toNat % 2 ^ 56 + x.1 * 2 ^ 56)

/-- What the accesses of a unit raise: the first class that any lane meets, for the lowest lane that meets it; nothing
here while the walk of a page has still to be made. -/
def accessFault (xs : List (Nat × Word)) (k : Access) (n : Nat) (vec : Bool) (s : State) : Option (BitVec 8 × Word) :=
  let first := fun (f : Nat × Word → Option (BitVec 8)) => xs.findSome? fun x => (f x).map (·, laneTval s x)
  match first fun x => raisedIf (leavesAperture s k n x) 0x20 with
  | some e => some e
  | none => match first (badlyPlaced s k n vec) with
    | some e => some e
    | none =>
      if xs.any fun x => (itsPages s n x).any fun v => (s.pageOf s.cur v).isNone then none
      else ((((first fun x => raisedIf (unmapped s n x) 0x22).orElse fun _ => first (forbidden s k n)).orElse
        fun _ => first fun x => raisedIf (hostAtomic s k n x) 0x2A).orElse
        fun _ => first fun x => raisedIf (shutTensor s k n x) 0xB8).orElse
        fun _ => first fun x => raisedIf (locked s s.cur (placeOf s s.cur x.2) n (writesMem k)) 0x60

def memoryTraps (i : Instr) : Option (U → State → Option (BitVec 8 × Word)) := (memOp i).map fun m u s =>
  if s.cur.atom.isSome || s.cur.looks.any (fun l => l.major == 0x3A && l.loading) then none
  else
    let xs := match m.1 with
      | .atomic _ => (lanesIn u.act).map fun l => (l, lane u.va l)
      | _ => if m.2.2 then lineAddrs u else laneAddrs u m.2.1
    accessFault xs m.1 m.2.1 m.2.2 s

/-! ### Operands that trap (R105, R186, R187, R195, R249) -/

/-- The registers of a unit of three register fields are free and, for a gang, resident. -/
def Ready (ns : List Nat) (s s1 : State) : Prop := needRegs (ns.filterMap (regRef s.cur)) s = .ok ((), s1)

/-- A packed integer instruction whose word passes R77 and whose registers are at hand traps with 0x28 where a source is
word-poisoned in an active lane; TVAL names those lanes. The old value of a destination that MAD adds to is a source. -/
def PoisonTraps : Prop :=
  ∀ (i : Instr) (w : IWord) (s s1 : State), (packedTable i).isSome = true → encode i = some w → s.cur.pfx = [] →
    unitFault s.cur w false = none → fieldD w < 120 → fieldA w < 120 → fieldB w < 120 →
    Ready [fieldD w, fieldA w, fieldB w] s s1 → splitAt s.cur (majorOf w) = 0 →
    let third := match i with | .madI64 _ _ _ | .madI32 _ _ _ => (readReg s1.cur (fieldD w)).2 | _ => 0
    let bad := activeSet s.cur (majorOf w) &&& ((readReg s1.cur (fieldA w)).2 ||| (readReg s1.cur (fieldB w)).2 ||| third)
    bad ≠ 0 → exec i s = .next (s.takeTrap 0x28 (bad.setWidth 64))

/-- MOV from a port that is not bound raises 0x90, from one bound for pushing 0x91, and from an empty queue that is
closed 0x92; MOV to a port that is not bound, or bound for popping, or to a closed queue likewise. -/
def PortTraps : Prop :=
  ∀ (t : BitVec 2) (d a : Reg) (w : IWord) (s s1 : State), encode (.mov t d a) = some w → s.cur.pfx = [] →
    unitFault s.cur w false = none → Ready [d.toNat, a.toNat] s s1 → splitAt s.cur (majorOf w) = 0 → activeSet s.cur (majorOf w) ≠ 0 →
    (∀ n, a.toNat = 120 + n →
      let k := s.cur.kbyte n
      (k.getLsbD 7 = false → exec (.mov t d a) s = .next (freeTrap 0x90 s)) ∧
      (k.getLsbD 7 = true → k.getLsbD 6 = true → exec (.mov t d a) s = .next (freeTrap 0x91 s)) ∧
      (k.getLsbD 7 = true → k.getLsbD 6 = false → ∀ x, s1.portTeam s1.cur (s.cur.kcore.extractLsb' (2 * n) 2).toNat = some x →
        qCount x.scratch (k.toNat % 64) = 0 → qClosed x.scratch (k.toNat % 64) = true → exec (.mov t d a) s = .next (freeTrap 0x92 s))) ∧
    (∀ n, d.toNat = 120 + n → a.toNat < 120 →
      let k := s.cur.kbyte n
      (k.getLsbD 7 = false → exec (.mov t d a) s = .next (freeTrap 0x90 s)) ∧
      (k.getLsbD 7 = true → k.getLsbD 6 = false → exec (.mov t d a) s = .next (freeTrap 0x91 s)) ∧
      (k.getLsbD 7 = true → k.getLsbD 6 = true → ∀ x, s1.portTeam s1.cur (s.cur.kcore.extractLsb' (2 * n) 2).toNat = some x →
        qClosed x.scratch (k.toNat % 64) = true → exec (.mov t d a) s = .next (freeTrap 0x92 s)))

/-- An atomic of a gang with a scalar destination and a vector operand raises 0x0B while more than one lane is active,
before anything is read (R56, R249). -/
def AtomTraps : Prop :=
  ∀ (i : Instr) (w : IWord) (s : State), (atomOp i).isSome = true → encode i = some w → s.cur.prof = .full → s.cur.pfx = [] →
    96 ≤ fieldD w → fieldD w < 120 → fieldB w < 96 → 1 < (lanesIn (activeSet s.cur (majorOf w))).length →
    exec i s = .next (s.takeTrap 0x0B (w.setWidth 64))

/-! ### Units that wait (R251, R418, R431) -/

/-- The pages of a PREF whose walks are still to be made: those of its range that are global. -/
def prefMissing (u : U) (s : State) : List Nat :=
  let lo := (lane u.va 0).toNat
  let hi := min (2 ^ 64) (lo + min (2 ^ 16) (lane u.vb 0).toNat)
  (s.prefPages lo hi).filter fun v => (s.pageOf s.cur v).isNone

def holdTable : Instr → Option (U → State → Option (Wait × (State → State)))
  -- the walks are asked for, in the order of the pages
  | .pref _ _ _ => some fun u s =>
      if u.act = 0 || u.pa ≠ 0 || u.pb ≠ 0 then none
      else match prefMissing u s with
        | [] => none
        | v :: vs => some (.walk v, fun s => (v :: vs).foldl State.askWalk s)
  -- the version is the new one at once; the lines are taken one after another, and TVBUMP ends with the last
  | .tvbump _ _ _ => some fun u s =>
      let x := lane u.va 0
      let t := s.tensor (x.extractLsb' 16 4) (x.setWidth 12)
      if !quiet s then none
      else match s.rewraps.find? (·.1 == s.cur.id) with
        | some r => raisedIf (r.2.2.2 ≠ []) (.engines, id)
        | none => raisedIf (bumpable u s && lane u.vb 0 == 1) (.engines, fun y =>
            { y.setTensor { t with ver := t.ver + 1 } with rewraps := y.rewraps ++ [(s.cur.id, t.seg, t.index, s.rangeLines t)] })
  -- what the berth holds is overwritten, and the receipt is kept until its last line is (log 90)
  | .strip _ _ _ => some fun u s =>
      let b : BitVec 4 := (lane u.va 0).setWidth 4
      raisedIf (quiet s && strippable u s) (.engines, fun y =>
        { y.strip b with strips := y.strips ++ [(s.cur.id, s.receipt b)] })
  | _ => none

/-- What a STRIP leaves of a berth (R431): nothing of its memory, keys, tensors, packets and queues; no resource of
its own; its channel quads stripped; and its STATE 0. -/
def Stripped (s : State) (b : BitVec 4) : Prop :=
  let t := s.strip b
  (∀ c ∈ t.mem.cells, isHbm c.1 = true → (s.sysreg (bquad b) 0).getLsbD (quadOf c.1) = false) ∧
  (∀ k ∈ t.keys, (s.keySlots b).contains k.slot.toNat = false) ∧
  (∀ x ∈ t.tensors, (s.segments b).contains x.seg.toNat = false) ∧
  (∀ q ∈ t.queues, q.berth ≠ b) ∧ (∀ p ∈ t.packets, p.berth ≠ b) ∧ (∀ g ∈ t.grids, g.berth ≠ b) ∧
  t.stripped = s.stripped ||| s.sysreg (bquad b) 0 ∧ (t.berth b).state = 0

end Sys2Proof.Claims
end

