-- ==== Sys2Proof/Claims/Part.lean ====
section
/-!
DEFINITION. What the statements say of the part around its cores: bring-up (R28, R29), the lock-keeper and the
harbourmaster's standby (R21, R25, R27, R385), the host and peers (R130, R131, R262), berths (R388 to
R401), skim and streams (R404, R429, R430), counters (R435), and the SPDM and TDISP responders (R390,
R426, R427).
-/

namespace Sys2Proof.Claims

open Sys2Proof.Machine

/-- What an event of the part does: how the state after it follows from the state before. -/
abbrev Law := State → State → Bool

/-- Every event of a table answers a next state, in every state, and that state is as the table says. -/
def Answers (table : Instr → Option Law) : Prop :=
  ∀ (i : Instr) (r : Law) (s : State), table i = some r → ∃ t, exec i s = .next t ∧ r s t = true

/-- The state after an event is this one. -/
def is (t x : State) : Bool := decide (t = x)

/-- An event that is not due leaves the state as it is. -/
def whenDue (c : Bool) (s t : State) (holds : Bool) : Bool := if c then holds else is t s

/-- The log grew by one record, which holds the hash of the record before it (R25). -/
def noted (s t : State) (code : BitVec 8) (who : Nat) (arg : Word) : Bool :=
  decide (t.events = ⟨code, who, arg, match s.events with
    | [] => List.replicate 48 0
    | e :: _ => sha384 e.bytes⟩ :: s.events)

/-! ### Bring-up (R28, R29) -/

/-- Step n is next: the one before it succeeded, with power, outside recovery mode. -/
def boots (s : State) (n : Nat) : Bool := s.power && !s.recovery && !s.noBerths && decide (s.bootStep + 1 = n)

/-- A step that failed: recovery mode, logged. -/
def failedBoot (s : State) : State := ({ s with recovery := true } : State).note 0 16 (BitVec.ofNat 64 s.bootStep)

def bootTable : Instr → Option Law
  | .powerGood => some fun s t => is t (if s.power then s else { s with power := true, bootStep := 1 })
  | .deriveIdentityKey ok => some fun s t => whenDue (boots s 2) s t (is t (if ok then { s with bootStep := 2 } else failedBoot s))
  | .verifyFirmwareSlot edA mlA edB mlB => some fun s t => whenDue (boots s 3) s t (is t (
      let active := if s.slotB then edB && mlB else edA && mlA
      let other := if s.slotB then edA && mlA else edB && mlB
      if active then { s with bootStep := 3 }
      else if other then { s with bootStep := 3, slotB := !s.slotB }
      else failedBoot s))
  | .verifyConfigBlock ok blk => some fun s t => whenDue (boots s 4) s t (is t (
      if ok then { s with bootStep := 4, config := blk } else ({ s with noBerths := true } : State).note 0 16 4))
  -- links and stacks that failed are left disabled; what spares take over, and what is lost, is logged
  | .trainAndRepair hbms ports ucie clusters columns => some fun s t => whenDue (boots s 5) s t (
      decide (t.bootStep = 5) && decide (t.deadStacks = hbms) && decide (t.deadPorts = ports) && decide (t.deadHost = ucie)
        && decide (t.mem = s.mem) && decide (t.berths = s.berths)
        && (if hbms = 0 && ports = 0 && ucie = 0 && clusters = 0 && columns = [] then
              decide (t.events = s.events) && decide (t.clusters = s.clusters) else true)
        && (List.range 64).all fun c => !clusters.getLsbD c || s.sparesUsed c < 2 || t.deadClusters.getLsbD c)
  | .startFirmwareCores ok => some fun s t => whenDue (boots s 6) s t (
      if ok then decide (t.bootStep = 6) && decide (t.beat = s.clk)
        && (List.range 18).all fun n => decide (t.agent n = (s.agent n).map fun a => { a with run := .active })
      else is t (failedBoot s))
  | .buildBerths built => some fun s t => whenDue (boots s 7) s t (is t (
      s.config.berths.foldl (fun x c => if built.getLsbD c.b.toNat && c.clusters &&& ~~~s.deadClusters != 0 then x.buildBerth c
        else x.note 0 16 (c.b.setWidth 64)) { s with bootStep := 7 }))
  | _ => none

/-! ### The lock-keeper and the harbourmaster (R21, R25, R27, R385) -/

/-- The duty of a die after a sample: one step down, to 4 of 16 at least, or one up after ten calm samples. -/
def dutyAfter (d : Nat) (hot calm : Bool) : Nat :=
  if hot then (if d ≤ 5 then 4 else d - 1) else if calm then (if 15 ≤ d then 16 else d + 1) else d

def keeperTable : Instr → Option Law
  | .sensorSample r => some fun s t => whenDue s.power s t (
      if r.clusterTemp.any (115 ≤ ·) || r.stackTemp.any (110 ≤ ·) then
        t.tripped && noted s t 0 18 0 && decide (t.berths = State.reset.berths) && decide (t.agents = State.reset.agents)
          && decide (t.mem = State.reset.mem) && decide (t.sensors = r)
      else
        let cap := s.config.powerCap < r.power
        let hot0 := (r.clusterTemp.take 32).any (105 ≤ ·)
        let hot1 := (r.clusterTemp.drop 32).any (105 ≤ ·)
        let hot := BitVec.ofNat 8 ((List.range 8).foldl (fun n i => if 100 ≤ r.stackTemp.getD i 0 then n + 2 ^ i else n) 0)
        let calm := if cap || hot0 || hot1 || hot != 0 then 0 else s.clearRun + 1
        -- requests that waited for a stack that no longer refuses them are performed
        is t (({ s with
          sensors := r, clearRun := calm, hotStacks := hot, refusing := s.refusing &&& hot
          duty0 := dutyAfter s.duty0 (cap || hot0) (10 ≤ calm), duty1 := dutyAfter s.duty1 (cap || hot1) (10 ≤ calm) } : State).retryOut
            [] s.waiting))
  | .stackRequestRefusal x => some fun s t =>
      whenDue (s.refusing.getLsbD x.toNat || s.hotStacks.getLsbD x.toNat) s t
        (is t (({ s with refusing := s.refusing ^^^ BitVec.ofNat 8 (2 ^ x.toNat) } : State).retryOut [] s.waiting))
  | .firmwareUpdate slotB ed ml => some fun s t =>
      is t (({ s with
        slotB := if ed && ml then slotB else s.slotB
        images := if slotB then (s.images.1, s.images.2 + 1) else (s.images.1 + 1, s.images.2) } : State).note 0 18 (if slotB then 1 else 0))
  | .sendWindow b => some fun s t => is t (s.modBerth b fun x => { x with
      allowance := let n := (s.sysreg (dev (0x600 + b.toNat)) 0).toNat % 2 ^ 15
        if n < 22400 then n else 0 })
  | .heartbeatTimeout => some fun s t => whenDue (!s.standby && 6 ≤ s.bootStep && s.beat + 700000 ≤ s.clk) s t (
      t.standby && noted s t 0 18 16 && (t.agent 16).all (·.run == .off) && (t.agent 17).all (·.run != .off)
        && decide (t.mem = s.mem)
        -- slices that paused with the harbourmaster go on
        && decide (t.berths = s.berths.map fun b => if s.beat < b.sliceEnd then { b with sliceEnd := b.sliceEnd + (s.clk - s.beat) } else b))
  -- a HALT ends, and the event bit is set, or ends a WFE
  | .fwdoorWrite n => some fun s t => match s.agent n.toNat with
      | none => is t s
      | some a => a.prof != .firmware || (decide (t.mem = s.mem) && decide (t.agent n.toNat = some (match a.run with
          | .parked .doorbell _ | .holding .doorbell _ => { a with run := .active, evt := true }
          | .parked .event _ => { a with run := .active, evt := false }
          | .holding .event _ => { a with run := .active }
          | _ => { a with evt := true })))
  | .registerWrite addr v => some fun s t =>
      let hi := bits addr 63 32
      let lo := bits addr 31 0
      if hi = 0 then is t (match (regAt addr).bind Reg190.plain with
        | some (n, mask, _) => s.setSysreg n (v &&& mask)
        | none => s)
      else if hi < 0x28 && !s.hostUp then is t s
      else if hi ≤ 16 && lo = 0x200 then is t { s with csel := put (hi - 1) (v.setWidth 12) s.csel }
      else if hi ≤ 16 && 0x1000 ≤ lo && lo < 0x3000 && lo % 8 = 0 then
        is t { s with pasids := put (1024 * (hi - 1) + (lo - 0x1000) / 8) (v &&& 0x8000FFFFFFFFE000) s.pasids }
      else if 0x20 ≤ hi && hi < 0x28 && lo = 0x60 then is t { s with qiBerth := put (hi - 0x20) (v.setWidth 4) s.qiBerth }
      else if 0x20 ≤ hi && hi < 0x28 && 0x1000 ≤ lo && lo < 0x3000 && lo % 8 = 0 then
        is t { s with qiPasids := put (1024 * (hi - 0x20) + (lo - 0x1000) / 8) (v &&& 0x8000FFFFFFFFE000) s.qiPasids }
      else if 0x20 ≤ hi && hi < 0x28 && 0x4000 ≤ lo && lo < 0x14000 then
        let k := 2048 * (hi - 0x20) + (lo - 0x4000) / 32
        let old := findD k (false, (0 : BitVec 20), (0 : Word), (0 : BitVec 32)) s.remap
        let new := match (lo - 0x4000) / 8 % 4 with
          | 0 => (v.getLsbD 63, v.setWidth 20, old.2.2)
          | 1 => (old.1, old.2.1, v, old.2.2.2)
          | _ => (old.1, old.2.1, old.2.2.1, v.setWidth 32)
        is t { s with remap := put k new s.remap }
      else if hi = 0x30 then is t { s with securePorts := v.setWidth 8 }
      else if 0x10000 ≤ hi && hi < 0x16000 && lo < 64 && lo % 8 = 0 then is t (s.writeQueue (hi - 0x10000) (lo / 8) v)
      else is t s
  | _ => none

/-! ### The host and peers (R130, R131, R262) -/

/-- A peer store that fails is kept as its agent's, and its grid's, first lost address (R262). -/
def losing (s : State) (p : Pending) : State := s.losePeer p

/-- A request of n bytes from outside, where the part takes it: it is as done where nothing holds it back; it waits
where its stack refuses requests or one that it must not overtake waits (R27, R130); one at which no memory
answers leaves the state as it is. -/
def outside (s t : State) (takes : Bool) (r : Outside) (pa n : Nat) (done : State) : Bool :=
  whenDue (takes && decide (0 < n) && (List.range n).all fun i => s.there (pa + i) && !isPeer (pa + i)) s t
    (is t (if ((unitsFrom pa n).any fun u => s.refuses u) || s.waiting.any r.follows then { s with waiting := s.waiting ++ [r] }
      else done))

/-- A peer's requests are taken once the links are trained, through a port that is up. -/
def peerUp (s : State) (dev : BitVec 6) (pa : BitVec 48) : Bool :=
  s.power && 5 ≤ s.bootStep && !s.recovery && !s.deadPorts.getLsbD (Config.peerPort dev.toNat % 8) && isHbm pa.toNat

def hostTable : Instr → Option Law
  | .hostPostedWrite q x pa data => some fun s t => outside s t s.hostUp (.write q x pa.toNat data) pa.toNat data.length
      (s.homePutBytes (s.external pa.toNat) pa.toNat data fun _ => false)
  -- of physical memory, or of the registers of a page that address bits [63:48] name
  | .hostRead q addr n => some fun s t =>
      let page := addr.toNat / 2 ^ 48
      let pa := addr.toNat % 2 ^ 48
      if page = 0 then
        let r := s.externalRead pa n
        outside s t s.hostUp (.read q pa n) pa n { r.2 with reads := r.1 :: r.2.reads }
      else whenDue (s.power && (page = 1 || s.hostUp) && (page < 0x12 || (0x20 ≤ page && page < 0x28))) s t (is t { s with
        reads := (((unitsFrom pa n).flatMap fun u => toBytes 8 (s.barWord page u).toNat).drop (pa % 8)).take n :: s.reads })
  | .peerAccess d pa (.read n) => some fun s t =>
      let r := s.externalRead pa.toNat n
      outside s t (peerUp s d pa) (.peer d pa.toNat (.read n)) pa.toNat n { r.2 with reads := r.1 :: r.2.reads }
  -- a peer's write is acknowledged once it is registered
  | .peerAccess d pa (.write bs marks) => some fun s t =>
      let x := s.homePutBytes (s.external pa.toNat) pa.toNat bs fun u => marks.getD (u / 8 - pa.toNat / 8) false
      outside s t (peerUp s d pa) (.peer d pa.toNat (.write bs marks)) pa.toNat bs.length { x with peerAcks := (d, pa.toNat) :: x.peerAcks }
  | .peerAccess d pa (.atomic op wide x y) => some fun s t =>
      let n := if wide then 8 else 4
      let r := s.homeAtomic (s.external pa.toNat) pa.toNat op.toNat (8 * n) x.toNat y.toNat false
      outside s t (peerUp s d pa && decide (pa.toNat % n = 0) && op.toNat ≤ 10) (.peer d pa.toNat (.atomic op wide x y)) pa.toNat n
        { r.2 with reads := toBytes n r.1.1.toNat :: r.2.reads }
  | .peerAck k ok => some fun s t => match s.pend[k]? with
      | none => is t s
      | some p => whenDue (isPeer p.pa && canRegister s k p) s t (
          let x : State := { s with pend := dropAt k s.pend }
          decide (t.pend = x.pend) && is t (match p.op with
            | .store => if ok && !s.cutOff p.pa then x.homePut p.req p.pa p.be p.val p.poison none else losing x p
            | .zero n => if ok && !s.cutOff p.pa then x.zeroBytes p.req p.pa (p.pa + n) else losing x p
            -- they leave lines of other devices as they are (R251)
            | .discard _ | .wback _ => x))
  | .linkDown port => some fun s t =>
      let dead := fun (pa : Nat) => isPeer pa && decide (peerPortOf pa = port.toNat)
      let s1 : State := { s with
        deadPorts := s.deadPorts ||| BitVec.ofNat 8 (2 ^ port.toNat), pend := s.pend.filter fun p => !dead p.pa }
      let writes := fun (p : Pending) => match p.op with | .store | .zero _ => true | _ => false
      let s2 := (s.pend.filter fun p => dead p.pa && writes p).foldl losing s1
      is t ((s2.channels.filter fun c => c.dx && (c.inst.map (·.form.dx)).getD false).foldl (fun s c => s.abortChannel c.ch c.did) s2)
  | _ => none

/-! ### Berths (R388 to R401) -/

/-- A BOPCMD operation on a berth, ignored while one is under way (R393). -/
def ifIdle (s t : State) (x : State) : Bool := is t (if (s.sysreg (dev 0x588) 0).getLsbD 63 then s else x)

/-- BOPSTAT of a state (R393). -/
def bopIs (t : State) (busy reason op result : Nat) : Bool :=
  decide (t.sysreg (dev 0x588) 0 = BitVec.ofNat 64 (busy * 2 ^ 63 + reason * 2 ^ 16 + op * 2 ^ 8 + result))

/-- An operation that is refused: BOPSTAT gives the reason, the harbourmaster hears of it, and nothing else changes
(R401). -/
def turned (s t : State) (op reason : Nat) : Bool :=
  bopIs t 0 reason op 0xB6 && noted s t 0xB6 op (BitVec.ofNat 64 reason) && decide (t.berths = s.berths) && decide (t.mem = s.mem)

/-- ADMIT of a berth (R387). -/
def admitIs (t : State) (b : BitVec 4) (on : Bool) : Bool := (t.sysreg (dev (0x380 + b.toNat)) 0).getLsbD 0 == on

/-- A berth that is active again (R394, R400). -/
def activeAgain (t : State) (b : BitVec 4) : Bool :=
  (t.berth b).state == 1 && (t.berth b).quiesceEnd.isNone && (t.berth b).exported.isNone && (t.berth b).cancels == [] && admitIs t b true

/-- A condition under which something more holds. -/
def when (c holds : Bool) : Bool := !c || holds

def berthTable : Instr → Option Law
  -- admission stops, STATE becomes 2, BOPSTAT reads BUSY, and the limit of TMO runs
  | .quiesce c => some fun s t => ifIdle s t (s.quiesce c) && when (!s.bopBusy) (
      if (s.berth (bopB c)).state = 1 then
        (t.berth (bopB c)).state == 2 && (t.berth (bopB c)).stopped == s.clk && admitIs t (bopB c) false && bopIs t 1 0 1 0
          && (t.berth (bopB c)).quiesceEnd == if bits c 15 12 = 0 then none else some (s.clk + 2 ^ bits c 15 12 * 700000)
      else turned s t 1 1)
  -- the area is written and the export stands under the berth's GEN
  | .exportBerth c => some fun s t => ifIdle s t (s.exportBerth c) && when (!s.bopBusy) (
      if (s.berth (bopB c)).state = 3 then
        (t.berth (bopB c)).state == 3 && (t.berth (bopB c)).exported == some (s.berth (bopB c)).gen && bopIs t 0 0 2 0
      else turned s t 2 1)
  -- a merge or a split raises GEN and leaves the berth quiesced; a reason of R401 turns it away
  | .importBerth c => some fun s t => ifIdle s t (s.importBerth c) && when (!s.bopBusy && !bopMig c) (
      let x := s.readArea c
      match x.2.importBad c x.1.1 x.1.2 with
      | some r => turned x.2 t 3 r
      | none => bopIs t 0 0 3 0 && when (bopB c != bopSrc c) (
          (t.berth (bopB c)).state == 3 && (t.berth (bopB c)).gen == (s.berth (bopB c)).gen + 1
            && decide (t.vfsOf (bopB c) = s.vfsOf (bopB c) ||| if bopVfs c = 0 then s.vfsOf (bopSrc c) else bopVfs c)))
  | .resume c => some fun s t => ifIdle s t (
      if (s.berth (bopB c)).state = 3 then (s.reactivate (bopB c)).setBopStat false 0 4 0 else s.refuseBop 4 1)
      && when (!s.bopBusy) (if (s.berth (bopB c)).state = 3 then activeAgain t (bopB c) && bopIs t 0 0 4 0 else turned s t 4 1)
  | .abandon c => some fun s t => ifIdle s t (
      (if (s.berth (bopB c)).state = 2 || (s.berth (bopB c)).state = 3 then s.reactivate (bopB c) else s).setBopStat false 0 5 0)
      && when (!s.bopBusy) (bopIs t 0 0 5 0
        && when ((s.berth (bopB c)).state == 2 || (s.berth (bopB c)).state == 3) (activeAgain t (bopB c)))
  -- contexts go to memory, the caches are emptied, and STATE becomes 3
  | .quiesceComplete b => some fun s t => whenDue ((s.berth b).state = 2 && !s.quiesceBusy b) s t (
      let gangs := s.all.filter fun a => a.prof == .full && a.berth == b && a.run != .off
      let s1 := gangs.foldl (fun s a => s.flushGang a.id false) s
      -- what cannot be written back yet is waited for
      let left := gangs.any fun a => (s1.agent a.id).any fun a => a.wbacks != [] || a.lines.any (·.dirty)
      if left then is t s1
      else is t (((s1.emptyCaches b).modBerth b fun x => { x with state := 3, quiesceEnd := none }).setBopStat false 0 1 0)
        && (t.berth b).state == 3 && (t.berth b).quiesceEnd.isNone && bopIs t 0 0 1 0)
  -- the limit of TMO has passed first: the berth is active again, and the operation has failed with reason 6
  | .quiesceTimeout b => some fun s t =>
      whenDue ((s.berth b).state = 2 && (s.berth b).quiesceEnd.any (· ≤ s.clk)) s t (is t ((s.reactivate b).refuseBop 1 6)
        && activeAgain t b && bopIs t 0 6 1 0xB6)
  -- a removal under way or a way of another berth: logged; else the register holds the new mask
  | .waymaskWrite sl b v => some fun s t => is t (s.writeWaymask sl.toNat b v)
      && if (s.sysreg (waymask sl.toNat b) 0).getLsbD 31
            || allBerths.any fun x => x != b && s.sysreg (waymask sl.toNat x) 0 &&& (v &&& 0xFFFF) != 0 then
          noted s t 0 b.toNat (BitVec.ofNat 64 (0x2000 + 16 * sl.toNat + b.toNat))
        else decide ((t.sysreg (waymask sl.toNat b) 0).setWidth 16 = v.setWidth 16) && decide (t.mem = s.mem)
  | .waymaskLineTake sl n => some fun s t =>
      whenDue ((s.leaving sl.toNat).any (·.line == n)) s t (is t ((s.takeLine n).settleWays sl.toNat)
        && t.l2.all (·.line != n) && decide (t.mem = s.mem))
  -- outside STATE 0 and 3, or where another berth owns what it gives: logged; else the register takes the value
  | .berthResourceWrite num v => some fun s t => is t (s.writeResource num.toNat v)
      && match resourceBerth num.toNat with
        | none => is t s
        | some b =>
          let v := if 0x500 ≤ num.toNat && num.toNat < 0x510 then v &&& 0xFFFF else v
          if !((s.berth b).state = 0 || (s.berth b).state = 3)
              || allBerths.any fun x => x != b && s.sysreg (dev (resourceOf num.toNat x)) 0 &&& v != 0 then
            noted s t 0 b.toNat (num.setWidth 64)
          else decide (t.sysreg (dev num.toNat) 0 = v)
  -- CONF, VERIFY and ADMIT take effect at once, and VFS where no active berth would gain one
  | .berthctlWrite b v => some fun s t => is t (s.writeBerthctl b v)
      && decide ((t.sysreg (berthctl b) 0).setWidth 3 = v.setWidth 3)
      && decide (t.vfsOf b = if (s.berth b).state = 1 && v.extractLsb' 16 16 &&& ~~~s.vfsOf b != 0 then s.vfsOf b else v.extractLsb' 16 16)
  -- the berth is active with ADMIT 1, and no translation or walk of it is left
  | .partitionReset b => some fun s t => is t (s.resetPartition b)
      && (t.berth b).state == 1 && (t.berth b).exported.isNone && admitIs t b true
      && t.tlb.all (·.berth != b) && t.walks.all (·.berth != b)
  | .sliceEnd b => some fun s t =>
      let x := s.berth b
      let slots := s.slots b
      let cur := x.slot.toNat
      let vf := fun (n : Nat) => ((slots[n]?).map (·.1)).getD 16
      let ticks := fun (n : Nat) => ((slots[n]?).map (·.2)).getD 0
      let used := ((List.range 4).map fun i => (cur + 1 + i) % 4).filter fun n => ticks n != 0
      let next := (used.find? fun n => s.vfWork b (vf n)).getD (if used.contains cur then cur else used.headD cur)
      let out := fun (g : Nat) => (s.vfOfGrid g).any fun v => v.toNat != vf next
      let s1 := if vf next = vf cur then s
        else
          let s1 := s.swapOutWhere fun y => ((s.gridOf y.grid).any (·.berth == b)) && out y.grid
          let s2 := s1.settleCopies fun o => o.berth == b && ((s1.teamOf o.team).any fun y => out y.grid)
          let s3 := s2.emptyCaches b
          { s3 with tlb := s3.tlb.filter (·.berth != b) }
      -- slices pause while the standby takes over (R385)
      whenDue (x.state = 1 && slots.any (·.2 != 0) && x.sliceEnd ≤ s.clk && s.harboured) s t (is t
        (s1.modBerth b fun x => { x with slot := BitVec.ofNat 2 next, sliceEnd := s1.clk + 70000 * ticks next }))
  | _ => none

/-! ### Skim, keys and streams (R404, R416, R418, R429, R430, R435) -/

def sealTable : Instr → Option Law
  | .skimLine n corrected persist => some fun s t => whenDue (isHbm (64 * n) && s.there (64 * n) && (corrected || persist)) s t (
      noted s t (if persist then 0xB5 else 0) 0 (BitVec.ofNat 64 (64 * n)) && decide (t.cur = s.cur)
        && if persist then decide (t.mem.cells = s.mem.cells) else decide (t.mem = s.mem))
  | .ttw1Write n v => some fun s t => match s.agent n.toNat with
      | none => is t s
      | some a => whenDue (a.prof == .firmware) s t (is t (match s.selected a with
          | some (false, g, j) =>
            if v.getLsbD 12 && s.tensorBusy (s.tensor g j) then s.setTensor { s.tensor g j with shut := true } else s.writeTtw1 a v
          | _ => s.writeTtw1 a v))
  | .rewrapLine seg entry n => some fun s t =>
      whenDue (s.rewraps.any fun x => x.2.1 == seg && x.2.2.1 == entry && x.2.2.2.head? == some n) s t (
        let x := s.tensor seg entry
        -- the seal of the line under a version of the entry, with the keys of a slot
        let under := fun (k : BitVec 9) (v : BitVec 32) => SealId.under (s.slotKeys k) entry seg v
        -- contents under the version before are written anew under the new one; others stay as they are
        let channel := fun (k : BitVec 9) =>
          if find? n s.seals == some (under x.kslot (x.ver - 1)) then s.slotSeg k != seg || find? n t.seals == some (under k x.ver)
          else decide (t.seals = s.seals)
        decide (t.mem = s.mem) && decide (t.tensors = s.tensors)
          && decide (t.rewraps = s.rewraps.map fun y =>
            if y.2.1 == seg && y.2.2.1 == entry then (y.1, y.2.1, y.2.2.1, y.2.2.2.filter (· != n)) else y)
          && match s.l2.find? (·.line == n) with
            | none => channel x.kslot
            | some l => l.t != entry || s.slotSeg l.key != seg
              -- a changed copy is written back under the new version and stays, clean
              || (if l.dirty then find? n t.seals == some (under l.key x.ver) && (t.l2.find? (·.line == n)).any (!·.dirty)
                else decide (t.l2 = s.l2) && channel l.key))
  | .msctlWrite v w => some fun s t =>
      is t (s.setStream { s.stream v with en := w.getLsbD 63, recv := w.getLsbD 62, stream := w.setWidth 32 })
  -- a second key while one is pending is not read; the first starts its stream at counter 0
  | .mskeyWrite v w => some fun s t =>
      let x := s.stream v
      match sramOff w 32 with
      | none => noted s t 0 v.toNat w && decide (t.streams = s.streams) && decide (t.sram = s.sram)
      | some off =>
        let k := s.sramBytes v.toNat off 32
        if x.pend.isSome then is t s
        else is t ((s.sramPut v.toNat off (List.replicate 32 0)).setStream
          (if x.en then { x with pend := some k } else { x with key := k, cnt := 0, stop := false }))
  | .streamRecordSend v kind pa n => some fun s t =>
      let x := s.stream v
      let body := (s.streamBody v kind.toNat pa.toNat n).1
      whenDue (x.en && !x.recv && !x.stop && x.secret.isSome && x.key.length == 32 && kind != 0 && kind.toNat ≤ 5 && body.length ≤ 65536) s t (
        let head := toBytes 8 x.cnt.toNat ++ toBytes 4 body.length ++ toBytes 4 kind.toNat
        let r := gcmSeal x.key (toBytes 4 x.stream.toNat ++ toBytes 8 x.cnt.toNat) head body
        decide (((t.stream v).sent).head? = some (head ++ r.1 ++ r.2)) && decide ((t.stream v).cnt = x.cnt + 1)
          && decide (t.mem = s.mem))
  | .streamRecordReceive v pa r => some fun s t =>
      let x := s.stream v
      whenDue (x.en && x.recv && !x.stop && x.key.length == 32) s t (
        let head := r.take 16
        let n := ofBytes ((head.drop 8).take 4)
        let o := gcmOpen x.key (toBytes 4 x.stream.toNat ++ toBytes 8 x.cnt.toNat) head ((r.drop 16).take n) (r.drop (16 + n))
        is t (if r.length = n + 32 && ofBytes (head.take 8) = x.cnt.toNat && o.2 then
            (s.takeRecord v (ofBytes (head.drop 12)) pa.toNat o.1).nextCount x
          else (s.setStream { x with stop := true }).note 0xBE v.toNat x.cnt))
  | .counterRead v => some fun s t => match s.berthOfVf v.toNat with
      | none => is t s
      | some b =>
        let sel := (findD v.toNat (0 : BitVec 12) s.csel).toNat
        if sel < 0x600 && (s.sysreg (dev (0x1500 + 64 * b.toNat + sel / 64)) 0).getLsbD (sel % 64) then
          decide (t.events = s.events) && decide (t.mem = s.mem)
            && t.reads.head?.any (fun bs => decide (bs.length = 8) && decide (ofBytes bs < 2 ^ 63))
        else noted s t 0xBF v.toNat (BitVec.ofNat 64 sel) && decide (t.reads = toBytes 8 (2 ^ 63) :: s.reads)
          && decide (findD b.toNat (0, 0) t.withheld = ((findD b.toNat (0, 0) s.withheld).1 + 1, (findD b.toNat (0, sel) s.withheld).2))
  | _ => none

/-! ### SPDM and TDISP (R390, R426, R427) -/

/-- A VF's pilot, once firmware runs, answers x and leaves the session n, or refuses and keeps it. -/
def answered (s t : State) (v : BitVec 4) (takes : Bool) (n : Nat) (x : Answer) : Bool :=
  whenDue (6 ≤ s.bootStep) s t (
    let f := t.vf v
    decide (f.answers = (if takes then x else .refused) :: (s.vf v).answers)
      && decide (f.session = if takes then n else (s.vf v).session) && decide (t.mem = s.mem) && decide (t.events = s.events))

def spdmTable : Instr → Option Law
  | .getVersion v => some fun s t => answered s t v true 1 .version
  | .getCapabilities v => some fun s t => answered s t v ((s.vf v).session = 1) 2 .capabilities
  | .negotiateAlgorithms v => some fun s t => answered s t v ((s.vf v).session = 2) 3
      (.algorithms [.sha384, .ed25519, .secp384r1, .aes256Gcm])
  | .getDigests v => some fun s t => answered s t v (3 ≤ (s.vf v).session) (s.vf v).session
      (.digests (sha384 (s.certChain false)) (sha384 (s.certChain true)))
  | .getCertificate v x => some fun s t => answered s t v (3 ≤ (s.vf v).session) (s.vf v).session (.certificate x (s.certChain x))
  | .challenge v h => some fun s t => answered s t v (3 ≤ (s.vf v).session) (s.vf v).session
      (.auth (signatures s.attester h).1 (signatures s.attester h).2)
  | .getMeasurements v true h => some fun s t => answered s t v (3 ≤ (s.vf v).session) (s.vf v).session
      (.measurements ([1, 2, 3, 4, 5].map (s.measurement v)) (signatures s.attester h).1 (signatures s.attester h).2)
  | .getMeasurements v false _ => some fun s t => answered s t v (3 ≤ (s.vf v).session) (s.vf v).session
      (.measurements ([1, 2, 3, 4, 5].map (s.measurement v)) [] [])
  -- the responder's own share, a free value, and what it and the requester's give (log 2)
  | .keyExchange v share h => some fun s t =>
      let k := Config.ephemeral (s.takeFree).1
      let takes := 3 ≤ (s.vf v).session && (ecPoint share).isSome
      answered s t v takes 4 (.exchange (ecShare k) (signatures s.attester h).1 (signatures s.attester h).2)
        && decide ((t.vf v).secret = if 6 ≤ s.bootStep && takes then ecSecret k share else (s.vf v).secret)
  | .finish v ok none => some fun s t => answered s t v ((s.vf v).session = 4 && ok) 5 .finished
  -- before a migration: both authentications, a signed policy, and the destination's measurements in it (R428)
  | .finish v ok (some m) => some fun s t => whenDue (6 ≤ s.bootStep) s t (
      let good := ok && m.chains && ((s.vf v).tdi == .locked || (s.vf v).tdi == .run)
        && decide (m.policy.length ≤ 16) && m.measured.length == 3 && m.measured.all m.policy.contains
        && bothVerify m.key m.hash m.ed m.ml && bothVerify (s.vf v).tenant m.policy.flatten m.polEd m.polMl
      let mine := Config.agreement (s.takeFree).1
      let key := hkdfWith m.transcript (x25519 (fit 32 mine.1) m.share ++ mlkemDecaps (fit 32 mine.2.1) (fit 32 mine.2.2) m.cipher)
        (ascii "NB96-MIGRATE") 32
      decide ((t.stream v).secret = if good then some key else none)
        -- T is programmed as K0 of a stream that is not enabled (R429)
        && (!good || (s.stream v).en || (decide ((t.stream v).key = key) && decide ((t.stream v).cnt = 0)))
        && decide (t.mem = s.mem) && decide (t.vfs = s.vfs)
        && if good then decide (t.events = s.events) else noted s t 0 v.toNat 0)
  | .endSession v => some fun s t => answered s t v ((s.vf v).session = 5) 3 .ended
  | _ => none

/-- A TDISP request, taken in a secured session of a VF of some berth, or of one in ERROR, in the interface states p,
with the state it leaves (R390, R426). -/
def interfaced (s t : State) (v : BitVec 4) (p : Tdi → Bool) (next : Tdi → Tdi) (x : Answer) : Bool :=
  let f := s.vf v
  let takes := decide (f.session = 5) && p f.tdi && ((s.berthOfVf v.toNat).isSome || f.tdi == .error)
  answered s t v takes f.session x && decide ((t.vf v).tdi = if takes && 6 ≤ s.bootStep then next f.tdi else f.tdi)

def tdispTable : Instr → Option Law
  | .getTdispVersion v => some fun s t => interfaced s t v (fun _ => true) id .tdispVersion
  | .getTdispCapabilities v => some fun s t => interfaced s t v (fun _ => true) id .tdispCapabilities
  -- the lock fixes the tenant key (R428)
  | .lockInterfaceRequest v key => some fun s t => interfaced s t v (· == .unlocked) (fun _ => .locked) (.tdiState .locked)
      && (!(decide (6 ≤ s.bootStep) && decide ((t.vf v).tdi = .locked) && decide ((s.vf v).tdi = .unlocked)) || decide ((t.vf v).tenant = key))
  | .getDeviceInterfaceReport v => some fun s t => interfaced s t v (fun x => x == .locked || x == .run) id (s.report v)
  | .getDeviceInterfaceState v => some fun s t => interfaced s t v (fun _ => true) id (.tdiState (s.vf v).tdi)
  | .startInterfaceRequest v => some fun s t => interfaced s t v (· == .locked) (fun _ => .run) .started
  | .stopInterfaceRequest v => some fun s t => interfaced s t v (fun _ => true) (fun _ => .unlocked) .stopped
  | _ => none

end Sys2Proof.Claims
end

