-- ==== Sys2Proof/Claims/Work.lean ====
section
/-!
DEFINITION. What the statements say of the events of running work: stores, loads and atomics at their homes
(R118 to R124), register lines and flushes (R142 to R152, R161), walks and fetches (R112, R113, R76), slots, quanta and swaps
(R345 to R364), gangs and teams that retire (R32, R43), waits that time out, packets (R366 to R380), and
engines (R242, R289, R305 to R315, R328 to R342).
-/

namespace Sys2Proof.Claims

open Sys2Proof.Machine

/-- An agent's event, which changes nothing where there is no such agent. -/
def ofAgent (s t : State) (g : Nat) (f : Agent → Bool) : Bool := match s.agent g with
  | some a => f a
  | none => is t s

/-- An event of an agent's descriptor. -/
def ofLook (s t : State) (g k : Nat) (f : Agent → Look → Bool) : Bool := ofAgent s t g fun a => match a.looks[k]? with
  | some l => f a l
  | none => is t s

/-- A gang outside its slot has no events of its own requests. -/
def present (a : Agent) : Bool := a.prof != .full || a.inSlot

/-! ### Stores, loads and atomics (R118 to R124) -/

/-- A store at its home, or a MEMOP there that counts as one (R118, R251): the bytes of the list's entry are
stored with their mark, and the storing core's L1 then holds the unit; zeros are stored; lines are discarded or
written back. -/
def atHome (p : Pending) (s : State) : State := match p.op with
  | .store =>
    let own := if p.core < 256 && isHbm p.pa then some p.core else none
    let s1 := s.homePut ⟨p.berth, p.key, p.t, p.cls⟩ p.pa p.be p.val p.poison own
    match own with
    | some c => s1.fillUnit c p.pa p.key (wordsOf p.pa p.be)
    | none => s1
  | .zero n => s.zeroBytes ⟨p.berth, p.key, p.t, p.cls⟩ p.pa (p.pa + n)
  | .discard n => s.discardBytes ⟨p.berth, p.key, p.t, p.cls⟩ p.pa (p.pa + n)
  | .wback n => s.wbackLines ⟨p.berth, p.key, p.t, p.cls⟩ p.pa (p.pa + n)

/-- The words of a store to HBM by a core leave every other core's L1, and the storing core is recorded as their
owner (R118). -/
def ownerTaken (p : Pending) (s : State) : State :=
  if p.core < 256 && isHbm p.pa && p.op == .store then
    (wordsOf p.pa p.be).foldl (fun s wa =>
      let s := s.revoke wa (some p.core)
      { s with owners := put wa p.core s.owners }) s
  else s

def homeTable : Instr → Option Law
  | .storeRegistration k err => some fun s t => match s.pend[k]? with
      | none => is t s
      | some p => whenDue (!isPeer p.pa && canRegister s k p) s t (
          let rest : State := { s with pend := dropAt k s.pend }
          -- DISCARD and WBACK leave host lines untouched (R251)
          if p.spares then is t rest
          else if s.cutOff p.pa then is t (rest.losePeer p)
          else
            let taken : Pending := { p with registered := true, poison := p.poison || (err && p.fetches s), ack := s.nextOrd }
            let s1 := ownerTaken p s
            let s2 : State := { s1 with pend := changeAt (fun _ => taken) k s1.pend, nextOrd := s1.nextOrd + 1 }
            -- a store to host memory is visible from its acceptance on (R130)
            if isHost p.pa then is t (atHome p s2) else decide (t.mem = s.mem) && is t s2)
  | .registrationAck k => some fun s t => match s.pend[k]? with
      | none => is t s
      -- a home's answers to one core come in the order it sent them (R20)
      | some p => whenDue (p.registered && s.inOrder p.core (p.homes.map fun h => (h, p.ack))) s t (
          let rest : State := { s with pend := dropAt k s.pend }
          if isHost p.pa then whenDue (!s.pend.any fun q => q.registered && isHost q.pa && q.ack < p.ack) s t (is t rest)
          else is t (atHome p rest))
  | .homeRead g k err soft => some fun s t => ofLook s t g k fun a l => whenDue (present a) s t (
      if l.phase == .saved then is t (((reissue 4 k (s.focus g)).warm g).focus s.cur.id)
      else whenDue (l.phase == .outstanding && 0x30 ≤ l.major) s t (
        match l.homes.filter fun h => !has l.got h.1 with
        | [] => is t (s.modAgent g fun a => { a with looks := changeAt (fun l : Look => ({ l with phase := .returning } : Look)) k a.looks })
        | h :: hs =>
          let r := readLanes a err soft ((h :: hs).filter fun x => granule x.2.1 == granule h.2.1) l s
          let done := r.1.homes.all fun h => has r.1.got h.1
          let l' : Look := { r.1 with phase := if done then .returning else r.1.phase }
          is t (r.2.modAgent g fun a => { a with looks := changeAt (fun _ => l') k a.looks })))
  | .dataArrival g k => some fun s t => ofLook s t g k fun a l => whenDue (present a) s t (
      if l.phase == .held then is t (s.land g)
      else whenDue (l.phase == .returning && s.inOrder a.l1Core l.back) s t (
        let held := fun (l : Look) => ({ l with phase := .held, poison := groupPoison l.ls l.lanes l.poison } : Look)
        let s1 := s.modAgent g fun a => { a with looks := changeAt held k a.looks }
        is t ((if l.major = 0x3A then s1.acquire g else s1).land g)))
  | .atomicAtHome g err soft => some fun s t => ofAgent s t g fun a => match a.atom with
      | none => is t s
      | some q => whenDue (atomDue s a q && s.inOrder a.l1Core (q.lanes.map fun x => (homeOf x.pa, s.nextOrd))) s t (match q.dest with
          -- a destination whose line is away brings it first; the access marks the line as used (R149)
          | .slot n => is t (if s.lineBlocked a (lineOf n) then s.fillLine g (lineOf n)
              else (performed s g a q err soft).useLine g (lineOf n))
          | _ => is t (performed s g a q err soft))
  | _ => none
where
  performed (s : State) (g : Nat) (a : Agent) (q : AtomReq) (err soft : Mask) : State :=
    let r := atomLanes a q err soft q.lanes q.done s
    r.2.modAgent g fun a => { (a.putOld q.dest (groupOld q.ls r.1)) with atom := none }

/-! ### Register lines, banks and flushes (R142 to R152, R161) -/

/-- A line of a gang replaced. -/
def lineIs (s : State) (g n : Nat) (f : RegLine → RegLine) : State := s.modAgent g fun a => a.modLine n f

def lineTable : Instr → Option Law
  | .lineFillArrival g n err => some fun s t => ofAgent s t g fun a =>
      whenDue (a.prof == .full && (a.lines.any fun l => l.n == n && l.st == .filling) && !a.wbacks.any (·.1 == n)
          && !(s.core a.core.toNat).refreshing.getLsbD (bankOf a n)) s t (match s.ctxByte a (256 * n) with
        | (none, s) => is t s
        | (some (.error _), s) => is t ((s.modAgent g (·.dropLine n)).ctxFault a (256 * n))
        | (some (.ok (r, pa)), s1) => whenDue (!s1.refuses pa) s1 t (
            -- one request of 32 words (R148)
            let x := (List.range 32).foldl (fun (acc : List (Word × Bool × Bool) × State) l =>
              let y := acc.2.unitGet r (pa + 8 * l)
              (acc.1 ++ [(y.1.1, y.1.2.1, y.1.2.2 || has err l)], y.2)) ([], s1.count r pa false)
            let marks := maskOf fun l => (x.1.getD l (0, false, false)).2.1
            let bad := maskOf fun l => (x.1.getD l (0, false, false)).2.2
            let s2 := if err = 0 then x.2 else x.2.note 0x29 g (BitVec.ofNat 64 pa)
            let s3 := s2.modCore a.core.toNat fun c => { c with gated := setBit c.gated (bankOf a n) false }
            -- saved marks come back as they were (R105); a failed word's poison is its group's (R275), but for the header
            let new : RegLine := { n := n, st := .resident, dirty := false, inFlight := false, stuck := false, used := s3.clk
                                   data := lanesOf fun l => (x.1.getD l (0, false, false)).1
                                   poison := marks ||| (if n < 16 then bad else groupPoison a.ls 0xFFFFFFFF bad) }
            is t ((s3.modAgent g (·.putLine new)).tryHeader g)))
  | .writeBackRegistered g n => some fun s t => ofAgent s t g fun a => match a.wbacks.findIdx? (·.1 == n) with
      | none => is t s
      | some k => match a.wbacks[k]? with
        | none => is t s
        -- a write-back that met a context fault waits until the pilot has served it (R152)
        | some (_, v, p) => whenDue (!s.ctxFaulted g) s t (match s.ctxByte a (256 * n) with
          | (none, s) => is t s
          | (some (.error _), s) => is t ((s.modAgent g fun a => a.modLine n fun l => { l with stuck := true }).ctxFault a (256 * n))
          | (some (.ok (r, pa)), s1) => whenDue (!s1.refuses pa) s1 t (
              let clean := fun (l : RegLine) => if l.inFlight then { l with dirty := false, inFlight := false } else l
              let words := (List.range 32).foldl (fun s l => s.unitPut r (pa + 8 * l) 0xFF (lane v l) (has p l) none) (s1.count r pa true)
              is t ((words.modAgent g fun a =>
                let b : Agent := { a with wbacks := dropAt k a.wbacks }
                if b.wbacks.any (·.1 == n) then b else b.modLine n clean).tryHeaders a.core.toNat)))
  | .lazyWriteBack g n => some fun s t => match s.movable g with
      | none => is t s
      | some (a, s1) => whenDue (!a.inSlot && a.lines.any fun l => l.n == n && l.dirty && !l.inFlight) s t (is t (s1.modAgent g (·.writeBack n)))
  | .lineDrowsy g n => some fun s t => match s.movable g with
      | none => is t s
      | some (a, s1) => whenDue ((match a.run with | .parked _ since => since + 1400 ≤ s.clk | _ => false)
          && a.lines.any fun l => l.n == n && l.st == .resident) s t (is t (lineIs s1 g n fun l => { l with st := .drowsy }))
  | .drowsyWake g n => some fun s t => ofAgent s t g fun a =>
      whenDue (a.inSlot && a.lines.any fun l => l.n == n && l.st == .drowsy) s t
        (is t ((lineIs s g n fun l => { l with st := .resident }).tryHeader g))
  | .bankRefresh c b errs => some fun s t => is t ((errs.foldl (fun s e => eccFound s b.toNat c.toNat e) s).modCore c.toNat fun k =>
      { k with refreshing := setBit k.refreshing b.toNat true })
  | .bankRefreshEnd c b => some fun s t =>
      let s1 := s.modCore c.toNat fun k => { k with refreshing := setBit k.refreshing b.toNat false }
      let waiting := (s1.gangsOn c.toNat).filter fun a => a.fresh && a.inSlot
      is t (waiting.foldl (fun s a => s.tryHeader a.id) s1)
  | .bankGate c b => some fun s t => whenDue (gateable s c.toNat b.toNat) s t (
      let empty := fun (a : Agent) => { a with lines := a.lines.filter fun l => bankOf a l.n != b.toNat }
      is t (((s.gangsOn c.toNat).foldl (fun s a => s.modAgent a.id empty) s).modCore c.toNat fun k =>
        { k with gated := setBit k.gated b.toNat true }))
  -- GO while a flush is under way changes nothing; any other write sets CBH and DROP, and GO starts a flush
  | .ctxflushWrite c v => some fun s t =>
      let k := s.core c.toNat
      if k.flushBusy && v.getLsbD 0 then is t s
      else is t (s.setCore c.toNat { k with
        flushCb := v.extractLsb' 16 48, flushDrop := v.getLsbD 1, flushBusy := k.flushBusy || v.getLsbD 0 })
  | .ctxflushDone c => some fun s t =>
      let k := s.core c.toNat
      whenDue k.flushBusy s t (match s.flushed c.toNat with
        | none => is t (s.setCore c.toNat { k with flushBusy := false })
        | some a => whenDue (a.atom.isNone && (!a.lines.any fun l => k.refreshing.getLsbD (bankOf a l.n)) && (s.movable a.id).isSome) s t (
            let s1 := s.flushGang a.id k.flushDrop
            let left := (s1.agent a.id).any fun a => a.wbacks != [] || a.lines.any fun l => l.dirty || k.flushDrop
            is t (if left then s1 else s1.modCore c.toNat fun k => { k with flushBusy := false })))
  | .verifyCompare g first second => some fun s t => ofAgent s t g fun a =>
      let on := (s.sysreg (dev (0x380 + a.berth.toNat)) 0).getLsbD 1
      -- only a unit of a lane pipe is duplicated: majors 0x10 to 0x29 but for memory's own and the sequencer's (R22, R191, R283)
      let pipe := (s.majorAt a 7 a.pc).any fun n =>
        (0x10 ≤ n && n ≤ 0x15) || (0x17 ≤ n && n ≤ 0x1A) || (0x1D ≤ n && n ≤ 0x29)
      whenDue (a.prof == .full && a.inSlot && on && pipe && !first) s t (is t (
        if second then s.note 0xB0 g (BitVec.ofNat 64 (a.core.toNat / 4))
        else ((s.park g .service).service a 20 0xB1 0 0).retireCluster (a.core.toNat / 4)))
  | _ => none
where
  /-- An error that the ECC finds in a line of the bank (R144, R275). -/
  eccFound (s : State) (bank core : Nat) (e : UlsErr) : State :=
    match (s.agent e.g).filter fun a => a.prof == .full && a.core.toNat == core && bankOf a e.n == bank with
    | none => s
    | some a => match (a.line e.n).filter fun l => l.st != .filling && e.lanes != 0 with
      | none => s
      | some l =>
        let va := a.cb + BitVec.ofNat 64 (256 * e.n)
        let bad := if e.n < 16 then e.lanes else groupPoison a.ls 0xFFFFFFFF e.lanes
        if e.corrected then s.note 0 e.g va
        else if l.dirty || e.persists then (lineIs s e.g e.n fun l => { l with poison := l.poison ||| bad }).note 0x48 e.g va
        else if e.n < 16 || a.isWritten (e.n - 16) then lineIs s e.g e.n fun l => { l with st := .filling }
        else s

/-! ### Walks and fetches (R112, R113, R76) -/

def walkTable : Instr → Option Law
  | .walkerGrant k => some fun s t => match s.walks[k]? with
      | none => is t s
      | some w =>
        let first := !(s.walks.take k).any fun x => x.berth == w.berth && x.die == w.die && !x.granted
        whenDue (!w.granted && first && (s.freeWalker w.berth w.die).isSome) s t (is t { s with
          walks := changeAt (fun x : Walk => ({ x with granted := true, lender := (s.freeWalker w.berth w.die).getD none } : Walk)) k s.walks })
  | .walkComplete k err => some fun s t => match s.walks[k]? with
      | none => is t s
      | some w => whenDue w.granted s t (
          let s1 : State := { s with walks := dropAt k s.walks }
          -- a table read of a line in err meets a persistent error (R254)
          let met := { s1 with mem := err.foldl (fun m n => (List.range 8).foldl (fun m i => m.mark (64 * n + 8 * i) true) m) s1.mem }
          match s1.agent w.agent with
          | none => is t s1
          | some a =>
            -- the table reads are requests (R432)
            let s2 := (tableReads met w.berth w.ctx w.vpn).foldl (fun s pa => s.count ⟨w.berth, 0, 0, a.cls⟩ pa false) s1
            match met.walkFor a w.berth w.ctx w.vpn with
            | .ok p => is t (a.tlbLevels.foldl (fun s l => s.fillTlb l w.berth w.ctx w.vpn p) s2)
            | .error e => is t (s2.modAgent a.id fun a => { a with xfail := a.xfail.filter (·.1 != w.vpn) ++ [(w.vpn, e.cause, e.addr)] }))
  | .icacheFill g errs => some fun s t => ofAgent s t g fun a => match a.run with
      | .holding (.ifetch va) _ => whenDue (a.prof == .full) s t (
        let fail := fun (s : State) (c : BitVec 8) (w : Word) =>
          s.modAgent g fun a => { a with xfail := (va.toNat / 2 ^ 16, c, w) :: a.xfail, run := .active }
        match s.translate a (va.toNat / 2 ^ 16) with
        -- the walk has been asked for (R257)
        | (none, s) => is t s
        | (some (.error .s1), s) => is t (fail (s.forget g (va.toNat / 2 ^ 16)) 0x0E va)
        | (some (.error e), s) => is t (fail (s.forget g (va.toNat / 2 ^ 16)) e.cause (match e with | .table pa => BitVec.ofNat 64 pa | _ => va))
        | (some (.ok p), s1) =>
          let pa := p.pa + va.toNat % 2 ^ 16 / 64 * 64
          if !p.x then is t (fail s1 0x0F va)
          else if !s1.there pa then is t (fail s1 0x25 va)
          else whenDue (!s1.refuses pa) s1 t (
            let tree := s1.treeOf a
            let r := s1.homeGetBytes (a.req tree.1 p) pa 64
            let s2 := if errs = 0 then r.2 else r.2.note (if errs = 1 then 0 else 0x29) g (BitVec.ofNat 64 pa)
            let marked := (List.range 8).any fun i => s2.mem.marked (pa + 8 * i)
            let new : ILine := ⟨tree.1, tree.2, va.toNat / 64, r.1.1, decide (2 ≤ errs) || r.1.2 || marked, p.key⟩
            let other := fun (x : ILine) => !(x.berth == tree.1 && x.ctx == tree.2 && x.line == va.toNat / 64)
            is t ((s2.modCore a.core.toNat fun k => { k with icache := (new :: k.icache.filter other).take 512 }).modAgent g fun a =>
              { a with run := .active })))
      | _ => is t s
  | _ => none

/-! ### Slots, quanta, aging and swaps (R345 to R353, R364) -/

/-- The ceiling of a record's launch. -/
def ceiling (s : State) (r : Record) : BitVec 8 := ((s.gridOf r.grid).map (·.ceil)).getD 0

def slotTable : Instr → Option Law
  | .slotPop core place => some fun s t => whenDue ((s.inSlots core.toNat).length < 48) s t (
      -- the first record in the pop order that is a gang's, or whose team can be placed or given room now
      let opens := fun (r : Record) => (s.teamOf r.team).any fun x =>
        s.canPlace x place.toNat && (s.place x place.toNat r.lvl).popView != s.popView
      let all := s.eligible core.toNat
      match (s.popOrder all.length all).find? fun r => r.kind = 0 || r.kind = 4 || opens r with
      | none => is t s
      | some r => is t (if r.kind = 0 || r.kind = 4 then s.activate r
          else (s.teamOf r.team).elim s fun x => s.place x place.toNat r.lvl))
  | .preempt g => some fun s t => ofAgent s t g fun a =>
      let n := a.core.toNat
      let act := (s.inSlots n).filter (·.run != .leaving)
      -- a record that becomes eligible, the lowest-ranked gang of lower level (R349)
      let higher := (s.first ((s.eligible n).filter (!·.seen))).bind fun r =>
        (lowestRank (act.filter fun x => x.pri.toNat < r.lvl.toNat)).map (r, ·)
      let other := lowestRank (act.filter fun x => x.pri.toNat ≤ 17 && !x.guarded s.clk)
      whenDue (48 ≤ (s.inSlots n).length) s t (match higher with
        | some (r, x) => whenDue (x.id == g) s t (is t ((s.modRecord r.id fun r => { r with seen := true }).leaveSlot g true))
        | none => match s.first ((s.eligible n).filter (·.due.isSome)) with
          | none => is t s
          -- the slot that a due record frees takes that record (log 81); a team without room is given that first
          | some d => whenDue (other.any (·.id == g)) s t (
              let s1 := taken ((s.leaveSlot g true).modRecord a.record fun r => { r with seen := true }) d
              is t (if (s1.recordOf d.id).any (·.queued) then taken s d else s1)))
  | .quantumExpiry g => some fun s t => ofAgent s t g fun a =>
      whenDue (a.prof == .full && a.inSlot && a.run != .leaving && a.since + 35000 ≤ s.clk) s t (
        let lvl : BitVec 5 := if a.pri < 16 then a.pri else ((s.gridOf a.grid).map fun g => g.ceil.setWidth 5).getD 0
        let s1 := s.modAgent g fun a => { a with pri := lvl, since := s.clk, prot := false }
        is t (if (s1.eligible a.core.toNat).any fun r => r.lvl.toNat == lvl.toNat then s1.leaveSlot g false else s1))
  | .aging n => some fun s t => match s.recordOf n with
      | none => is t s
      | some x => whenDue (x.live && x.queued && x.kind != 5 && x.lvl < 16 && x.lvl < ceiling s x && x.since + 140000 ≤ s.clk
            && (s.berth x.berth).state == 1) s t (is t
              ((s.modRecord n fun x => { x with lvl := x.lvl + 1, since := s.clk }).storeRecord n))
  | .recordDue n => some fun s t => match s.recordOf n with
      | none => is t s
      | some x => whenDue (x.live && x.queued && x.kind != 5 && x.due.isNone && (x.lvl == ceiling s x || x.lvl == 16 || x.lvl == 17)
            && x.since + 140000 ≤ s.clk && (s.berth x.berth).state == 1) s t (is t (s.modRecord n fun x => { x with due := some s.clk }))
  | .swapThresholdExpiry n => some fun s t => tested s t n false
  | .swapRetest n => some fun s t => tested s t n true
  | .swapOut n => some fun s t => match s.teamOf n with
      | none => is t s
      | some x =>
        let us := s.unitTeams x
        let busy := s.streamBusy (s.lead x).id || us.any fun y => s.padBusy y.id || y.gangs.any fun g => (s.agent g).any (·.atom.isSome)
        let allowed := (x.waitSince.isSome && s.swapAllowed x false) || (x.qwaitSince.isSome && s.swapAllowed x true)
        whenDue (x.swapWanted && x.placed.isSome) s t (
          if !allowed then is t (s.modTeam n (blockedAt s.clk))
          else whenDue (!busy) s t (is t (us.foldl (fun s y => s.swapWake y.id) (s.evict n))))
  | _ => none
where
  /-- A record taken by a slot: a gang activated, or a team placed on the first core with room for it. -/
  taken (s : State) (r : Record) : State :=
    if r.kind = 0 || r.kind = 4 then s.activate r
    else match s.teamOf r.team with
      | none => s
      | some x => ((List.range 256).find? (s.canPlace x)).elim s fun c => s.place x c r.lvl
  /-- A swap-out that is blocked: the team's own wait, and its quad's, are tested again from now on. -/
  blockedAt (clk : Nat) (x : Team) : Team :=
    { x with swapWanted := false, blocked := true, waitSince := x.waitSince.map fun _ => clk, qwaitSince := x.qwaitSince.map fun _ => clk }
  /-- The test of a waiting team after its threshold, or 20 µs after the last test (R364). -/
  tested (s t : State) (n : Nat) (again : Bool) : Bool := match s.teamOf n with
    | none => is t s
    | some x => match s.gridOf x.grid with
      | none => is t s
      | some g =>
        let th := s.swapTh g.berth
        let late := fun (w : Option Nat) => w.any fun w => w + (if again then 14000 else 700 * th) < s.clk
        whenDue (x.placed.isSome && !x.swapWanted && th != 0 && x.blocked == again && (late x.waitSince || late x.qwaitSince)) s t
          -- of the team's barrier and of its quad's, the one that waits must let the swap-out start (R364)
          (is t (if (late x.waitSince && s.swapAllowed x false) || (late x.qwaitSince && s.swapAllowed x true) then
              s.modTeam n fun x => { x with swapWanted := true, blocked := false }
            else s.modTeam n (blockedAt s.clk)))

/-! ### Retirement and waits that end in time (R32, R43, R178, R184, R359) -/

def endTable : Instr → Option Law
  | .gangRetire g => some fun s t => ofAgent s t g fun a => whenDue (a.run == .leaving && s.released g && !a.looks.any Look.pushing) s t (
      let s1 := ((s.removeGang g).readyAll fun _ w => w == .joinOf g).barComplete a.team false
      is t ((s1.barComplete a.team true).swapWake a.team))
  | .teamRetire n => some fun s t => match s.teamOf n with
      | none => is t s
      -- a gang that no slot has taken yet does not count, and goes with its team (R357, log 98)
      | some x => whenDue (!x.ended && x.placed.isSome && s.countedGangs x = [] && !s.padBusy n) s t (
          let s1 := (x.gangs.foldl State.removeGang s).modTeam n fun x => { x with ended := true, placed := none, scratch := Mem.empty, waitSince := none, qwaitSince := none }
          let s2 := match s1.teamRecord n with
            | some r => s1.modRecord r.id fun r => { r with live := false, queued := false }
            | none => s1
          -- a sequencer at a port of the member goes on, and the grid ends with the last team of its last stage
          let woken := (s2.signal n).readyAll fun _ w => match w with | .queue y _ _ => y == n | _ => false
          let s3 := woken.modGrid x.grid fun g => { g with left := if x.stage.toNat + 1 = g.stages then g.left - 1 else g.left }
          is t (if (s3.unitTeams x).all (·.ended) then s3.stopQuad (s3.lead x).id else s3))
  | .bartoTimeout g => some fun s t => ofAgent s t g fun a => match a.waits with
      | some (.barto _ until_ _) => whenDue (until_ ≤ s.time) s t
          (is t (((s.modTeam a.team fun t => { t with arrived := t.arrived.filter (· != g) }).saveHead a.team).ready g))
      | _ => is t s
  | .wfeTimeout g => some fun s t => ofAgent s t g fun a => match a.run with
      | .parked .event since => whenDue (a.prof != .firmware && since + 7000 ≤ s.clk) s t (is t (s.ready g))
      | _ => is t s
  | .waitParkTimeout g => some fun s t => ofAgent s t g fun a => match a.run with
      | .holding w since => whenDue (a.prof == .full && w.parks && since + 1400 ≤ s.clk) s t (is t (s.park g w))
      | _ => is t s
  | .watchTimeout g => some fun s t => ofAgent s t g fun a => match a.run with
      | .parked (.addr _ w) since => whenDue (since + (if w then 70000 else 1400) ≤ s.clk) s t
          (is t ({ s with watches := s.watches.filter (·.agent != g) }.ready g))
      | _ => is t s
  | _ => none

/-! ### Packets and grids (R44, R366 to R380) -/

def packetTable : Instr → Option Law
  -- a write to a notify page waits for earlier posted writes of its requester that wait (R127, R130)
  | .notifyWrite r o n v => some fun s t => whenDue s.hostUp s t (
      if s.waiting.any (Outside.page r o n false v).follows then is t { s with waiting := s.waiting ++ [.page r o n false v] }
      else match s.queueOf o n with
        | none => is t s
        | some q =>
          let s1 := s.modQueue o n fun q => { q with wptr := if q.wptr.toNat < v.toNat then v else q.wptr, pw := !q.mapped }
          is t (if q.mapped then s1 else s1.wakeQueue q))
  -- every admitted packet of the queue with this SEQ that has not signalled is cancelled (R380)
  | .cancelWrite r o n seq => some fun s t =>
      let w := Outside.page r o n true (seq.setWidth 64)
      let hit := fun (p : Packet) => p.owner == o && p.nidx == n && p.admitted && decide (p.phase < 5) && p.seq == seq.toNat
      whenDue s.hostUp s t (is t (if s.waiting.any w.follows then { s with waiting := s.waiting ++ [w] }
        else (s.packets.filter hit).foldl (fun s p => s.cancel p 0xAA) s))
  | .deadlineCancel n => some fun s t => match s.packetOf n with
      | none => is t s
      | some p => whenDue (p.admitted && p.phase < 5 && p.flag 3 && p.deadline != 0 && p.deadline ≤ s.time
          && !(s.berth p.berth).cancels.any (·.1 == p.id)
          && !(p.phase == 4 && (p.state == 2 || p.code == 0xA9 || p.code == 0xAA))) s t (is t (s.cancel p 0xA9))
  | .packetTake b => some fun s t =>
      let br := s.berth b
      let mine := s.queues.filter (·.berth == b)
      let ok := (((List.range mine.length).zip mine).filter fun x => s.takeable x.2)
      match (ok.find? fun x => br.turn ≤ x.1).orElse fun _ => ok.head? with
      | none => is t s
      | some (j, q) => whenDue (br.state == 1 && (s.sysreg (dev (0x380 + b.toNat)) 0).getLsbD 0) s t (
          let s1 := s.modBerth b fun x => { x with turn := j + 1 }
          match s1.queueFault q with
          | some (c, va) => is t (s1.ask b c va va)
          | none =>
            let ((p, bad), s2) := s1.peekPacket q
            let s3 := s2.modQueue q.owner q.nidx fun q => { q with rptr := q.rptr + 1 }
            let s4 := match s3.iaOf b q.header.toNat with
              | some pa => s3.homePut ⟨b, q.key, q.tslot, 1⟩ pa 0xFF (q.rptr + 1) false none
              | none => s3
            if bad then is t ((s4.takeFree.2).recordRefusal q.owner (bits (Config.freeWord s4.takeFree.1) 31 0) 0xA0)
            else is t (s4.judge q p))
  | .heapStart b => some fun s t =>
      let can := s.packets.filter fun p => p.berth == b && p.admitted && decide (p.phase < 3) && (s.tryStart p).isSome
      match (firstPacket (can.filter (·.phase != 0))).orElse fun _ => firstPacket can with
      | none => is t s
      | some p => whenDue ((s.berth b).state == 1) s t (is t ((s.tryStart p).getD s))
  | .gridEndFlush n => some fun s t => match s.gridOf n with
      | none => is t s
      | some g => whenDue (!g.flushed && g.left == 0) s t (
          -- what an earlier stage still runs is ended, its copies performed (R44, log 82)
          let late := fun (t : Team) => t.grid == n && !t.ended
          if !g.killed && s.teams.any late then is t ((s.settleCopies fun o => o.touches s late).endTeams n true late)
          else whenDue (!s.gridBusy n) s t (
          let s1 := (s.releaseEntries n).modGrid n fun x => { x with flushed := true }
          let s2 := g.lath.foldl (fun s c => (s.unlock (lathOwner c)).modChannel c Channel.clear) s1
          match s2.packetOf g.packet with
          | none => is t s2
          | some p =>
            let start := ((s2.queueOf p.owner p.nidx).map fun q => g.area - q.poolBase.toNat).getD 0
            let s3 := s2.modQueue p.owner p.nidx fun q => { q with poolUsed := q.poolUsed.filter fun u => u.1 != start }
            -- the first address that a grid of the packet lost stands with it (R44, R378)
            let s4 := s3.modPacket p.id fun p => { p with lost := p.lost.orElse fun _ => g.lostAddr }
            is t (if g.killed || p.phase != 3 then s4
              else if p.repeats then s4.modPacket p.id fun p => { p with phase := 1, repeats := false, rep := p.rep + 1 }
              else s4.endPacket p.id 1 0 0 0 0)))
  | .completionSignal n => some fun s t => match s.packetOf n with
      | none => is t s
      | some x =>
        let p : Packet := if x.phase = 0 && x.isFence && s.earlierDone x then { x with phase := 4, state := 1 } else x
        whenDue (p.phase == 4 && ((s.gridOf x.grid).map (·.flushed)).getD true) s t (
          let bs := s.signalBytes p
          let put := fun (s : State) (off : Nat) => s.virtPut p.berth p.ctx (p.word 7 + BitVec.ofNat 64 off) ((bs.drop off).take 8)
          -- STATUS last; an interrupt only after it (R377)
          let s1 := match (put s 8).bind fun a => (put a 16).bind fun b => (put b 24).bind fun c => put c 0 with
            | none => s.ask p.berth 0xAB (p.word 7) (BitVec.ofNat 64 p.id)
            | some a => if p.flag 2 then a.interrupt p else a
          is t ((s1.freePacketLath p).modPacket n fun x => { x with phase := 5, state := p.state }))
  | _ => none

/-! ### Engines (R242, R289, R305 to R315, R328 to R342) -/

/-- The operation k of an engine of cluster c. -/
def ofOp (s t : State) (c : BitVec 6) (k : Nat) (f : Matrix → MxOp → Bool) : Bool :=
  match (s.cluster c.toNat).mx.ops[k]? with
  | some o => f (s.cluster c.toNat).mx o
  | none => is t s

/-- A unit held for an engine goes on. -/
def woken (s t : State) (g : Nat) (w : Wait) : Bool :=
  ofAgent s t g fun a => is t (if a.waits = some w then s.ready a.id else s)

def engineTable : Instr → Option Law
  | .sfuAccept c soft romErr => some fun s t => match sfuNextUnit s c.toNat with
      | none => is t s
      | some (a, k, n) =>
        let s1 := s.modCluster c.toNat fun x => { x with sfuNext := BitVec.ofNat 2 (n + 1) }
        let r := fun (x : Agent) (l : Look) i => sfuLane l.major (l.word.extractLsb' 4 7).toNat (rmOf x) (ftzOf x) (lane l.req i)
        let done := fun (x : Agent) (l : Look) => ({ l with
          phase := .held, val := lanesOf fun i => BitVec.ofNat 64 (r x l i).1
          flg := (lanesIn l.lanes).foldl (fun acc i => acc ||| (r x l i).2) (0 : Flags) } : Look)
        -- the request of a unit whose traps are enabled is none of its gang's descriptors (R240)
        let given := fun (x : Agent) => match k with
          | some k => { x with looks := changeAt (done x) k x.looks }
          | none => { x with check := x.check.map (done x) }
        if romErr then is t (((s1.park a.id .service).service a 20 0xB1 0 0).retireCluster c.toNat)
        else
          let s2 := if soft then s1.note 0 a.id (c.setWidth 64) else s1
          is t (((s2.modAgent a.id given).land a.id).readyAll fun b w =>
            w == .results && b.core.toNat / 4 == c.toNat && b.prof == .full)
  | .lathInstanceComplete ch => some fun s t => match (s.channel ch.toNat).inst with
      | none => is t s
      | some x => whenDue (!x.complete && x.form.p.toNat ≤ x.arrived && !x.units.any fun p => s.refuses p.1) s t (
          let x' : LathInst := { x with complete := true, away := [], vals := x.away.foldl (combine x.form.op.toNat) x.vals }
          let s1 := ((s.writeResult ch.toNat x').unlock (lathOwner ch.toNat)).modChannel ch.toNat fun c => { c with inst := some x', gen := c.gen + 1 }
          let s2 := (if x.form.red then s1 else s1.openChannel ch.toNat).readyAll fun _ w => w == .lathDone ch.toNat
          let wake := fun (s : State) (g : Nat) => if (s.agent g).any (·.waits == some .event) then s.ready g else s
          is t (x.agents.foldl wake s2))
  | .domainTreeMessage ch m => some fun s t =>
      let c := s.channel ch.toNat
      whenDue c.dx s t (match m with
        | .arrive k f vals =>
          -- the first arrival gives the instance its form, here or on another device (R288)
          let form : LathForm := { red := f.red, op := f.op, k := f.k, dx := true, p := f.p, w := f.w, addr := none }
          let x : LathInst := c.inst.getD (LathInst.empty form)
          whenDue ({ x.form with addr := none } == form && x.arrived + k ≤ f.p.toNat) s t
            (is t (s.modChannel ch.toNat fun c => { c with
              inst := some { x with arrived := x.arrived + k, away := x.away ++ (if vals = [] then [] else [vals]) } }))
        | .taken k => (match c.inst with
          | none => is t s
          | some x => is t (if x.form.p.toNat ≤ x.taken + k then s.openChannel ch.toNat
              else s.modChannel ch.toNat fun c => { c with inst := some { x with taken := x.taken + k } }))
        | .openNext => is t (s.openChannel ch.toNat)
        | .abort did => is t (s.abortChannel ch.toNat did))
  | .copyAccept g => some fun s t => ofAgent s t g fun a => is t (match a.run with
      | .holding .accept _ => s.ready g
      | _ => s)
  | .copyStart c k => some fun s t =>
      let cl := s.cluster c.toNat
      match cl.copies[k]? with
      | none => is t s
      | some o => whenDue (!o.started && (cl.copies.take k).all (·.started) && (cl.copies.filter (·.started)).length < 8
            && issueReleased s o.agent o.ord) s t (
          let cores := (List.range 4).filter (CpyCmd.of o.cmd).mcast.testBit
          let found := cores.map fun i => (i, castTeam s o (4 * c.toNat + i))
          let dests := found.filterMap (·.2)
          let o' : CopyOp := if o.mode = 4 || cores = [] then { o with started := true }
            else { o with
              started := true, dests := dests, teams := (o.teams ++ dests).eraseDups
              skip := BitVec.ofNat 4 (found.foldl (fun acc p => if p.2.isNone then acc + 2 ^ p.1 else acc) 0) }
          is t (s.setCluster c.toNat { cl with copies := changeAt (fun _ => o') k cl.copies }))
  | .copyComplete c k n err pads ok => some fun s t => match (s.cluster c.toNat).copies[k]? with
      | none => is t s
      | some o => whenDue (o.started && !o.pages.any fun p => s.refuses p.2.1) s t (
          -- a peer that takes no more of an ASTORE: LINK, and the grid's first lost address (R44, R315)
          let lost := fun (o : CopyOp) (s : State) => ((s.teamOf o.team).map fun x => s.modGrid x.grid fun g => { g with
            lostAddr := if g.lostAddr.isNone then some (BitVec.ofNat 64 (o.dstAt o.pos)) else g.lostAddr }).getD s
          if o.mode = 4 && (!ok || o.link) then is t ((lost o s).finishCopy c.toNat { o with link := true })
          else if o.mode = 3 then
            let r := quantAll ⟨err, pads⟩ o s
            is t (r.2.finishCopy c.toNat r.1)
          else
            let steps := if n = 0 then o.total else n
            let r := if o.mode = 4 then astorePieces ⟨err, pads⟩ steps (o, s) else copyPieces ⟨err, pads⟩ steps (o, s)
            is t (if r.1.link then (lost r.1 r.2).finishCopy c.toNat r.1
              else if r.1.total ≤ r.1.pos then r.2.finishCopy c.toNat r.1
              else r.2.modCluster c.toNat fun cl => { cl with copies := changeFirst (·.id == r.1.id) (fun _ => r.1) cl.copies }))
  | .tfetchAccept c => some fun s t => woken s t (64 + c.toNat) .matrix
  | .mmaAccept c => some fun s t => woken s t (64 + c.toNat) .matrix
  | .tileFull c h => some fun s t =>
      let e := (s.cluster c.toNat).entry h.toNat
      match e.tile, s.agent (64 + c.toNat) with
      | some x, some a => whenDue (e.st == .filling && e.kind == .tile) s t (
          -- the pages of the lines that it reads are walked first (R257): of the bitmaps, then of all
          let ask := fun (ps : List Nat) => ps.foldl (fun s v => s.askWalkOf a v) s
          let all := (fetchLines a x s).eraseDups
          if s.missingPages a x.heads != [] then is t (ask (s.missingPages a x.heads))
          else if s.missingPages a all != [] then is t (ask (s.missingPages a all))
          else
            let s1 := (all.foldl (tileLine a h.toNat) s).modAgent a.id fun a => { a with xfail := [] }
            let s2 := s1.modCluster c.toNat fun k => k.setEntry { k.entry h.toNat with st := .full }
            is t ((s2.entryEvent c.toNat h.toNat).mxEvent (some e.quad)))
      | _, _ => is t s
  | .mmaStart c k => some fun s t => ofOp s t c k fun x o => match o.kind with
      | .mma z ro co shape a b =>
        let full := fun (p : MxOperand) => ((operandEntry s p).map (·.st == .full)).getD true
        whenDue (!o.started && !s.mxStopped c.toNat && !accBusy x.ops k o.acc && full a && full b) s t (
          let s1 := (s.setOperand a .draining).setOperand b .draining
          let region := inRegionOf o.acc (if ro then 128 else 0) (if co then 128 else 0) (shapeM (shape.toNat / 4)) (shapeN (shape.toNat / 4))
          is t ((if z then s1.modCluster c.toNat fun y => { y with mx := y.mx.clear region } else s1).setMxOp c.toNat k { o with started := true }))
      | _ => is t s
  | .mmaComplete c k => some fun s t => ofOp s t c k fun _ o => match o.kind with
      | .mma _ _ _ _ a b => whenDue (o.started && a.tile.k ≤ o.progress) s t
          (is t (((s.dropOperand a a.drop).dropOperand b b.drop).endMxOp c.toNat k))
      | _ => is t s
  | .mxzeroDone c k => some fun s t => ofOp s t c k fun x o => match o.kind with
      | .zero => whenDue (!s.mxStopped c.toNat && !accBusy x.ops k o.acc) s t (is t ((s.modCluster c.toNat fun y =>
          { y with mx := { y.mx with cells := y.mx.cells.filter fun z => z.1 / 65536 != o.acc.toNat
                                     poison := y.mx.poison.filter fun z => z / 65536 != o.acc.toNat } }).endMxOp c.toNat k))
      | _ => is t s
  | .drainComplete c k => some fun s t => ofOp s t c k fun _ o => match o.kind with
      | .drain w _ _ entry _ => whenDue ((DrainCtl.of w).entries ≤ o.progress) s t (
          let s1 := s.unlock o.id
          let s2 := match entry with
            | none => s1
            | some x =>
              let e := (s1.cluster (x / 64)).entry (x % 64)
              if e.st == EntryState.filling && e.op == o.id then
                (if e.dying then s1.freeEntryOf (x / 64) (x % 64)
                 else (s1.modCluster (x / 64) (·.setEntry { e with st := .full })).entryEvent (x / 64) (x % 64))
              else s1
          is t (s2.endMxOp c.toNat k))
      | _ => is t s
  | .drainEntryPush c k ecc soft => some fun s t => ofOp s t c k fun x o => match o.kind with
      | .drain w port addr _ pages =>
        let ctl := DrainCtl.of w
        let team := port.bind fun p => x.quad.bind fun q => s.member q p.2.toNat
        let q := (port.map fun p => p.1.toNat % 64).getD 0
        whenDue (!s.mxStopped c.toNat && !accBusy x.ops k o.acc && o.progress < ctl.entries
            && !pages.any fun p => s.refuses p.2.1) s t (
          if team.any fun y => qClosed y.scratch q then
            is t ((s.modCluster c.toNat fun y => { y with mx := { y.mx with qcl := true } }).endMxOp c.toNat k)
          else whenDue (!(team.any fun y => 15 ≤ qCount y.scratch q)) s t (
            let per := 256 / ctl.size
            let cells := (List.range per).map fun i => ctl.cell (per * o.progress + i)
            let s0 := if (ecc.filter cells.contains) = [] then s else s.note 0x77 c.toNat 0
            let s1 := if soft then s0.note 0 c.toNat 0 else s0
            let bad := fun i => x.poison.contains i || ecc.contains i
            let out := cells.map fun i => drainCell ctl (findD i 0 x.cells) (bad i)
            let unitAt := fun (j : Nat) => (BitVec.ofNat 64 (ofBytes (((out.flatMap (·.1)).drop (8 * j)).take 8)) : Word)
            let markAt := fun (j : Nat) => (out.flatMap fun p => List.replicate ctl.size p.2).getD (8 * j) false
            let toMemory := fun (s : State) (j : Nat) =>
              let va := addr.toNat + 256 * o.progress + 8 * j
              match frameIn pages va with
              | some (pa, key, ts) => s.homePut ⟨(mxTree s o).1, key, ts, 1⟩ pa 0xFF (unitAt j) (markAt j) none
              | none => s
            let s2 := match port, team with
              | some _, some y => s1.push y.id q (lanesOf unitAt) (maskOf markAt)
              | some _, none => s1
              | none, _ => (List.range 32).foldl toMemory s1
            let after := fun (y : Cluster) =>
              let m := if ctl.clr then y.mx.clear cells.contains
                else { y.mx with poison := (ecc.filter cells.contains).foldl (fun ps i => ins i ps) y.mx.poison }
              { y with mx := { m with pdr := m.pdr || cells.any bad } }
            is t ((s2.modCluster c.toNat after).setMxOp c.toNat k { o with started := true, progress := o.progress + 1 })))
      | _ => is t s
  | .sequencerExitDone c => some fun s t => ofAgent s t (64 + c.toNat) fun a => match (s.cluster c.toNat).mx.quad with
      | none => is t s
      | some q => whenDue (a.run == .closing && (s.cluster c.toNat).mx.ops.isEmpty) s t (
          let s1 := (s.freeEntries fun _ e => e.kind != .copy && e.quad == q).closeQueues a fun k => k.getLsbD 6
          is t ((s1.modAgent a.id fun a => { a with run := .off }).modCluster c.toNat fun x => { x with mx := { x.mx with quad := none } }))
  | .segmentEnd c k pass1 pass2 pass3 err ecc soft => some fun s t => match s.agent (64 + c.toNat) with
      | none => is t s
      | some g => ofOp s t c k fun _ o => match o.kind with
        | .mma _ ro co shape a b =>
          -- the record of a stage-2 failure that its pilot has not served holds the operation
          let waits := s.records.any fun r => r.live && r.kind == 5 && r.agent == 64 + c.toNat && r.sub == BitVec.ofNat 64 o.id
          whenDue (o.started && !s.mxStopped c.toNat && o.progress < a.tile.k && !waits) s t (
            match readSegment g err a.tile b.tile (productLimit o.fmt) o.progress s with
            -- nothing is read until all of it can be: only the walks it asks for stay
            | (.error none, s1) => is t { s with walks := s1.walks }
            | (.error (some (cause, va)), _) =>
              let s1 := s.modAgent g.id fun a => { a with xfail := [] }
              is t ((s1.note cause g.id (BitVec.ofNat 64 va)).service g 20 cause (BitVec.ofNat 64 va) (BitVec.ofNat 64 o.id))
            | (.ok (stop, ra, rb), s1) =>
              let r := replayed (s1.modAgent g.id fun a => { a with xfail := [] }) c pass1 pass2 pass3
              if r.2 then is t (r.1.retireCluster c.toNat)
              else segment r.1 t c k o ro co shape (stop, ra, rb) ecc soft)
        | _ => is t s
  | _ => none
where
  /-- A line that a tile fetch reads, pinned in its slice where the berth's ways allow another (R328). -/
  tileLine (a : Agent) (h : Nat) (s : State) (l : Nat) : State :=
    match s.pageOf a (64 * l / 2 ^ 16) with
    | some (.ok p) =>
      let pa := p.pa + 64 * l % 2 ^ 16
      let b := (s.treeOf a).1
      if !s.there pa then s
      else
        let s2 := ((s.count ⟨b, p.key, p.t, 1⟩ pa false).openLine ⟨b, p.key, p.t, 1⟩ pa).1
        if s2.canPin b (pa / 64) then s2.modCluster (a.id - 64) fun k => k.setEntry { k.entry h with pins := (k.entry h).pins ++ [pa / 64] }
        else s2
    | _ => s
  /-- The passes of the check channel (R334): a mismatch that a replay clears is counted, with 0xB0; the columns that
  fail twice take spares, with 0xB2; a third column, or a replay that fails again, retires the cluster. -/
  replayed (s : State) (c : BitVec 6) (pass1 pass2 pass3 : List (BitVec 8)) : State × Bool :=
    let count := fun (y : Cluster) => { y with mx := { y.mx with rpl := if y.mx.rpl = 0xFFFF then y.mx.rpl else y.mx.rpl + 1 } }
    let cols := (pass1.filter fun j => pass2.contains j).eraseDups
    let spare := fun (y : Cluster) => { y with mx := { y.mx with spared := y.mx.spared ++ cols, spr := true } }
    if pass1 = [] then (s, false)
    else if pass2 = [] then ((s.modCluster c.toNat count).note 0xB0 c.toNat 0, false)
    else if 2 < (s.cluster c.toNat).mx.spared.length + cols.length then (s, true)
    else ((s.modCluster c.toNat spare).note 0xB2 c.toNat 0, decide (pass3 ≠ []))
  /-- A segment's products added (R331 to R335): each cell of the region gets the exact sum of its row by its
  column, a poisoned sum poisons it, and the operation goes on after the segment. -/
  segment (s t : State) (c : BitVec 6) (k : Nat) (o : MxOp) (ro co : Bool) (shape : BitVec 4) (x : Nat × TileRows × TileRows)
      (ecc : List Nat) (soft : Bool) : Bool :=
    let r0 := if ro then 128 else 0
    let c0 := if co then 128 else 0
    let m := shapeM (shape.toNat / 4)
    let n := shapeN (shape.toNat / 4)
    let sums := ((List.range m).zip x.2.1).flatMap fun p => ((List.range n).zip x.2.2).map fun q =>
      (cellNo o.acc (r0 + p.1) (c0 + q.1), cellSum p.2 q.2)
    let adds := sums.filterMap fun p => p.2.bind fun v => if v = 0 then none else some (p.1, v)
    let bad := (sums.filter (·.2.isNone)).map (·.1) ++ ecc.filter (inRegionOf o.acc r0 c0 m n)
    let s1 := if ecc = [] then s else s.note 0x77 c.toNat 0
    let s2 := if soft then s1.note 0 c.toNat 0 else s1
    let after := fun (y : Cluster) => { y with mx := { y.mx with
      cells := mergeCells (y.mx.cells.length + adds.length) y.mx.cells adds
      poison := bad.foldl (fun ps i => ins i ps) y.mx.poison } }
    is t ((s2.modCluster c.toNat after).setMxOp c.toNat k { o with progress := x.1 })

end Sys2Proof.Claims
end

