-- ==== Sys2Proof/Claims/Frames.lean ====
section
/-!
DEFINITION. The words of the statements that name no table: fields of an instruction word, the shifts of R199,
which instructions compute on registers alone, what a gang cannot change, and the checks of R77 in their order.
-/

namespace Sys2Proof.Claims

open Sys2Proof.Machine

/-- The state whose turn's word is fetched: one aclk later, one word less to run, the agent's wait at issue
ended (R163). -/
def atTurn (s : State) : State :=
  let p : State := { s.passTo (s.clk + 1) with quota := s.quota - 1 }
  { p with cur := { p.cur with run := .active } }

/-! ### Shifts (R199) -/

/-- The four shifts: width, and the result of a w-bit x by an unsigned amount n. -/
def shiftForm : Instr → Option (Nat × (Nat → Nat → Nat))
  | .shl t _ _ _ => some (iwidth t, fun x n => if iwidth t ≤ n then 0 else x * 2 ^ n % 2 ^ iwidth t)
  | .shr t _ _ _ => some (iwidth t, fun x n => if iwidth t ≤ n then 0 else x / 2 ^ n)
  | .sar t _ _ _ => some (iwidth t, fun x n =>
      let sign := if x.testBit (iwidth t - 1) then 2 ^ iwidth t - 1 else 0
      -- n copies of the sign above the bits that stay
      if iwidth t ≤ n then sign else x / 2 ^ n + sign / 2 ^ (iwidth t - n) * 2 ^ (iwidth t - n))
  | .rol t _ _ _ => some (iwidth t, fun x n =>
      let m := n % iwidth t
      x * 2 ^ m % 2 ^ iwidth t + x / 2 ^ (iwidth t - m))
  | _ => none

/-- The divisions that read their operands as signed (R202). -/
def signedDivision : Instr → Bool
  | .idivI64 _ _ _ | .idivI32 _ _ _ | .iremI64 _ _ _ | .iremI32 _ _ _ => true
  | _ => false

/-- The remainders (R201). -/
def remainder : Instr → Bool
  | .remI64 _ _ _ | .remI32 _ _ _ | .iremI64 _ _ _ | .iremI32 _ _ _ => true
  | _ => false

/-! ### What stays (R195) -/

/-- Instructions that compute integers in registers alone. -/
def computes (i : Instr) : Bool :=
  (packedTable i).isSome || (divTable i).isSome || (laneTable i).isSome || (fieldTable i).isSome

/-- Memory, what belongs to firmware and security, and the part's configuration are as they were. -/
def outsideSame (s t : State) : Prop :=
  t.mem = s.mem ∧ t.sysregs = s.sysregs ∧ t.keys = s.keys ∧ t.tensors = s.tensors ∧ t.pasids = s.pasids
    ∧ t.sram = s.sram ∧ t.image = s.image ∧ t.streams = s.streams ∧ t.config = s.config ∧ t.pend = s.pend

/-- The agent's masks, window, bindings, vectors and context are as they were. -/
def controlSame (a b : Agent) : Prop :=
  b.em = a.em ∧ b.xm = a.xm ∧ b.wb = a.wb ∧ b.cb = a.cb ∧ b.nslots = a.nslots ∧ b.ls = a.ls ∧ b.fpc = a.fpc
    ∧ b.tid = a.tid ∧ b.tcoord = a.tcoord ∧ b.stage = a.stage ∧ b.trapvec = a.trapvec ∧ b.kbind = a.kbind ∧ b.kcore = a.kcore
    ∧ b.pin = a.pin ∧ b.regionFirst = a.regionFirst ∧ b.regionCount = a.regionCount

/-- Registers of an agent: the saved values of a trap, condition registers, scalars and slots. -/
def registersSame (a b : Agent) : Prop :=
  b.sreg = a.sreg ∧ b.spois = a.spois ∧ b.cc = a.cc ∧ ∀ i, b.slot i = a.slot i

/-- Every register but the destination n of a unit: a slot of the window, a scalar, or a port, which is none. -/
def othersSame (a b : Agent) (n : Nat) : Prop :=
  (∀ i, i < 24 → n ≠ 96 + i → b.sreg.getD i 0 = a.sreg.getD i 0 ∧ b.spois.getLsbD i = a.spois.getLsbD i)
    ∧ ∀ i, (n < 96 → i ≠ a.wb.toNat + n) → b.slot i = a.slot i

/-! ### The order of R77 -/

/-- The class of an encoding fault in the order of R77, the fetch faults and 0x0A apart: 0x07, 0x06, then 0x01 and
0x03, then 0x04, 0x05, 0x08, 0x02, 0x0B, 0x0C, 0x09. -/
def faultRank (c : BitVec 8) : Nat := match c.toNat with
  | 0x07 => 0
  | 0x06 => 1
  | 0x01 | 0x03 => 2
  | 0x04 => 3
  | 0x05 => 4
  | 0x08 => 5
  | 0x02 => 6
  | 0x0B => 7
  | 0x0C => 8
  | 0x09 => 9
  | _ => 10

/-- HALT is a firmware core's, and ERET a firmware core's or a trap continuation's (R58). -/
def haltAllowed (a : Agent) (w : IWord) : Prop := majorOf w = 0 → fieldF w = 7 → a.prof = .firmware
def eretAllowed (a : Agent) (w : IWord) : Prop :=
  majorOf w = 0 → fieldF w = 5 → a.prof = .firmware ∨ (a.prof = .full ∧ a.trapc = true)

/-- No field of the unit holds what 0x02 is for (R76): the word's reserved fields and bits are zero and its fields
hold no reserved value, SHFI's lane is one that its field could name, LCMP's FLAGS names its own condition register,
REP steps only fields that name registers, and SCL on a copy into the matrix engine leaves its second register and its
scale byte zero. -/
def fieldsOk (a : Agent) (w : IWord) (fm : Form) : Prop :=
  (fieldBad fm.d (fieldD w) = false ∧ fieldBad fm.a (fieldA w) = false ∧ fieldBad fm.b (fieldB w) = false ∧
    fieldF w &&& (15 - fm.f) = 0 ∧ fm.bad (fieldD w) (fieldA w) (fieldB w) (fieldF w) = false) ∧
  (majorOf w = 0x19 → (prefixOf a.pfx 1).isSome = true → 0 ≤ immOf a.pfx 0x19 w ∧ immOf a.pfx 0x19 w ≤ 2047) ∧
  (majorOf w = 0x41 → fieldF w = 5 → ∀ p, prefixOf a.pfx 3 = some p → pay p 20 2 = fieldD w) ∧
  (∀ p, prefixOf a.pfx 2 = some p → (repStep p 12 ≠ 0 → fm.d.isReg = true) ∧ (repStep p 8 ≠ 0 → fm.a.isReg = true) ∧
    (repStep p 4 ≠ 0 → fm.b.isReg = true)) ∧
  (majorOf w = 0x28 → ∀ p, prefixOf a.pfx 4 = some p → pay p 8 7 = 0 ∧ pay p 2 3 = 0)

/-- The step that REP gives the field at a bit of its payload; 0 without REP. -/
def stepOf (a : Agent) (i : Nat) : Int := ((prefixOf a.pfx 2).map (repStep · i)).getD 0

/-- The ports that the register fields of an iteration name. -/
def portsAt (a : Agent) (w : IWord) (fm : Form) (i : Nat) : List Int :=
  ([(fm.d, fieldD w, stepOf a 12), (fm.a, fieldA w, stepOf a 8), (fm.b, fieldB w, stepOf a 4)].filter fun r =>
    r.1.isReg && 120 ≤ r.2.1).map (fun r => stepped r.2.1 r.2.2 i) |>.filter fun x => decide (120 ≤ x) && decide (x ≤ 127)

/-- A source of the unit is a vector register: one that it reads in its own fields, or a scale register of SCL. -/
def vectorSource (a : Agent) (w : IWord) (fm : Form) : Prop :=
  (fm.d.isRead = true ∧ fieldD w < 96) ∨ (fm.a.isRead = true ∧ fieldA w < 96) ∨ (fm.b.isRead = true ∧ fieldB w < 96) ∨
    ∃ p, prefixOf a.pfx 4 = some p ∧ (pay p 15 7 < 96 ∨ (majorOf w = 0x26 ∧ pay p 8 7 < 96))

/-- No operand names a register that 0x0B is for (R56, R186): each field's bank is one its form takes, no port is named
twice in an iteration, a scalar is written from vector registers only by forms whose own rule says so (and by an atomic
with a scalar address while at most one lane is active, R249, log 77), and SCL names no port. -/
def banksOk (a : Agent) (w : IWord) (fm : Form) : Prop :=
  (bankBad (a.prof == .full) fm.d (fieldD w) = false ∧ bankBad (a.prof == .full) fm.a (fieldA w) = false ∧
    bankBad (a.prof == .full) fm.b (fieldB w) = false ∧ fm.worse (fieldD w) (fieldA w) = false) ∧
  (∀ i, i < repCount a.pfx → (portsAt a w fm i).Nodup) ∧
  (vectorSource a w fm → fm.d.isWritten = true → 96 ≤ fieldD w → fieldD w < 120 → fm.narrow = true ∨
    ((majorOf w = 0x3C ∨ majorOf w = 0x3D) ∧ 96 ≤ fieldA w ∧ (lanesIn (activeSet a (majorOf w))).length ≤ 1)) ∧
  (a.prof = .full → majorOf w = 0x05 → fieldF w = 0 → fieldA w = 11 → fieldD w < 96) ∧
  (∀ p, prefixOf a.pfx 4 = some p → pay p 15 7 < 120 ∧ pay p 8 7 < 120)

/-- No field names a special register that does not exist (R58). -/
def specialsOk (w : IWord) (fm : Form) : Prop := (fm.d = .spr → fieldD w < 25) ∧ (fm.a = .spr → fieldA w < 25)

/-- The five prefixes (R59). -/
def prefixForm : Instr → Bool
  | .guard _ _ _ | .immx _ | .rep _ _ _ _ | .flags _ _ | .scl _ _ _ _ => true
  | _ => false

/-- The agent is one that a prefix type is legal on: only IMMX and FLAGS but on a gang (R59). -/
def prefixLegal (a : Agent) (w : IWord) : Bool := a.prof == .full || ptype w == 1 || ptype w == 3

end Sys2Proof.Claims
end

