-- ==== Sys2Proof/Safety.lean ====
section
/-!
DEFINITION. What counts as a safe run, in the terms the claims use: every memory of the part in its one
canonical form, and a run that no fault or refusal ends. The one stop of the part is the thermal trip (R27).
-/

namespace Sys2Proof.Machine

/-- Every memory of the part is in canonical form: physical memory, the scratchpads of the teams, and the
private SRAM and images of the firmware cores. -/
def State.Canonical (s : State) : Prop :=
  s.mem.wf = true ∧ (∀ t ∈ s.teams, t.scratch.wf = true) ∧ (∀ m ∈ s.sram, m.2.wf = true) ∧
    ∀ m ∈ s.image, m.2.wf = true

/-- A step is safe when the part goes on. -/
def State.SafeStep (s : State) : Prop := ∃ t, step s = .next t

/-- A run of n steps is safe when the part goes on through all of them. -/
def State.SafeRun (s : State) (n : Nat) : Prop := ∃ t, Host.Core.run Sys2Proof.core n s = .next t

end Sys2Proof.Machine
end

