-- ==== Sys2Proof/WellFormed.lean ====
section
/-!
DEFINITION. What a well-formed instruction is: its numbers lie in the ranges the manual gives their
fields, beyond the widths that Syntax gives them. A unit of a well-formed word without prefixes raises
neither 0x01, 0x02 nor 0x0C on an agent that may execute it (R53, R58, R69, R70, R77); which register
banks a field may name depends on the agent and is checked where the unit issues (R56, R57). A step
without a word is well-formed when what the outside world hands it has the shape the manual gives it.
-/

namespace Sys2Proof

/-- BRA and CALL: mode 3 takes neither a condition register nor a condition (R169). -/
def branchOk (m c : BitVec 2) (k : BitVec 4) : Bool := m != 3 || (c == 0 && k == 0)

/-- CVT: two different types, not both integer, and N with an integer type alone (R70, R215). -/
def cvtOk (t c : BitVec 3) (n : BitVec 1) : Bool :=
  t != c && !(t.getLsbD 2 && c.getLsbD 2) && (n == 0 || t.getLsbD 2 || c.getLsbD 2)

/-- A word that is no row of the opcode map and no extension (R69, R77). -/
noncomputable def noRow (w : IWord) : Bool :=
  match decode w with
  | .ok _ => false
  | .error .extension => false
  | .error _ => true

/-- A word whose major lies in the extension space (R72). -/
noncomputable def isExtension (w : IWord) : Bool :=
  match decode w with
  | .error .extension => true
  | _ => false

/-- A configuration block: a power cap of at most 2,400 W (R25), each berth once, and no cluster, quad,
key slot, segment or VF in two berths (R28, R389). -/
def configOk (blk : ConfigBlock) : Bool :=
  blk.powerCap ≤ 2400 && decide (blk.berths.map (·.b)).Nodup
    && decide (blk.berths.Pairwise fun x y =>
      x.clusters &&& y.clusters = 0 ∧ x.quads &&& y.quads = 0 ∧ x.keys &&& y.keys = 0
        ∧ x.segs &&& y.segs = 0 ∧ x.vfs &&& y.vfs = 0)

/-- A peer's request: at least one byte, or one of the atomics of R249. -/
def peerOk : PeerReq → Bool
  | .read n => n != 0
  | .write data _ => !data.isEmpty
  | .atomic op _ _ _ => op.toNat ≤ 10

/-- The instruction is well-formed. -/
noncomputable def wellFormed (i : Instr) : Bool :=
  match i with
  | .powerGood | .deriveIdentityKey _ | .verifyFirmwareSlot _ _ _ _ => true
  | .verifyConfigBlock _ blk => configOk blk
  | .trainAndRepair _ _ _ _ _ | .startFirmwareCores _ | .buildBerths _ => true
  | .sensorSample r => r.clusterTemp.length == 64 && r.stackTemp.length == 8
  | .firmwareUpdate _ _ _ | .sendWindow _ => true
  | .fwdoorWrite n => decide (n.toNat < 18)
  | .registerWrite _ _ | .storeRegistration _ _ | .registrationAck _ | .homeRead _ _ _ _ | .dataArrival _ _
  | .atomicAtHome _ _ _ => true
  | .hostPostedWrite _ _ _ data => !data.isEmpty
  | .hostRead _ _ n => n != 0
  | .peerAccess _ _ r => peerOk r
  | .peerAck _ _ | .linkDown _ | .slotPop _ _ | .swapThresholdExpiry _ | .swapOut _ | .swapRetest _
  | .gangRetire _ | .teamRetire _ | .gridEndFlush _ | .completionSignal _ | .quantumExpiry _ | .preempt _
  | .aging _ | .recordDue _ | .lineFillArrival _ _ _ | .writeBackRegistered _ _ | .lazyWriteBack _ _
  | .lineDrowsy _ _ | .drowsyWake _ _ | .bankRefresh _ _ _ | .bankRefreshEnd _ _ | .bankGate _ _
  | .ctxflushWrite _ _ | .ctxflushDone _ | .icacheFill _ _ | .verifyCompare _ _ _ | .bartoTimeout _
  | .wfeTimeout _ | .waitParkTimeout _ | .heartbeatTimeout | .sfuAccept _ _ _ | .walkerGrant _
  | .walkComplete _ _ | .lathInstanceComplete _ | .copyAccept _ | .copyStart _ _ | .copyComplete _ _ _ _ _ _
  | .tfetchAccept _ | .tileFull _ _ | .mmaAccept _ | .mmaStart _ _ | .segmentEnd _ _ _ _ _ _ _ _
  | .mmaComplete _ _ | .mxzeroDone _ _ | .drainEntryPush _ _ _ _ | .drainComplete _ _ | .sequencerExitDone _
  | .watchTimeout _ | .notifyWrite _ _ _ _ | .cancelWrite _ _ _ _ | .deadlineCancel _ | .packetTake _
  | .heapStart _ | .sliceEnd _ | .quiesce _ | .quiesceComplete _ | .quiesceTimeout _ | .exportBerth _
  | .importBerth _ | .resume _ | .abandon _ | .waymaskWrite _ _ _ | .waymaskLineTake _ _
  | .berthResourceWrite _ _ | .berthctlWrite _ _ | .partitionReset _ | .skimLine _ _ _ => true
  | .ttw1Write n _ => decide (n.toNat < 18)
  | .rewrapLine _ _ _ | .msctlWrite _ _ | .mskeyWrite _ _ => true
  | .streamRecordSend _ _ _ n => n != 0
  | .streamRecordReceive _ _ _ | .counterRead _ | .getVersion _ | .getCapabilities _
  | .negotiateAlgorithms _ | .getDigests _ | .getCertificate _ _ => true
  | .challenge _ hash => hash.length == 48
  | .getMeasurements _ _ hash => hash.length == 48
  | .keyExchange _ _ hash => hash.length == 48
  | .finish _ _ _ | .endSession _ | .getTdispVersion _ | .getTdispCapabilities _ | .lockInterfaceRequest _ _
  | .getDeviceInterfaceReport _ | .getDeviceInterfaceState _ | .startInterfaceRequest _
  | .stopInterfaceRequest _ | .guard _ _ _ | .immx _ | .rep _ _ _ _ | .flags _ _ | .scl _ _ _ _ | .nop
  | .yield | .exit | .trap _ | .brk _ | .eret | .wfe | .halt | .sev => true
  | .bra m c k _ => branchOk m c k
  | .call m c k _ => branchOk m c k
  | .jmpr _ | .callr _ _ | .ret _ | .maskc _ _ _ | .maskn _ _ | .masks _ | .maskg _ _ | .maskx _ _ _ => true
  | .mfs _ a => decide (a.toNat < 25)
  | .mts d _ => decide (d.toNat < 25)
  | .wbase _ | .wbaseS _ _ | .region _ _ => true
  | .cwb x a b => x == 0 || (a == 0 && b == 0)
  | .cdrop _ _ | .cpin _ _ | .cunpin _ _ | .barT | .barQ | .barto _ _ | .spawn _ _ | .join _ _
  | .parkJoin _ | .parkAddr _ _ | .wake _ | .staged | .takew _ | .qbind _ _ | .qstat _ _ | .qclose _
  | .add _ _ _ _ | .sub _ _ _ _ | .and _ _ _ _ | .or _ _ _ _ | .xor _ _ _ _ | .andn _ _ _ _ | .shl _ _ _ _
  | .shr _ _ _ _ | .sar _ _ _ _ | .rol _ _ _ _ | .min _ _ _ _ | .max _ _ _ _ | .minu _ _ _ _
  | .maxu _ _ _ _ | .absd _ _ _ _ | .mov _ _ _ | .mulI64 _ _ _ | .mulhiI64 _ _ _ | .mulhisI64 _ _ _
  | .madI64 _ _ _ | .mulI32 _ _ _ | .mulhiI32 _ _ _ | .mulhisI32 _ _ _ | .madI32 _ _ _ | .divI64 _ _ _
  | .idivI64 _ _ _ | .remI64 _ _ _ | .iremI64 _ _ _ | .divI32 _ _ _ | .idivI32 _ _ _ | .remI32 _ _ _
  | .iremI32 _ _ _ => true
  | .icmp _ _ _ _ k => k != 15
  | .addi _ _ _ | .movi _ _ => true
  | .shfi _ _ _ w n => decide (n.toNat < 64 >>> w.toNat)
  | .andi _ _ _ | .sel _ _ _ _ _ | .ccmov _ _ | .ccand _ _ _ _ _ | .ccor _ _ _ _ _ | .ccget _ _
  | .ccset _ _ | .popc _ _ | .clz _ _ | .ctz _ _ | .brev _ _ | .bswap _ _ | .bfe _ _ _ | .bfi _ _ _
  | .lea _ _ _ | .sextI8 _ _ | .sextI16 _ _ | .sextI32 _ _ | .zextI8 _ _ | .zextI16 _ _ | .zextI32 _ _
  | .packI32 _ _ _ | .packI16 _ _ _ | .packI8 _ _ _ => true
  | .unpkI32 _ _ x => decide (x.toNat < 4)
  | .unpkI16 _ _ x => decide (x.toNat < 4)
  | .unpkI8 _ _ x => decide (x.toNat < 4)
  | .fadd _ _ _ _ | .fsub _ _ _ _ | .fmul _ _ _ _ | .fma _ _ _ _ | .fms _ _ _ _ | .fnma _ _ _ _
  | .fnms _ _ _ _ | .fmin _ _ _ _ | .fmax _ _ _ _ | .fabs _ _ _ | .fneg _ _ _ | .fcpys _ _ _ _
  | .fdiv _ _ _ _ | .fsqrt _ _ _ => true
  | .frnd _ _ _ _ m => m == 0 || m.getLsbD 2
  | .fmov _ _ _ => true
  | .fcmp _ _ _ _ k => k != 15
  | .cvt _ _ t c n => cvtOk t c n
  | .dot2F16 _ _ _ | .dot2Bf16 _ _ _ | .dot8Q8 _ _ _ | .dot16Q4 _ _ _ | .dot4Q12 _ _ _ | .dot8I8 _ _ _
  | .rxadd _ _ _ | .rxsub _ _ _ | .rxmul _ _ _ | .rxmac _ _ _ | .rxneg _ _ | .rxscl _ _ _ | .qpackQ4 _ _ _
  | .qpackQ8 _ _ _ | .qpackQ12 _ _ => true
  | .qunpkQ4 _ _ b => decide (b.toNat < 4)
  | .qunpkQ8 _ _ b => decide (b.toNat < 2)
  | .qunpkQ12 _ _ => true
  | .scaleof _ _ b => decide (b.toNat < 3)
  | .rxfrom _ _ _ | .rxto _ _ _ | .f8pkE4m3 _ _ _ | .f8pkE5m2 _ _ _ | .f8upE4m3 _ _ _ | .f8upE5m2 _ _ _
  | .shfl _ _ _ | .shflx _ _ _ | .shflr _ _ _ | .bcast _ _ _ => true
  | .rev _ _ b => decide (b.toNat < 4)
  | .vote _ _ _ | .redaddI64 _ _ | .redaddI32 _ _ | .redaddF64 _ _ | .redaddF32 _ _ | .redminI64 _ _
  | .redminF64 _ _ | .redminF32 _ _ | .redmaxI64 _ _ | .redmaxF64 _ _ | .redmaxF32 _ _ | .scanaddI64 _ _
  | .scanaddI32 _ _ | .scanaddF64 _ _ | .scanaddF32 _ _ => true
  | .exp2 t _ _ _ => t != 3
  | .log2 t _ _ _ => t != 3
  | .rcp t _ _ _ => t != 3
  | .rsq t _ _ _ => t != 3
  | .sqrt t _ _ _ => t != 3
  | .sin t _ _ _ => t != 3
  | .cos t _ _ _ => t != 3
  | .tanh t _ _ _ => t != 3
  | .sigm t _ _ _ => t != 3
  | .gelu t _ _ _ => t != 3
  | .silu t _ _ _ => t != 3
  | .erf t _ _ _ => t != 3
  | .ldg _ _ _ _ _ | .ldv _ _ _ _ | .stgI8 _ _ _ | .stgI16 _ _ _ | .stgI32 _ _ _ | .stgI64 _ _ _
  | .stv _ _ _ | .lda _ _ _ _ | .stl _ _ _ | .atomAdd _ _ _ _ | .atomSub _ _ _ _ | .atomAnd _ _ _ _
  | .atomOr _ _ _ _ | .atomXor _ _ _ _ | .atomMin _ _ _ _ | .atomMax _ _ _ _ | .atomMinu _ _ _ _
  | .atomMaxu _ _ _ _ | .atomXchg _ _ _ _ | .atomCas _ _ _ _ | .fenceAcq | .fenceRel | .fenceAr | .fenceEng
  | .fenceDev | .pref _ _ _ | .discard _ _ | .wback _ _ | .zero _ _ | .bind _ | .ladd _ _ _ => true
  | .ladc _ _ b => decide (b.toNat < 4)
  | .lsub _ _ _ => true
  | .lsbc _ _ b => decide (b.toNat < 4)
  | .lneg _ _ | .lcmp _ _ _ | .lshl _ _ _ | .lshr _ _ _ | .lsar _ _ _ | .labs _ _ | .lmuls _ _ _
  | .lmacs _ _ _ | .lmull _ _ _ | .lmulh _ _ _ | .laccf32 _ _ => true
  | .ltof32 _ _ b => decide (b.toNat < 3)
  | .ltof64 _ _ b => decide (b.toNat < 3)
  | .lfromxa _ _ _ => true
  | .ltoxa _ _ b => decide (b.toNat < 2)
  | .lfromi64 _ _ | .cpy _ _ _ | .cbatch _ | .cwait _ | .cstat _ | .hwait _ | .hrel _ | .hqry _ _
  | .astore _ _ _ | .mma _ _ _ _ _ _ _ _ _ _ | .mxcfg _ | .mxzero _ | .mxdrain _ _ => true
  | .mxwait _ b => b != 0 && decide (b.toNat < 4)
  | .mxfence | .tfetch _ _ | .tunpin _ | .barb _ _ | .aredI64 _ _ _ _ _ | .aredMin _ _ _ _ _
  | .aredMax _ _ _ _ _ | .aredXa _ _ _ _ | .arwait _ _ | .barx _ _ | .pcommit _ | .pcancel _ | .prepeat _
  | .keyset _ _ | .tvbump _ _ _ | .cseal _ _ | .cunseal _ _ | .strip _ _ _ | .mancut _ | .hashb _ _ _
  | .sign _ _ _ | .mfsys _ _ | .mtsys _ _ | .tlbinv _ _ | .ctxkill _ | .domainTreeMessage _ _
  | .stackRequestRefusal _ => true
  | .encodingFault w => noRow w
  | .extEmulate w => isExtension w

end Sys2Proof
end

