-- ==== Sys2Proof/Certificates/Slice0/Obligations.lean ====
section
/-!
DEFINITION. The statements for the provers. The meaning that a table gives each instruction is in the files
of Sys2Proof/Claims/; the statements here say what exec and step do with it.
-/

open Sys2Proof Sys2Proof.Machine Sys2Proof.Claims

/-! ### Words (R51, R69, R70, R72, R76) -/

/-- Decoding the word of a well-formed instruction gives the instruction back: no field of an encoding is
dropped. -/
def Obligations.DecodeEncode : Prop :=
  ∀ (i : Instr) (w : IWord), wellFormed i = true → encode i = some w → decode w = .ok i

/-- A word that decodes is the word of the instruction it decodes to: no two rows share a word, and no bit of
a word goes unread. -/
def Obligations.EncodeDecode : Prop :=
  ∀ (w : IWord) (i : Instr), decode w = .ok i → encode i = some w

/-- Words that the manual prints with their assembly decode to the instructions they stand for. -/
def Obligations.PrintedWords : Prop :=
  decode 0x22041030 = .ok (.add 1 1 2 3) ∧ decode 0x2F870FFF = .ok (.addi 97 97 0x7FF) ∧
  decode 0x28041030 = .ok (.mulI64 1 2 3) ∧ decode 0x2A14103B = .ok (.icmp 1 1 2 3 11) ∧
  decode 0x0B906800 = .ok (.mfs 100 13) ∧ decode 0x66281002 = .ok (.ldg 3 10 2 0 2) ∧
  decode 0x422048A3 = .ok (.fma 1 8 9 10) ∧ decode 0x57904804 = .ok (.redaddF32 100 9) ∧
  decode 0x5C0C2002 = .ok (.exp2 2 3 4 2) ∧ decode 0x78041030 = .ok (.atomAdd 0 1 2 3) ∧
  decode 0x82040820 = .ok (.ladd 1 1 2) ∧ decode 0x95A33800 = .ok (.tfetch 104 103) ∧
  decode 0x00000053 = .ok (.trap 5) ∧ decode 0x19EB1800 = .ok (.qbind 122 99)

/-- A word that is no row of the opcode map raises an encoding fault on every agent, whatever it has
assembled; a word in P format of type 5 to 7, which is none either, joins the run of prefixes, and the unit that ends
the run raises 0x07 with it (the model's choice where the run is long: log 24). -/
def Obligations.UndecodedTraps : Prop :=
  (∀ (w : IWord) (e : Reject) (s : State), decode w = .error e → majorOf w ≠ 0x7F →
    ∃ (c : BitVec 8) (v : Word), unitFault s.cur w false = some (c, v) ∧
      exec (.encodingFault w) s = .next (s.takeTrap c v) ∧ exec (.extEmulate w) s = .next (s.takeTrap c v)) ∧
  (∀ (w : IWord) (s : State), majorOf w = 0x7F → 5 ≤ ptype w → (∃ e, decode w = .error e ∧ e ≠ .extension) ∧
    (s.cur.pfx.length < 6 →
      exec (.encodingFault w) s = .next { s with cur := { s.cur with pfx := s.cur.pfx ++ [w] } })) ∧
  ∀ (i : Instr) (w p : IWord) (s : State), encode i = some w → majorOf w ≠ 0x7F →
    s.cur.pfx.find? (5 ≤ ptype ·) = some p → exec i s = .next (s.takeTrap 0x07 (p.setWidth 64))

/-! ### Steps -/

/-- When the agent whose turn it is may run and the word it fetches decodes to i, the step is exec of i in
the state after the fetch; a wait that goes on keeps the time it began. That a unit takes one aclk is the model's
choice (log 8), and so are the agenda, the turn and its quota (log 1). -/
def Obligations.StepRunsWord : Prop :=
  ∀ (s s1 : State) (w : IWord) (i : Instr),
    s.tripped = false → s.agenda = [] → 0 < s.quota → s.canRun s.cur = true → (atTurn s).cur.tooLong = false →
    (atTurn s).fetch = (.word w, s1) → decode w = .ok i →
    step s = (match exec i s1 with
      | .next t => .next (keepSince s.cur.run t s.cur.id)
      | x => x)

/-- Every memory of the part, the scratchpads, the firmware cores' memories and their images included, stays in its one
canonical form through every step, whatever the step is. -/
def Obligations.StepKeepsMemory : Prop :=
  ∀ s t : State, s.Canonical → step s = .next t → t.Canonical

/-- After reset every memory of the part is in canonical form and lists nothing, DEVSTAT's STEP, RECOVERY
and READY are 0, no agent runs, and CAUSE is 0. -/
def Obligations.ResetState : Prop :=
  State.reset.Canonical ∧ State.reset.mem = Mem.empty ∧ State.reset.bootStep = 0 ∧ State.reset.recovery = false ∧
    State.reset.tripped = false ∧ State.reset.agenda = [] ∧ State.reset.grids = [] ∧
    (∀ a ∈ State.reset.all, a.run = .off ∧ a.cause = 0)

/-- Only a thermal trip ends a run: a tripped part stops, and every other step goes on. No instruction is
refused. -/
def Obligations.OnlyTripStops : Prop :=
  (∀ s : State, s.tripped = true → step s = .fault .thermalTrip) ∧
  ∀ s : State, s.tripped = false → ∃ t, step s = .next t

/-- No word that a gang runs changes a key slot, a tensor entry, a page-table root, a system register, or the
memory and image of a firmware core. -/
def Obligations.GangKeepsFirmwareState : Prop :=
  ∀ (i : Instr) (w : IWord) (s t : State), encode i = some w → s.cur.prof = .full → exec i s = .next t →
    t.sysregs = s.sysregs ∧ t.keys = s.keys ∧ t.tensors = s.tensors ∧ t.pasids = s.pasids ∧ t.sram = s.sram ∧
      t.image = s.image ∧ t.streams = s.streams ∧ t.config = s.config

/-! ### Units: faults, operands, ends (R52 to R67, R76, R77) -/

/-- An encoding fault of a unit is raised before any part of it takes effect; a firmware unit that its core may not
issue raises 0x05 in its place in the order. -/
def Obligations.EncodingFaultFirst : Prop :=
  ∀ (i : Instr) (w : IWord) (s : State) (c : BitVec 8) (v : Word),
    encode i = some w → majorOf w ≠ 0x7F → unitFault s.cur w false = some (c, v) →
    (majorOf w ≠ 0x4E → majorOf w ≠ 0x4F → exec i s = .next (s.takeTrap c v)) ∧
    (faultRank c < 4 → exec i s = .next (s.takeTrap c v)) ∧
    (exec i s = .next (s.takeTrap c v) ∨ exec i s = .next (s.takeTrap 0x05 (w.setWidth 64)))

/-- Of several encoding faults of a unit the first in the order of R77 is reported: a fault of one class says
that the unit passes the checks of the classes before it, of the prefixes (0x07, 0x06), the major and its forms (0x03,
0x01), the profile (0x04), privilege (0x05), what takes which prefix (0x08), reserved fields and payloads (0x02),
register banks (0x0B) and special registers (0x0C); 0x09 comes last. That an atomic with a scalar destination is
no mixed unit while at most one lane is active is the model's reading of R249 (log 77). -/
def Obligations.FaultOrder : Prop :=
  ∀ (a : Agent) (w : IWord) (priv : Bool) (c : BitVec 8) (v : Word), unitFault a w priv = some (c, v) →
    faultRank c < 10 ∧
    (0 < faultRank c → ∀ x ∈ a.pfx, ptype x < 5) ∧
    (1 < faultRank c → dupPrefix [] a.pfx = none) ∧
    (2 < faultRank c → ¬ (0x50 ≤ majorOf w ∧ majorOf w < 0x7F) ∧
      (formOf (a.prof == .full) (majorOf w) (fieldD w) (fieldB w) (fieldF w)).isSome = true) ∧
    (3 < faultRank c → legal a.prof (majorOf w) = true ∧ ∀ x ∈ a.pfx, prefixLegal a x = true) ∧
    (4 < faultRank c → priv = false) ∧
    (5 < faultRank c → ∀ x ∈ a.pfx, accepted (majorOf w) (fieldF w) x = true) ∧
    (3 < faultRank c → haltAllowed a w) ∧
    (4 < faultRank c → eretAllowed a w) ∧
    (6 < faultRank c → ∀ x ∈ a.pfx, payloadBad x = false) ∧
    (∀ fm, formOf (a.prof == .full) (majorOf w) (fieldD w) (fieldB w) (fieldF w) = some fm →
      (6 < faultRank c → fieldsOk a w fm) ∧ (7 < faultRank c → banksOk a w fm) ∧ (8 < faultRank c → specialsOk w fm))

/-- What a unit without REP reads: the lanes that act are the active set; a source that names a vector or scalar
register has the register's value; the next unit is at the next word; and memory is not changed. -/
def Obligations.IssueReads : Prop :=
  ∀ (w : IWord) (s s1 : State) (u : U), issue w s = .ok (u, s1) → prefixOf s.cur.pfx 2 = none →
    u.act = activeSet s.cur (majorOf w) ∧ u.next = s.cur.pc + BitVec.ofNat 64 (4 * s.cur.pfx.length) + 4 ∧
    s1.mem = s.mem ∧
    (u.form.d.isRead = true → fieldD w < 120 → u.vd = (readReg s.cur (fieldD w)).1) ∧
    (u.form.a.isRead = true → fieldA w < 120 → u.va = (readReg s.cur (fieldA w)).1) ∧
    (u.form.b.isRead = true → fieldB w < 120 → u.vb = (readReg s.cur (fieldB w)).1)

/-- The end of a unit of an agent with nothing outstanding: an iteration of REP that is not the last counts;
else the pc is at the unit after it, no prefix is held, and the guard span has one unit less. -/
def Obligations.UnitEnds : Prop :=
  ∀ (u : U) (j : Option Word) (s t : State), t.cur.looks = [] → t.cur.step = false →
    (u.iter + 1 < u.count → j = none →
      finish u j s t = { t with cur := { t.cur with repi := BitVec.ofNat 6 (u.iter + 1) } }) ∧
    (¬ (u.iter + 1 < u.count ∧ j = none) →
      (finish u j s t).cur.pc = j.getD u.next ∧ (finish u j s t).cur.pfx = [] ∧ (finish u j s t).cur.repi = 0 ∧
      (finish u j s t).mem = t.mem ∧ registersSame t.cur (finish u j s t).cur ∧ controlSame t.cur (finish u j s t).cur ∧
      (prefixOf t.cur.pfx 0 = none → t.cur.guard.live = true → 1 < t.cur.guard.rem →
        (finish u j s t).cur.guard = { t.cur.guard with rem := t.cur.guard.rem - 1 }) ∧
      (prefixOf t.cur.pfx 0 = none → t.cur.guard.rem ≤ 1 → (finish u j s t).cur.guard = Guard.none))

/-- GUARD, IMMX, REP, FLAGS and SCL each join the unit that is being assembled; the seventh of a run raises 0x06
or 0x07, since no unit carries more than six (that it is raised at the seventh is the model's choice: log 24). -/
def Obligations.PrefixesJoin : Prop :=
  ∀ (i : Instr) (w : IWord) (s : State), prefixForm i = true → encode i = some w →
    (s.cur.pfx.length < 6 → exec i s = .next { s with cur := { s.cur with pfx := s.cur.pfx ++ [w] } }) ∧
    (6 ≤ s.cur.pfx.length → ∃ (c : BitVec 8) (v : Word), (c = 6 ∨ c = 7) ∧ exec i s = .next (s.takeTrap c v))

/-! ### Traps and returns (R180 to R182, R189, R322, R375) -/

/-- A tenant-visible trap of a gang: CAUSE, TVAL and EPC are written, the guard span, REPI and lookahead counts
are saved and not live, TRAPC is set, the gang leaves its slot with its record of kind 4 at level 17, and
the rest of its state stays; 0x03 goes to EMUENT where the grid has one, whatever TRAPVEC holds (the model's choice
between R74 and R180: log 92), and to TRAPVEC where it has none; with no handler, or inside a trap continuation, the
pilot gets 0x15 or 0x16 and the gang parks, EPC, TVAL and CAUSE as they were. That the record keeps no trap value while
the gang is parked is the model's choice (log 84). -/
def Obligations.TrapOfGang : Prop :=
  ∀ (s : State) (c : BitVec 8) (v : Word), s.cur.prof = .full →
    (s.cur.trapc = false → c ≠ 3 → s.cur.trapvec ≠ 0 →
      let t := s.takeTrap c v
      t.cur.cause = c ∧ t.cur.tval = v ∧ t.cur.epc = s.cur.pc ∧ t.cur.pc = s.cur.trapvec ∧ t.cur.trapc = true ∧
        t.cur.run = .ready ∧ t.cur.held = s.cur.pri ∧ t.cur.savedGuard = s.cur.guard ∧ t.cur.guard = Guard.none ∧
        t.cur.savedRepi = s.cur.repi ∧ t.cur.repi = 0 ∧ (∀ l ∈ t.cur.looks, l.live = false) ∧
        registersSame s.cur t.cur ∧ controlSame s.cur t.cur ∧ outsideSame s t ∧
        ∀ r, s.recordOf s.cur.record = some r → ∃ r', t.recordOf s.cur.record = some r' ∧
          r'.kind = 4 ∧ r'.lvl = 17 ∧ r'.wake = v ∧ r'.queued = true) ∧
    (s.cur.trapc = false → c = 3 → ∀ g, s.gridOf s.cur.grid = some g → g.emuent ≠ 0 →
      (s.takeTrap c v).cur.pc = g.emuent ∧ (s.takeTrap c v).cur.trapc = true ∧ (s.takeTrap c v).cur.tval = v) ∧
    (s.cur.trapc = false → c = 3 → (∀ g, s.gridOf s.cur.grid = some g → g.emuent = 0) → s.cur.trapvec ≠ 0 →
      (s.takeTrap c v).cur.pc = s.cur.trapvec ∧ (s.takeTrap c v).cur.trapc = true ∧ (s.takeTrap c v).cur.cause = 3 ∧
        (s.takeTrap c v).cur.tval = v ∧ (s.takeTrap c v).cur.epc = s.cur.pc) ∧
    (s.cur.trapc = true ∨ (s.cur.trapvec = 0 ∧ (c = 3 → ∀ g, s.gridOf s.cur.grid = some g → g.emuent = 0)) →
      let t := s.takeTrap c v
      t.cur.cause = s.cur.cause ∧ t.cur.tval = s.cur.tval ∧ t.cur.epc = s.cur.epc ∧ t.cur.pc = s.cur.pc ∧
        t.cur.run = .parked .service s.clk ∧ registersSame s.cur t.cur ∧ outsideSame s t ∧
        ∃ r, t.records = (s.modRecord s.cur.record fun r => { r with
            kind := 0, lvl := s.cur.leaveLevel.setWidth 8, queued := false, code := s.cur.pc, wake := 0 }).records ++ [r] ∧
          r.kind = 5 ∧ r.agent = s.cur.id ∧ r.cause = (if s.cur.trapc = true then 0x16 else 0x15))

/-- Traps of firmware cores: the core goes on at TRAPVEC in trap mode with CAUSE, TVAL and EPC written, ERET
ends the mode at EPC, and a trap in trap mode halts the core: a pilot core restarts from its image,
the standby takes the place of the harbourmaster, and the standby itself stays halted. The event record with the cause
as its code and argument 0 is the model's choice (log 16), and so are the values a restarted core's registers have
(log 6). -/
def Obligations.TrapOfFirmware : Prop :=
  ∀ (s : State) (c : BitVec 8) (v : Word), s.cur.prof = .firmware →
    (s.cur.trapMode = false →
      let t := s.takeTrap c v
      t.cur.trapMode = true ∧ t.cur.cause = c ∧ t.cur.tval = v ∧ t.cur.epc = s.cur.pc ∧ t.cur.pc = s.cur.trapvec ∧
        registersSame s.cur t.cur ∧ outsideSame s t) ∧
    (s.cur.trapMode = true → s.cur.id < 16 →
      (s.takeTrap c v).events = ⟨c, s.cur.id, 0, s.logHash⟩ :: s.events ∧
      (s.takeTrap c v).cur = { Agent.init s.cur.id .firmware with run := .active, berth := s.cur.berth }) ∧
    (s.cur.trapMode = true → s.cur.id = 16 →
      (s.takeTrap c v).events = ⟨c, 16, 0, s.logHash⟩ :: s.events ∧ (s.takeTrap c v).cur.run = .off ∧
      (s.takeTrap c v).standby = true ∧
      ∀ a, s.agent 17 = some a → (s.takeTrap c v).agent 17 = some { a with run := .active }) ∧
    (s.cur.trapMode = true → s.cur.id = 17 →
      (s.takeTrap c v).events = ⟨c, 17, 0, s.logHash⟩ :: s.events ∧ (s.takeTrap c v).cur = { s.cur with run := .off } ∧
      (s.takeTrap c v).standby = s.standby) ∧
    (s.eret.cur.trapMode = false ∧ s.eret.cur.pc = s.cur.epc)

/-- A trap of a tile sequencer stops its stream and gives its pilot 0x78 in a service record; a trap of a
launch engine ends its packet with 0xA7 and the trap's CAUSE, TVAL and EPC. -/
def Obligations.TrapOfSequencerAndPrologue : Prop :=
  ∀ (s : State) (c : BitVec 8) (v : Word),
    (s.cur.prof = .tile →
      let t := s.takeTrap c v
      t.cur.cause = c ∧ t.cur.tval = v ∧ t.cur.epc = s.cur.pc ∧ t.mem = s.mem ∧
        (t.cluster (s.cur.id - 64)).mx.ops = [] ∧
        ∃ r, t.records.getLast? = some r ∧ r.kind = 5 ∧ r.cause = 0x78 ∧ r.agent = s.cur.id ∧ r.wake = v) ∧
    (s.cur.prof = .launch →
      let t := s.takeTrap c v
      t.cur.cause = c ∧ t.cur.tval = v ∧ t.cur.epc = s.cur.pc ∧ t.cur.run = .off ∧ t.mem = s.mem ∧
        ∀ p, s.packetOf s.cur.packet = some p → p.phase < 4 →
          t.packetOf s.cur.packet = some { p with
            phase := 4, state := 3, code := 0xA7, sub := c, detail1 := v, detail2 := s.cur.pc })

/-- ERET, where the unit passes R77: a mask that splits a bound group raises 0x50, as any unit under a masked active set
does (R173, R273; that it comes before the check of EPC is the model's choice: log 26); else, with EPC[1:0] zero, the
trap continuation ends, the saved guard span, REPI and lookahead counts are live again, the gang has the level it
held, and PC is EPC; else ERET raises 0x0D. -/
def Obligations.EretReturns : Prop :=
  ∀ (w : IWord) (s : State), encode .eret = some w → unitFault s.cur w false = none →
    (splitAt s.cur 0 ≠ 0 → exec .eret s = .next (s.takeTrap 0x50 ((splitAt s.cur 0).setWidth 64))) ∧
    (splitAt s.cur 0 = 0 → s.cur.epc.extractLsb' 0 2 ≠ 0 → exec .eret s = .next (s.takeTrap 0x0D s.cur.epc)) ∧
    (splitAt s.cur 0 = 0 → s.cur.epc.extractLsb' 0 2 = 0 → s.cur.looks = [] → s.cur.step = false →
      ∃ t, exec .eret s = .next t ∧ t.cur.pc = s.cur.epc ∧ registersSame s.cur t.cur ∧ controlSame s.cur t.cur ∧
        outsideSame s t ∧
        (s.cur.prof = .full → t.cur.trapc = false ∧ t.cur.guard = s.cur.savedGuard ∧ t.cur.repi = s.cur.savedRepi ∧
          t.cur.pri = s.cur.held ∧
          ∀ r, s.recordOf s.cur.record = some r → ∃ r', t.recordOf s.cur.record = some r' ∧ r'.kind = 0 ∧
            r'.lvl = s.cur.held.setWidth 8) ∧
        (s.cur.prof = .firmware → t.cur.trapMode = false))

/-! ### Registers, memory and queues (R3, R54, R105, R137, R140, R185, R186, R195) -/

/-- The integer instructions change no memory; once their operands are read they change no register but their
destination, and with nothing outstanding nothing else of the agent's masks, window, bindings and FPC (a
firmware core that traps in trap mode starts anew, R189). -/
def Obligations.IntegerFrame : Prop :=
  ∀ (i : Instr) (s t : State), computes i = true → exec i s = .next t →
    outsideSame s t ∧ ∀ (u : U) (s1 : State), Issues i s u s1 → s.cur.looks = [] →
      (s.cur.prof = .firmware → s.cur.trapMode = false) →
      othersSame s.cur t.cur u.d ∧ controlSame s.cur t.cur ∧ (u.flags = none → t.cur.cc = s.cur.cc)

/-- A store to HBM is performed when the registration that its home has taken is acknowledged, and one to host memory when
the host port accepts it: it writes the bytes its enables name, of the aligned 8 bytes at its address, with the bytes
of its value, least significant first, and no other byte of memory; a registration in HBM changes none, and neither does
the acknowledgement of a store to host memory. That a registered store is in memory from its acknowledgement on, and
which answers of a home must have reached its core before, are the model's choices (logs 12 and 11). -/
def Obligations.StoreAtHome : Prop :=
  ∀ (s : State) (k : Nat) (p : Pending), s.mem.wf = true → s.pend[k]? = some p →
    let performs := fun (t : State) => ∀ a, t.mem.byte a =
      if p.pa ≤ a ∧ a < p.pa + 8 ∧ p.be.getLsbD (a - p.pa) = true then p.val.extractLsb' (8 * (a - p.pa)) 8 else s.mem.byte a
    (isHost p.pa = false → ∀ (err : Bool) (t : State), exec (.storeRegistration k err) s = .next t → t.mem = s.mem) ∧
    (p.op = .store → isHost p.pa = true → canRegister s k p = true → s.cutOff p.pa = false →
      ∀ err : Bool, ∃ t, exec (.storeRegistration k err) s = .next t ∧ performs t) ∧
    (p.registered = true → s.inOrder p.core (p.homes.map fun h => (h, p.ack)) = true →
      (p.op = .store → isHost p.pa = false → ∃ t, exec (.registrationAck k) s = .next t ∧ performs t) ∧
      (isHost p.pa = true → (∀ q ∈ s.pend, q.performed = true → p.ack ≤ q.ack) →
        exec (.registrationAck k) s = .next { s with pend := dropAt k s.pend }))

/-- What reads memory changes none of it: loads at their homes, data that returns, register-line fills,
instruction fetches and walks. -/
def Obligations.ReadsKeepMemory : Prop :=
  ∀ (s t : State) (g k n : Nat) (err soft : Mask) (bad : List Nat),
    (exec (.homeRead g k err soft) s = .next t ∨ exec (.dataArrival g k) s = .next t ∨
      exec (.lineFillArrival g k err) s = .next t ∨ exec (.icacheFill g n) s = .next t ∨
      exec (.walkComplete k bad) s = .next t) → t.mem = s.mem

/-- Memory in canonical form: n bytes written at a read back as the little-endian number written, and every
other byte is as before. -/
def Obligations.ReadAfterWrite : Prop :=
  ∀ (m : Mem) (a n v : Nat), m.wf = true →
    (m.write a n v).read a n = v % 256 ^ n ∧ (m.write a n v).wf = true ∧ (m.write a n v).marks = m.marks ∧
      ∀ x, x < a ∨ a + n ≤ x → (m.write a n v).byte x = m.byte x

/-- A push into queue q of a team moves TAIL by one, writes the entry of the old TAIL with its lanes and marks,
and leaves HEAD, CLOSED, the other entries and the other queues as they were. -/
def Obligations.QueuePush : Prop :=
  ∀ (s : State) (t q : Nat) (v : Lanes) (p : Mask) (x : Team), s.teamOf t = some x → q < 64 → x.scratch.wf = true →
    ∃ y, (s.push t q v p).teamOf t = some y ∧
      qTail y.scratch q = (qTail x.scratch q + 1) % 2 ^ 64 ∧ qHead y.scratch q = qHead x.scratch q ∧
      qClosed y.scratch q = qClosed x.scratch q ∧
      entryRead y.scratch (qEntry q (qTail x.scratch q)) = (v, p) ∧
      (∀ n, n % 15 ≠ qTail x.scratch q % 15 → entryRead y.scratch (qEntry q n) = entryRead x.scratch (qEntry q n)) ∧
      ∀ a, a < 4096 * q ∨ 4096 * q + 4096 ≤ a → y.scratch.byte a = x.scratch.byte a

/-- A slot reads zero until it is written; a write changes the lanes of its mask and no other slot. -/
def Obligations.SlotWritten : Prop :=
  (∀ (a : Agent) (i : Nat), a.isWritten i = false → a.slot i = (splat 0, 0)) ∧
  ∀ (a : Agent) (i j : Nat) (m : Mask) (v : Lanes) (p : Mask), i < 1024 → j < 1024 →
    (i ≠ j → (a.setSlot i m v p).slot j = a.slot j) ∧
    ∀ l, l < 32 →
      lane ((a.setSlot i m v p).slot i).1 l = (if has m l = true then lane v l else lane (a.slot i).1 l) ∧
      has ((a.setSlot i m v p).slot i).2 l = (if has m l = true then has p l else has (a.slot i).2 l)

/-- A condition register written in the lanes of a mask: its four bits there, no other condition register
and no other lane. -/
def Obligations.ConditionWritten : Prop :=
  ∀ (s : State) (n k l : Nat) (m : Mask) (f : Nat → Nat), n < 4 → k < 4 → l < 32 →
    ccOf (ccIs n m f s).cur l k = (if k = n ∧ has m l = true then f l % 16 else ccOf s.cur l k) ∧
      (ccIs n m f s).mem = s.mem ∧ (ccIs n m f s).cur.sreg = s.cur.sreg ∧ (ccIs n m f s).cur.lines = s.cur.lines

/-! ### Rules of single instructions -/

/-- The tests of a cond field on N, Z, C and V (R66). -/
def Obligations.ConditionTests : Prop :=
  ∀ n z c v : Bool,
    let f := 8 * n.toNat + 4 * z.toNat + 2 * c.toNat + v.toNat
    condHolds 0 f = z ∧ condHolds 1 f = !z ∧ condHolds 2 f = c ∧ condHolds 3 f = !c ∧ condHolds 4 f = n ∧
    condHolds 5 f = !n ∧ condHolds 6 f = v ∧ condHolds 7 f = !v ∧ condHolds 8 f = (c && !z) ∧
    condHolds 9 f = (!c || z) ∧ condHolds 10 f = (n == v) ∧ condHolds 11 f = (n != v) ∧
    condHolds 12 f = (!z && n == v) ∧ condHolds 13 f = (z || n != v) ∧ condHolds 14 f = true ∧ condHolds 15 f = false

/-- SHL, SHR, SAR and ROL complete with the results of R199 in every sub-element of every active lane; under
FLAGS some condition register is written besides. -/
def Obligations.Shifts : Prop :=
  ∀ (i : Instr) (w : Nat) (r : Nat → Nat → Nat) (s s1 s2 : State) (u : U),
    shiftForm i = some (w, r) → Issues i s u s1 →
    wrote u (lanesOf fun l => packEls w fun j => r (el w (lane u.va l) j) (el w (lane u.vb l) j)) 0 s1 = some s2 →
    ∃ f, exec i s = .next (finish u none s (flagged u f s2))

/-- A zero divisor in any sub-element of any active lane of DIV, IDIV, REM and IREM traps with 0x19 and the
unit writes nothing; without one the unit completes with its quotients or remainders in every sub-element,
where IDIV of −2^(w−1) by −1 gives −2^(w−1) and IREM gives 0, with C and V zero. -/
def Obligations.Division : Prop :=
  ∀ (i : Instr) (w : Nat) (op : ElemOp) (s s1 s2 : State) (u : U), divOp i = some (w, op) → Issues i s u s1 →
    ((∃ l j, has u.act l = true ∧ j < 64 / w ∧ el w (lane u.vb l) j = 0) →
      ∃ v, exec i s = .next (s.takeTrap 0x19 v)) ∧
    ((¬ ∃ l j, has u.act l = true ∧ j < 64 / w ∧ el w (lane u.vb l) j = 0) →
      wrote u (lanesOf fun l => packEls w fun j =>
        (op false (el w (lane u.va l) j) (el w (lane u.vb l) j) (el w (lane u.vd l) j)).1) 0 s1 = some s2 →
      ∃ f, exec i s = .next (finish u none s (flagged u f s2))) ∧
    (signedDivision i = true → ∀ c z, (op c (2 ^ (w - 1)) (2 ^ w - 1) z).1 = (if remainder i = true then 0 else 2 ^ (w - 1)) ∧
      (op c (2 ^ (w - 1)) (2 ^ w - 1) z).2 % 4 = 0)

/-- LEA: its word, its reserved field, and in each active lane a + 8·b modulo 2^64, with no translation and
no trap. -/
def Obligations.LeaAddress : Prop :=
  (∀ d a b : Reg, encode (.lea d a b) = some (BitVec.ofNat 32 (0x3C000000 + d.toNat * 2 ^ 18 + a.toNat * 2 ^ 11 + b.toNat * 2 ^ 4))) ∧
  (∀ w : IWord, majorOf w = 0x1E → fieldF w ≠ 0 → ∃ e, decode w = .error e) ∧
  ∀ (d a b : Reg) (s s1 s2 : State) (u : U), Issues (.lea d a b) s u s1 →
    wrote u (lanesOf fun l => BitVec.ofNat 64 (((lane u.va l).toNat + 8 * (lane u.vb l).toNat) % 2 ^ 64)) 0 s1 = some s2 →
    exec (.lea d a b) s = .next (finish u none s s2)

/-- A ready record of a level from 0 to 15 that has waited 200 µs (140,000 aclk) at its level is raised one
level, up to its launch's ceiling; the waiting time starts again and the record keeps its sequence number, in the
scheduler and in its entry of the record array (whose words a WAKE might watch; that the entry is rewritten is the
model's choice: log 84); records of level 16 and above are not raised. The berth's STATE is 1: records age in
no other (R394). -/
def Obligations.Aging : Prop :=
  ∀ (s : State) (n : Nat) (r : Record), s.recordOf n = some r →
    (r.live = true → r.queued = true → r.kind ≠ 5 → r.lvl < 16 → r.lvl < ceiling s r → r.since + 140000 ≤ s.clk →
      (s.berth r.berth).state = 1 →
      ∃ t, exec (.aging n) s = .next t ∧
        t = (s.modRecord n fun x => { x with lvl := r.lvl + 1, since := s.clk }).storeRecord n ∧
        (s.watches = [] → t.recordOf n = some { r with lvl := r.lvl + 1, since := s.clk })) ∧
    (16 ≤ r.lvl ∨ ceiling s r ≤ r.lvl ∨ s.clk < r.since + 140000 → exec (.aging n) s = .next s)

/-- PREF never faults once its unit issues: it completes with no register and no memory changed when no lane is active,
when an operand is poisoned, or when no page of its range has still to be walked (R251); else it waits for those walks,
which it asks for. That a poisoned operand makes it do nothing is the model's choice (log 75), and so is its wait for the
walks (log 27). -/
def Obligations.PrefetchCompletes : Prop :=
  ∀ (x : BitVec 1) (a b : Reg) (s s1 : State) (u : U), Issues (.pref x a b) s u s1 →
    (u.act = 0 ∨ u.pa ≠ 0 ∨ u.pb ≠ 0 ∨ prefMissing u s1 = [] →
      ∃ t, exec (.pref x a b) s = .next (finish u none s t) ∧ t.mem = s1.mem ∧ t.cur = s1.cur ∧ t.pend = s1.pend) ∧
    (u.act ≠ 0 → u.pa = 0 → u.pb = 0 → prefMissing u s1 ≠ [] → s.cur.run = .active →
      ∃ t v, exec (.pref x a b) s = .next t ∧ v ∈ prefMissing u s1 ∧ t.cur.run = .holding (.walk v) s.clk ∧ t.mem = s.mem)

/-! ### Instructions complete, family by family -/

/-- IALU and IMUL forms (R198 to R201). That a scalar destination takes the lowest active lane's result where the results
of lanes differ is the model's choice (log 77), here and below. -/
def Obligations.PackedIntegers : Prop := Completes packedTable

/-- Division, whole-lane forms and bit fields (R176, R201 to R208). -/
def Obligations.LaneForms : Prop := Completes divTable ∧ Completes laneTable ∧ Completes fieldTable

/-- MOV and FMOV, condition registers, and the execution masks (R172 to R175, R196, R203, R211, R214). -/
def Obligations.CopiesAndMasks : Prop := Completes copyTable ∧ Completes ccTable ∧ Completes maskTable

/-- Floating point, conversions, DOT2 and quantising (R88, R209 to R217, R221 to R223). -/
def Obligations.FloatingPoint : Prop := Completes fpTable

/-- Integer dot products, residues and SCALEOF (R218 to R224). -/
def Obligations.DotsAndResidues : Prop := Completes dotTable ∧ Completes residueTable

/-- Shuffles, votes, scans and reductions over the gang (R225 to R232). -/
def Obligations.AcrossLanes : Prop := Completes shuffleTable ∧ Completes foldTable

/-- Long-latency computation taken as descriptors, and the carry chain (R139, R237 to R244, R267 to R284). The model's
choices: LADD and LSUB read the carry in the lane of limb 0, and LTOF and LTOXA read vector registers alone (log 77); an
SFU form waits at issue while a trap is enabled (log 63). -/
def Obligations.LaterAndChain : Prop := Completes laterTable ∧ Completes chainTable

/-- System instructions and special registers (R42, R58, R177 to R179). The model's choices: EXIT does nothing on a
firmware core, and SEV on a tile sequencer names the gangs of its team (log 28). -/
def Obligations.SystemForms : Prop := Completes systemTable ∧ Completes specialTable

/-- Branches, calls and jumps (R169 to R171). -/
def Obligations.Branches : Prop := Completes branchTable

/-- The register window and context lines, barriers and how they end, and queue ports (R55, R155 to R161, R183 to R187).
The model's choices: WBASE reads a scalar register as a signed 64-bit value (log 77); the order of arrivals in one
aclk, and from when the wait of a team that is placed again counts (logs 29 and 97). -/
def Obligations.WindowsBarriersPorts : Prop :=
  Completes windowTable ∧ Completes barrierTable ∧ Completes portTable ∧ BarrierEnds

/-- SPAWN, JOIN, PARK, WAKE, STAGED and TAKEW (R354 to R361). The model's choices: PARK.addr completes on a word that is
marked or whose read fails (log 36); the fix-up records of TAKEW, of kind 3 and level 16, and their entries (logs 35
and 41); what stands in a record's entry (log 84). -/
def Obligations.WorkForms : Prop := Completes workTable

/-- Loads (R245 to R248, R256 to R263): from their issue descriptors, read at their homes later (the model's choice of
when: log 27). -/
def Obligations.Loads : Prop := Completes loadTable

/-- Stores, and DISCARD, WBACK and ZERO (R245 to R248, R251). The model's choices: DISCARD, WBACK and ZERO go to their homes
as stores do, page by page, and are not waited for (log 27); lanes of one store that together cover a unit of 8 bytes are
one store of it (log 91). -/
def Obligations.StoresAndRanges : Prop := Completes storeTable ∧ Completes rangeTable

/-- Atomics and fences (R121, R122, R249, R250). The model's choices: an atomic with a scalar destination and a vector
operand acts while at most one lane is active, and the destination takes that lane's old value (log 77); its lanes in
global memory are performed at their homes later (log 27). -/
def Obligations.AtomicsAndFences : Prop := Completes atomTable ∧ Completes fenceTable

/-- The copy engine's instructions (R301 to R318). The model's choices: the order of the checks over several ranges
(log 42), and that an operation without room is retried (log 63). -/
def Obligations.CopyForms : Prop := Completes copyOpTable

/-- The tile sequencer's instructions (R319 to R344). The model's choices: TUNPIN leaves an accepted MMA its tile until that
ends, and which waits of TFETCH, MMA and MXDRAIN release first (log 44). -/
def Obligations.MatrixForms : Prop := Completes matrixTable

/-- The lath's instructions, and the prologue's (R285 to R299, R375, R376). The model's choices are in log 38. -/
def Obligations.LathAndPrologue : Prop := Completes lathTable ∧ Completes prologueTable

/-- The firmware's instructions (R190, R402 to R404, R418 to R423, R432 to R434), the start of a TVBUMP that rewraps and of
a STRIP, what STRIP leaves of a berth, and CTXKILL of a gang. The model's choices: MANCUT writes its record under tensor
slot 0 (log 57); HASHB keeps its count little-endian, and reserved bits of the operands (log 56); who may name which system
register (log 61); lines never sealed during a rewrap (log 60); the turns of a STRIP (log 90). -/
def Obligations.FirmwareForms : Prop :=
  Completes firmwareTable ∧ Holds holdTable ∧ Killed ∧ ∀ (s : State) (b : BitVec 4), Stripped s b

/-! ### Instructions trap -/

/-- TRAP and BRK take their traps. -/
def Obligations.TrapInstructions : Prop := Traps trapTable

/-- Traps of lane instructions: a zero divisor, a bad bit field, an enabled floating-point flag, a word-poisoned source of
the packed integer forms (0x28), and MOV from and to queue ports that are not bound, bound the other way, or closed
(0x90 to 0x92). -/
def Obligations.LaneTraps : Prop :=
  Traps divTraps ∧ Traps fieldTraps ∧ Traps fpTraps ∧ Traps laterTraps ∧ PoisonTraps ∧ PortTraps

/-- Traps of jumps and masks; of memory accesses, in the order of R258; of barriers (0x13), joins (0x8B, 0x8C), the window
(0x0A), context lines, spawns, queue bindings and atomics; of lost peer stores; and of firmware instructions, STRIP on a
pilot core (0x05) among them. The model's choices: a TVAL that the manual does not state is a free value (log 2); the order
of faults of one class (log 26); reserved bits of a SEAL operand raise 0xBA (log 56). -/
def Obligations.OtherTraps : Prop :=
  Traps branchTraps ∧ Traps maskTraps ∧ Traps firmwareTraps ∧ TrapsFree causeTable ∧ Traps operandTraps ∧ Traps memoryTraps ∧
    AtomTraps

/-! ### Events answer -/

/-- Bring-up, the lock-keeper and the harbourmaster's standby (R21, R25 to R29, R385). The model's choices: which register a
host's access names (log 5); log records with code 0 for events that have none (log 16); the count of clocks that
thermal control takes away (log 21); the heartbeat's period and the slot an update is written to (log 22); recovery
after a failed step 4 (log 23); which errors a retry clears (log 10). -/
def Obligations.PartEvents : Prop := Answers bootTable ∧ Answers keeperTable

/-- The host, of memory and of register pages, peers, and ports that go down (R29, R130, R131, R262). The model's choices:
what an access of the host or a peer carries (log 19), peers' acknowledgements (log 20), marks of host memory (log 72), what
lies behind a disabled stack or port (log 73), and requests that meet a refusing stack (log 83). -/
def Obligations.HostEvents : Prop := Answers hostTable

/-- Berths: each operation of BOPCMD that is not turned away leaves the state it is for, with BOPSTAT; one that is
turned away leaves its reason, and nothing else changes; the end of a quiesce and its time limit; ways, resources
and BERTHCTL; reset; and the slots of a shared berth's VFs (R388 to R403). The model's choices: what may run in a
berth whose STATE is not 1 (log 18), ways under removal (log 53), an operation that another finds under way (log 54),
blocks of an area whose layout the manual does not give (log 40), and slices (log 71). -/
def Obligations.BerthEvents : Prop := Answers berthTable

/-- Skim, keys and streams, counters, SPDM with the checks before a migration, and TDISP (R390, R404, R418, R426 to
R430, R435). The model's choices: when a tag fails (log 14), the order of SPDM and TDISP messages (log 17), skim (log 55),
streams (log 58), counters (log 59), and the checks before a migration (log 86). -/
def Obligations.SecurityEvents : Prop := Answers sealTable ∧ Answers spdmTable ∧ Answers tdispTable

/-- Stores, loads and atomics at their homes (R118 to R124). The model's choices: what ends an error (log 10), the order of
requests and answers (log 11), the value that memory holds of an owned word (log 12), and when operations happen (log 27). -/
def Obligations.HomeEvents : Prop := Answers homeTable

/-- Register lines, walks, fetches, slots, quanta and swaps (R76, R112, R142 to R161, R345 to R364). The model's choices:
what ends an error (log 10), which waits end by time (log 30), frames (log 31), refresh and drowsy lines (log 32), context
pages (log 37), service records (log 76), CTXFLUSH (log 79), the slot that a due record frees (log 81), and when held lines'
errors are found (log 85). -/
def Obligations.CoreEvents : Prop := Answers lineTable ∧ Answers walkTable ∧ Answers slotTable

/-- Gangs, teams and waits that end, and packets (R32, R43, R178, R366 to R380). The model's choices: times no rule fixes
(log 8), which waits end by time (log 30), admission (log 48), a killed grid (log 52), teams of earlier stages at a
grid's end (log 82), records in memory (log 84), and gangs that no slot has taken yet (log 98). -/
def Obligations.WorkEvents : Prop := Answers endTable ∧ Answers packetTable

/-- Engines and the lath (R242, R289, R305 to R315, R328 to R342). The model's choices: how a copy moves its data (log 43), the
waits before the sequencer's operations (log 44), a stage-2 failure of a matrix stream (log 45), and hand-over of accepted
operations (log 63). -/
def Obligations.EngineEvents : Prop := Answers engineTable
end

