-- ==== Sys2Proof/Laws/Memory.lean ====
section
/-!
SUPPORT. Laws of memory: every operation keeps the canonical form, and a byte reads as it was last written.
-/

namespace Sys2Proof.Machine

/-- A list in canonical form from some address on is so from every lower one. -/
theorem cellsWf_lower {lo hi : Nat} (cs : List Host.Cell) (h : cellsWf hi cs = true) (hl : lo ≤ hi) : cellsWf lo cs = true := by
  cases cs with
  | nil => rfl
  | cons c cs =>
    obtain ⟨j, x⟩ := c
    simp only [cellsWf, Bool.and_eq_true, decide_eq_true_eq] at h ⊢
    exact ⟨⟨by omega, h.1.2⟩, h.2⟩

theorem rising_lower {lo hi : Nat} (xs : List Nat) (h : rising hi xs = true) (hl : lo ≤ hi) : rising lo xs = true := by
  cases xs with
  | nil => rfl
  | cons j js =>
    simp only [rising, Bool.and_eq_true, decide_eq_true_eq] at h ⊢
    exact ⟨by omega, h.2⟩

/-- Writing a byte keeps the canonical form. -/
theorem cellsSet_wf (cs : List Host.Cell) (a : Nat) (v : Byte) :
    ∀ lo, cellsWf lo cs = true → lo ≤ a → cellsWf lo (cellsSet cs a v) = true := by
  induction cs with
  | nil =>
    intro lo _ hl
    by_cases hv : v = unlisted <;> simp [cellsSet, cellsWf, hv, hl]
  | cons c cs ih =>
    obtain ⟨j, x⟩ := c
    intro lo h hl
    simp only [cellsWf, Bool.and_eq_true, decide_eq_true_eq] at h
    obtain ⟨⟨hj, hx⟩, ht⟩ := h
    simp only [cellsSet]
    split
    · split
      · simp [cellsWf, hj, hx, ht]
      · rename_i h1 hv
        simp [cellsWf, hl, hv, hx, ht]; omega
    · split
      · rename_i h1 h2
        split
        · exact cellsWf_lower cs ht (by omega)
        · rename_i hv
          subst h2
          simp [cellsWf, hl, hv, ht]
      · rename_i h1 h2
        simp only [cellsWf, Bool.and_eq_true, decide_eq_true_eq]
        exact ⟨⟨hj, hx⟩, ih (j + 1) ht (by omega)⟩

/-- Below its first address a list in canonical form reads as unlisted. -/
theorem cellsGet_below (cs : List Host.Cell) (a lo : Nat) (h : cellsWf lo cs = true) (ha : a < lo) : cellsGet cs a = unlisted := by
  cases cs with
  | nil => rfl
  | cons c cs =>
    obtain ⟨j, x⟩ := c
    simp only [cellsWf, Bool.and_eq_true, decide_eq_true_eq] at h
    simp only [cellsGet]
    rw [if_neg (by omega), if_pos (by omega)]

/-- A byte reads as it was last written, and every other byte as before. -/
theorem cellsGet_set (cs : List Host.Cell) (a b : Nat) (v : Byte) :
    ∀ lo, cellsWf lo cs = true → cellsGet (cellsSet cs a v) b = if b = a then v else cellsGet cs b := by
  induction cs with
  | nil =>
    intro lo _
    by_cases hv : v = unlisted
    · by_cases hb : b = a <;> simp [cellsSet, cellsGet, hv, hb]
    · by_cases hb : b = a
      · simp [cellsSet, cellsGet, hv, hb]
      · simp [cellsSet, cellsGet, hv, hb, Ne.symm hb]
  | cons c cs ih =>
    obtain ⟨j, x⟩ := c
    intro lo h
    simp only [cellsWf, Bool.and_eq_true, decide_eq_true_eq] at h
    obtain ⟨⟨hj, hx⟩, ht⟩ := h
    have low : ∀ y, y < j + 1 → cellsGet cs y = unlisted := fun y hy => cellsGet_below cs y (j + 1) ht hy
    by_cases h1 : a < j
    · by_cases hv : v = unlisted
      · simp only [cellsSet, h1, hv, if_true]
        by_cases hb : b = a
        · subst hb
          simp only [cellsGet, if_true]
          rw [if_neg (by omega), if_pos h1]
        · simp [hb]
      · simp only [cellsSet, h1, hv, if_true, if_false, cellsGet]
        by_cases hb : b = a
        · simp [hb]
        · rw [if_neg (Ne.symm hb), if_neg hb]
          by_cases hlt : b < a
          · rw [if_pos hlt, if_neg (by omega), if_pos (by omega)]
          · rw [if_neg hlt]
    · by_cases h2 : j = a
      · subst h2
        by_cases hv : v = unlisted
        · simp only [cellsSet, hv, if_true, Nat.lt_irrefl, if_false, cellsGet]
          by_cases hb : b = j
          · subst hb; simp [low b (by omega)]
          · rw [if_neg hb, if_neg (Ne.symm hb)]
            by_cases hlt : b < j
            · rw [if_pos hlt]; exact low b (by omega)
            · rw [if_neg hlt]
        · simp only [cellsSet, hv, if_true, Nat.lt_irrefl, if_false, cellsGet]
          by_cases hb : b = j
          · simp [hb]
          · rw [if_neg (Ne.symm hb), if_neg hb, if_neg (Ne.symm hb)]
      · simp only [cellsSet, h1, h2, if_false, cellsGet, ih (j + 1) ht]
        by_cases hb : b = a
        · subst hb
          rw [if_neg h2, if_neg (by omega), if_pos rfl, if_pos rfl]
        · rw [if_neg hb, if_neg hb]

theorem ins_rising (k : Nat) (xs : List Nat) : ∀ lo, rising lo xs = true → lo ≤ k → rising lo (ins k xs) = true := by
  induction xs with
  | nil => intro lo _ hl; simp [ins, rising, hl]
  | cons j js ih =>
    intro lo h hl
    simp only [rising, Bool.and_eq_true, decide_eq_true_eq] at h
    simp only [ins]
    split
    · rename_i h1; simp [rising, hl, h.2]; omega
    · split
      · simp [rising, h.1, h.2]
      · rename_i h1 h2
        simp only [rising, Bool.and_eq_true, decide_eq_true_eq]
        exact ⟨h.1, ih (j + 1) h.2 (by omega)⟩

theorem filter_rising (p : Nat → Bool) (xs : List Nat) : ∀ lo, rising lo xs = true → rising lo (xs.filter p) = true := by
  induction xs with
  | nil => intro lo _; rfl
  | cons j js ih =>
    intro lo h
    simp only [rising, Bool.and_eq_true, decide_eq_true_eq] at h
    by_cases hp : p j = true
    · simp [hp, rising, h.1, ih (j + 1) h.2]
    · simp only [hp, List.filter_cons, if_false, Bool.false_eq_true]
      exact ih lo (rising_lower js h.2 (by omega))

theorem filter_cellsWf (p : Host.Cell → Bool) (cs : List Host.Cell) : ∀ lo, cellsWf lo cs = true → cellsWf lo (cs.filter p) = true := by
  induction cs with
  | nil => intro lo _; rfl
  | cons c cs ih =>
    obtain ⟨j, x⟩ := c
    intro lo h
    simp only [cellsWf, Bool.and_eq_true, decide_eq_true_eq] at h
    by_cases hp : p (j, x) = true
    · simp [hp, cellsWf, h.1.1, h.1.2, ih (j + 1) h.2]
    · simp only [hp, List.filter_cons, if_false, Bool.false_eq_true]
      exact ih lo (cellsWf_lower cs h.2 (by omega))

/-! ### Each operation keeps the canonical form -/

theorem Mem.wf_iff (m : Mem) : m.wf = true ↔ cellsWf 0 m.cells = true ∧ rising 0 m.marks = true := by
  simp [Mem.wf]

theorem Mem.empty_wf : Mem.empty.wf = true := by decide

theorem Mem.setByte_wf (m : Mem) (a : Nat) (v : Byte) (h : m.wf = true) : (m.setByte a v).wf = true := by
  rw [Mem.wf_iff] at h ⊢
  exact ⟨cellsSet_wf m.cells a v 0 h.1 (Nat.zero_le a), h.2⟩

theorem Mem.byte_setByte (m : Mem) (a b : Nat) (v : Byte) (h : m.wf = true) :
    (m.setByte a v).byte b = if b = a then v else m.byte b :=
  cellsGet_set m.cells a b v 0 ((Mem.wf_iff m).mp h).1

@[simp] theorem Mem.setByte_marks (m : Mem) (a : Nat) (v : Byte) : (m.setByte a v).marks = m.marks := rfl

theorem Mem.write_wf (n : Nat) : ∀ (m : Mem) (a v : Nat), m.wf = true → (m.write a n v).wf = true := by
  induction n with
  | zero => intro m a v h; exact h
  | succ n ih => intro m a v h; exact ih _ _ _ (Mem.setByte_wf m a _ h)

theorem Mem.writeBytes_wf (xs : List Byte) : ∀ (m : Mem) (a : Nat), m.wf = true → (m.writeBytes a xs).wf = true := by
  induction xs with
  | nil => intro m a h; exact h
  | cons x xs ih => intro m a h; exact ih _ _ (Mem.setByte_wf m a x h)

theorem Mem.mark_wf (m : Mem) (a : Nat) (p : Bool) (h : m.wf = true) : (m.mark a p).wf = true := by
  rw [Mem.wf_iff] at h ⊢
  refine ⟨h.1, ?_⟩
  cases p with
  | true => exact ins_rising (a / 8) m.marks 0 h.2 (Nat.zero_le _)
  | false => exact filter_rising _ m.marks 0 h.2

theorem foldl_wf {α : Type} (f : Mem → α → Mem) (hf : ∀ m x, m.wf = true → (f m x).wf = true) (xs : List α) :
    ∀ m : Mem, m.wf = true → (xs.foldl f m).wf = true := by
  induction xs with
  | nil => intro m h; exact h
  | cons x xs ih => intro m h; exact ih (f m x) (hf m x h)

theorem Mem.store_wf (m : Mem) (u : Nat) (be : BitVec 8) (v : Word) (p : Bool) (h : m.wf = true) : (m.store u be v p).wf = true := by
  have hm := foldl_wf (fun (acc : Mem) i => if be.getLsbD i then acc.setByte (u + i) (BitVec.ofNat 8 (v.toNat >>> (8 * i))) else acc)
    (fun m i h => by
      split
      · exact Mem.setByte_wf m _ _ h
      · exact h) (List.range 8) m h
  unfold Mem.store
  dsimp only
  split
  · exact Mem.mark_wf _ _ _ hm
  · split
    · exact Mem.mark_wf _ _ _ hm
    · exact hm

theorem Mem.zero_wf (m : Mem) (lo hi : Nat) (h : m.wf = true) : (m.zero lo hi).wf = true := by
  rw [Mem.wf_iff] at h ⊢
  exact ⟨filter_cellsWf _ m.cells 0 h.1, filter_rising _ m.marks 0 h.2⟩

/-- Memory right after reset is in canonical form. -/
theorem State.reset_mem_wf : State.reset.mem.wf = true := by decide

end Sys2Proof.Machine
end

