-- ==== Sys2Proof/Laws/State.lean ====
section
/-!
SUPPORT. Laws of State's named updates: each leaves every other field as it was, and has its value where it is read
back.
-/

namespace Sys2Proof.Machine

/-! State.setCore -/
@[simp] theorem State.setCore_cur (s : State) (n : Nat) (c : Core) : (s.setCore n c).cur = s.cur := rfl
@[simp] theorem State.setCore_agents (s : State) (n : Nat) (c : Core) : (s.setCore n c).agents = s.agents := rfl
@[simp] theorem State.setCore_clk (s : State) (n : Nat) (c : Core) : (s.setCore n c).clk = s.clk := rfl
@[simp] theorem State.setCore_tripped (s : State) (n : Nat) (c : Core) : (s.setCore n c).tripped = s.tripped := rfl
@[simp] theorem State.setCore_agenda (s : State) (n : Nat) (c : Core) : (s.setCore n c).agenda = s.agenda := rfl
@[simp] theorem State.setCore_mem (s : State) (n : Nat) (c : Core) : (s.setCore n c).mem = s.mem := rfl
@[simp] theorem State.setCore_sysregs (s : State) (n : Nat) (c : Core) : (s.setCore n c).sysregs = s.sysregs := rfl
@[simp] theorem State.setCore_keys (s : State) (n : Nat) (c : Core) : (s.setCore n c).keys = s.keys := rfl
@[simp] theorem State.setCore_tensors (s : State) (n : Nat) (c : Core) : (s.setCore n c).tensors = s.tensors := rfl
@[simp] theorem State.setCore_pasids (s : State) (n : Nat) (c : Core) : (s.setCore n c).pasids = s.pasids := rfl
@[simp] theorem State.setCore_sram (s : State) (n : Nat) (c : Core) : (s.setCore n c).sram = s.sram := rfl
@[simp] theorem State.setCore_image (s : State) (n : Nat) (c : Core) : (s.setCore n c).image = s.image := rfl
@[simp] theorem State.setCore_streams (s : State) (n : Nat) (c : Core) : (s.setCore n c).streams = s.streams := rfl
@[simp] theorem State.setCore_config (s : State) (n : Nat) (c : Core) : (s.setCore n c).config = s.config := rfl
@[simp] theorem State.setCore_pend (s : State) (n : Nat) (c : Core) : (s.setCore n c).pend = s.pend := rfl
@[simp] theorem State.setCore_l2 (s : State) (n : Nat) (c : Core) : (s.setCore n c).l2 = s.l2 := rfl
@[simp] theorem State.setCore_seals (s : State) (n : Nat) (c : Core) : (s.setCore n c).seals = s.seals := rfl
@[simp] theorem State.setCore_clusters (s : State) (n : Nat) (c : Core) : (s.setCore n c).clusters = s.clusters := rfl
@[simp] theorem State.setCore_teams (s : State) (n : Nat) (c : Core) : (s.setCore n c).teams = s.teams := rfl
@[simp] theorem State.setCore_grids (s : State) (n : Nat) (c : Core) : (s.setCore n c).grids = s.grids := rfl
@[simp] theorem State.setCore_packets (s : State) (n : Nat) (c : Core) : (s.setCore n c).packets = s.packets := rfl
@[simp] theorem State.setCore_records (s : State) (n : Nat) (c : Core) : (s.setCore n c).records = s.records := rfl
@[simp] theorem State.setCore_berths (s : State) (n : Nat) (c : Core) : (s.setCore n c).berths = s.berths := rfl
@[simp] theorem State.setCore_events (s : State) (n : Nat) (c : Core) : (s.setCore n c).events = s.events := rfl
@[simp] theorem State.setCore_tlb (s : State) (n : Nat) (c : Core) : (s.setCore n c).tlb = s.tlb := rfl
@[simp] theorem State.setCore_walks (s : State) (n : Nat) (c : Core) : (s.setCore n c).walks = s.walks := rfl
@[simp] theorem State.setCore_owners (s : State) (n : Nat) (c : Core) : (s.setCore n c).owners = s.owners := rfl
@[simp] theorem State.setCore_watches (s : State) (n : Nat) (c : Core) : (s.setCore n c).watches = s.watches := rfl
@[simp] theorem State.setCore_irqs (s : State) (n : Nat) (c : Core) : (s.setCore n c).irqs = s.irqs := rfl
@[simp] theorem State.setCore_reads (s : State) (n : Nat) (c : Core) : (s.setCore n c).reads = s.reads := rfl
@[simp] theorem State.setCore_channels (s : State) (n : Nat) (c : Core) : (s.setCore n c).channels = s.channels := rfl
@[simp] theorem State.setCore_queues (s : State) (n : Nat) (c : Core) : (s.setCore n c).queues = s.queues := rfl
@[simp] theorem State.setCore_peerAcks (s : State) (n : Nat) (c : Core) : (s.setCore n c).peerAcks = s.peerAcks := rfl
@[simp] theorem State.setCore_tlps (s : State) (n : Nat) (c : Core) : (s.setCore n c).tlps = s.tlps := rfl
@[simp] theorem State.setCore_images (s : State) (n : Nat) (c : Core) : (s.setCore n c).images = s.images := rfl
@[simp] theorem State.setCore_strips (s : State) (n : Nat) (c : Core) : (s.setCore n c).strips = s.strips := rfl
@[simp] theorem State.setCore_stripped (s : State) (n : Nat) (c : Core) : (s.setCore n c).stripped = s.stripped := rfl
@[simp] theorem State.setCore_rewraps (s : State) (n : Nat) (c : Core) : (s.setCore n c).rewraps = s.rewraps := rfl
@[simp] theorem State.setCore_waiting (s : State) (n : Nat) (c : Core) : (s.setCore n c).waiting = s.waiting := rfl
@[simp] theorem State.setCore_deadHost (s : State) (n : Nat) (c : Core) : (s.setCore n c).deadHost = s.deadHost := rfl
@[simp] theorem State.setCore_deadClusters (s : State) (n : Nat) (c : Core) : (s.setCore n c).deadClusters = s.deadClusters := rfl
/-! State.setCluster -/
@[simp] theorem State.setCluster_cur (s : State) (n : Nat) (c : Cluster) : (s.setCluster n c).cur = s.cur := rfl
@[simp] theorem State.setCluster_agents (s : State) (n : Nat) (c : Cluster) : (s.setCluster n c).agents = s.agents := rfl
@[simp] theorem State.setCluster_clk (s : State) (n : Nat) (c : Cluster) : (s.setCluster n c).clk = s.clk := rfl
@[simp] theorem State.setCluster_tripped (s : State) (n : Nat) (c : Cluster) : (s.setCluster n c).tripped = s.tripped := rfl
@[simp] theorem State.setCluster_agenda (s : State) (n : Nat) (c : Cluster) : (s.setCluster n c).agenda = s.agenda := rfl
@[simp] theorem State.setCluster_mem (s : State) (n : Nat) (c : Cluster) : (s.setCluster n c).mem = s.mem := rfl
@[simp] theorem State.setCluster_sysregs (s : State) (n : Nat) (c : Cluster) : (s.setCluster n c).sysregs = s.sysregs := rfl
@[simp] theorem State.setCluster_keys (s : State) (n : Nat) (c : Cluster) : (s.setCluster n c).keys = s.keys := rfl
@[simp] theorem State.setCluster_tensors (s : State) (n : Nat) (c : Cluster) : (s.setCluster n c).tensors = s.tensors := rfl
@[simp] theorem State.setCluster_pasids (s : State) (n : Nat) (c : Cluster) : (s.setCluster n c).pasids = s.pasids := rfl
@[simp] theorem State.setCluster_sram (s : State) (n : Nat) (c : Cluster) : (s.setCluster n c).sram = s.sram := rfl
@[simp] theorem State.setCluster_image (s : State) (n : Nat) (c : Cluster) : (s.setCluster n c).image = s.image := rfl
@[simp] theorem State.setCluster_streams (s : State) (n : Nat) (c : Cluster) : (s.setCluster n c).streams = s.streams := rfl
@[simp] theorem State.setCluster_config (s : State) (n : Nat) (c : Cluster) : (s.setCluster n c).config = s.config := rfl
@[simp] theorem State.setCluster_pend (s : State) (n : Nat) (c : Cluster) : (s.setCluster n c).pend = s.pend := rfl
@[simp] theorem State.setCluster_l2 (s : State) (n : Nat) (c : Cluster) : (s.setCluster n c).l2 = s.l2 := rfl
@[simp] theorem State.setCluster_seals (s : State) (n : Nat) (c : Cluster) : (s.setCluster n c).seals = s.seals := rfl
@[simp] theorem State.setCluster_cores (s : State) (n : Nat) (c : Cluster) : (s.setCluster n c).cores = s.cores := rfl
@[simp] theorem State.setCluster_teams (s : State) (n : Nat) (c : Cluster) : (s.setCluster n c).teams = s.teams := rfl
@[simp] theorem State.setCluster_grids (s : State) (n : Nat) (c : Cluster) : (s.setCluster n c).grids = s.grids := rfl
@[simp] theorem State.setCluster_packets (s : State) (n : Nat) (c : Cluster) : (s.setCluster n c).packets = s.packets := rfl
@[simp] theorem State.setCluster_records (s : State) (n : Nat) (c : Cluster) : (s.setCluster n c).records = s.records := rfl
@[simp] theorem State.setCluster_berths (s : State) (n : Nat) (c : Cluster) : (s.setCluster n c).berths = s.berths := rfl
@[simp] theorem State.setCluster_events (s : State) (n : Nat) (c : Cluster) : (s.setCluster n c).events = s.events := rfl
@[simp] theorem State.setCluster_tlb (s : State) (n : Nat) (c : Cluster) : (s.setCluster n c).tlb = s.tlb := rfl
@[simp] theorem State.setCluster_walks (s : State) (n : Nat) (c : Cluster) : (s.setCluster n c).walks = s.walks := rfl
@[simp] theorem State.setCluster_owners (s : State) (n : Nat) (c : Cluster) : (s.setCluster n c).owners = s.owners := rfl
@[simp] theorem State.setCluster_watches (s : State) (n : Nat) (c : Cluster) : (s.setCluster n c).watches = s.watches := rfl
@[simp] theorem State.setCluster_irqs (s : State) (n : Nat) (c : Cluster) : (s.setCluster n c).irqs = s.irqs := rfl
@[simp] theorem State.setCluster_reads (s : State) (n : Nat) (c : Cluster) : (s.setCluster n c).reads = s.reads := rfl
@[simp] theorem State.setCluster_channels (s : State) (n : Nat) (c : Cluster) : (s.setCluster n c).channels = s.channels := rfl
@[simp] theorem State.setCluster_queues (s : State) (n : Nat) (c : Cluster) : (s.setCluster n c).queues = s.queues := rfl
@[simp] theorem State.setCluster_peerAcks (s : State) (n : Nat) (c : Cluster) : (s.setCluster n c).peerAcks = s.peerAcks := rfl
@[simp] theorem State.setCluster_tlps (s : State) (n : Nat) (c : Cluster) : (s.setCluster n c).tlps = s.tlps := rfl
@[simp] theorem State.setCluster_images (s : State) (n : Nat) (c : Cluster) : (s.setCluster n c).images = s.images := rfl
@[simp] theorem State.setCluster_strips (s : State) (n : Nat) (c : Cluster) : (s.setCluster n c).strips = s.strips := rfl
@[simp] theorem State.setCluster_stripped (s : State) (n : Nat) (c : Cluster) : (s.setCluster n c).stripped = s.stripped := rfl
@[simp] theorem State.setCluster_rewraps (s : State) (n : Nat) (c : Cluster) : (s.setCluster n c).rewraps = s.rewraps := rfl
@[simp] theorem State.setCluster_waiting (s : State) (n : Nat) (c : Cluster) : (s.setCluster n c).waiting = s.waiting := rfl
@[simp] theorem State.setCluster_deadHost (s : State) (n : Nat) (c : Cluster) : (s.setCluster n c).deadHost = s.deadHost := rfl
@[simp] theorem State.setCluster_deadClusters (s : State) (n : Nat) (c : Cluster) : (s.setCluster n c).deadClusters = s.deadClusters := rfl
/-! State.modCore -/
@[simp] theorem State.modCore_cur (s : State) (n : Nat) (f : Core → Core) : (s.modCore n f).cur = s.cur := rfl
@[simp] theorem State.modCore_agents (s : State) (n : Nat) (f : Core → Core) : (s.modCore n f).agents = s.agents := rfl
@[simp] theorem State.modCore_clk (s : State) (n : Nat) (f : Core → Core) : (s.modCore n f).clk = s.clk := rfl
@[simp] theorem State.modCore_tripped (s : State) (n : Nat) (f : Core → Core) : (s.modCore n f).tripped = s.tripped := rfl
@[simp] theorem State.modCore_agenda (s : State) (n : Nat) (f : Core → Core) : (s.modCore n f).agenda = s.agenda := rfl
@[simp] theorem State.modCore_mem (s : State) (n : Nat) (f : Core → Core) : (s.modCore n f).mem = s.mem := rfl
@[simp] theorem State.modCore_sysregs (s : State) (n : Nat) (f : Core → Core) : (s.modCore n f).sysregs = s.sysregs := rfl
@[simp] theorem State.modCore_keys (s : State) (n : Nat) (f : Core → Core) : (s.modCore n f).keys = s.keys := rfl
@[simp] theorem State.modCore_tensors (s : State) (n : Nat) (f : Core → Core) : (s.modCore n f).tensors = s.tensors := rfl
@[simp] theorem State.modCore_pasids (s : State) (n : Nat) (f : Core → Core) : (s.modCore n f).pasids = s.pasids := rfl
@[simp] theorem State.modCore_sram (s : State) (n : Nat) (f : Core → Core) : (s.modCore n f).sram = s.sram := rfl
@[simp] theorem State.modCore_image (s : State) (n : Nat) (f : Core → Core) : (s.modCore n f).image = s.image := rfl
@[simp] theorem State.modCore_streams (s : State) (n : Nat) (f : Core → Core) : (s.modCore n f).streams = s.streams := rfl
@[simp] theorem State.modCore_config (s : State) (n : Nat) (f : Core → Core) : (s.modCore n f).config = s.config := rfl
@[simp] theorem State.modCore_pend (s : State) (n : Nat) (f : Core → Core) : (s.modCore n f).pend = s.pend := rfl
@[simp] theorem State.modCore_l2 (s : State) (n : Nat) (f : Core → Core) : (s.modCore n f).l2 = s.l2 := rfl
@[simp] theorem State.modCore_seals (s : State) (n : Nat) (f : Core → Core) : (s.modCore n f).seals = s.seals := rfl
@[simp] theorem State.modCore_clusters (s : State) (n : Nat) (f : Core → Core) : (s.modCore n f).clusters = s.clusters := rfl
@[simp] theorem State.modCore_teams (s : State) (n : Nat) (f : Core → Core) : (s.modCore n f).teams = s.teams := rfl
@[simp] theorem State.modCore_grids (s : State) (n : Nat) (f : Core → Core) : (s.modCore n f).grids = s.grids := rfl
@[simp] theorem State.modCore_packets (s : State) (n : Nat) (f : Core → Core) : (s.modCore n f).packets = s.packets := rfl
@[simp] theorem State.modCore_records (s : State) (n : Nat) (f : Core → Core) : (s.modCore n f).records = s.records := rfl
@[simp] theorem State.modCore_berths (s : State) (n : Nat) (f : Core → Core) : (s.modCore n f).berths = s.berths := rfl
@[simp] theorem State.modCore_events (s : State) (n : Nat) (f : Core → Core) : (s.modCore n f).events = s.events := rfl
@[simp] theorem State.modCore_tlb (s : State) (n : Nat) (f : Core → Core) : (s.modCore n f).tlb = s.tlb := rfl
@[simp] theorem State.modCore_walks (s : State) (n : Nat) (f : Core → Core) : (s.modCore n f).walks = s.walks := rfl
@[simp] theorem State.modCore_owners (s : State) (n : Nat) (f : Core → Core) : (s.modCore n f).owners = s.owners := rfl
@[simp] theorem State.modCore_watches (s : State) (n : Nat) (f : Core → Core) : (s.modCore n f).watches = s.watches := rfl
@[simp] theorem State.modCore_irqs (s : State) (n : Nat) (f : Core → Core) : (s.modCore n f).irqs = s.irqs := rfl
@[simp] theorem State.modCore_reads (s : State) (n : Nat) (f : Core → Core) : (s.modCore n f).reads = s.reads := rfl
@[simp] theorem State.modCore_channels (s : State) (n : Nat) (f : Core → Core) : (s.modCore n f).channels = s.channels := rfl
@[simp] theorem State.modCore_queues (s : State) (n : Nat) (f : Core → Core) : (s.modCore n f).queues = s.queues := rfl
@[simp] theorem State.modCore_peerAcks (s : State) (n : Nat) (f : Core → Core) : (s.modCore n f).peerAcks = s.peerAcks := rfl
@[simp] theorem State.modCore_tlps (s : State) (n : Nat) (f : Core → Core) : (s.modCore n f).tlps = s.tlps := rfl
@[simp] theorem State.modCore_images (s : State) (n : Nat) (f : Core → Core) : (s.modCore n f).images = s.images := rfl
@[simp] theorem State.modCore_strips (s : State) (n : Nat) (f : Core → Core) : (s.modCore n f).strips = s.strips := rfl
@[simp] theorem State.modCore_stripped (s : State) (n : Nat) (f : Core → Core) : (s.modCore n f).stripped = s.stripped := rfl
@[simp] theorem State.modCore_rewraps (s : State) (n : Nat) (f : Core → Core) : (s.modCore n f).rewraps = s.rewraps := rfl
@[simp] theorem State.modCore_waiting (s : State) (n : Nat) (f : Core → Core) : (s.modCore n f).waiting = s.waiting := rfl
@[simp] theorem State.modCore_deadHost (s : State) (n : Nat) (f : Core → Core) : (s.modCore n f).deadHost = s.deadHost := rfl
@[simp] theorem State.modCore_deadClusters (s : State) (n : Nat) (f : Core → Core) : (s.modCore n f).deadClusters = s.deadClusters := rfl
/-! State.modCluster -/
@[simp] theorem State.modCluster_cur (s : State) (n : Nat) (f : Cluster → Cluster) : (s.modCluster n f).cur = s.cur := rfl
@[simp] theorem State.modCluster_agents (s : State) (n : Nat) (f : Cluster → Cluster) : (s.modCluster n f).agents = s.agents := rfl
@[simp] theorem State.modCluster_clk (s : State) (n : Nat) (f : Cluster → Cluster) : (s.modCluster n f).clk = s.clk := rfl
@[simp] theorem State.modCluster_tripped (s : State) (n : Nat) (f : Cluster → Cluster) : (s.modCluster n f).tripped = s.tripped := rfl
@[simp] theorem State.modCluster_agenda (s : State) (n : Nat) (f : Cluster → Cluster) : (s.modCluster n f).agenda = s.agenda := rfl
@[simp] theorem State.modCluster_mem (s : State) (n : Nat) (f : Cluster → Cluster) : (s.modCluster n f).mem = s.mem := rfl
@[simp] theorem State.modCluster_sysregs (s : State) (n : Nat) (f : Cluster → Cluster) : (s.modCluster n f).sysregs = s.sysregs := rfl
@[simp] theorem State.modCluster_keys (s : State) (n : Nat) (f : Cluster → Cluster) : (s.modCluster n f).keys = s.keys := rfl
@[simp] theorem State.modCluster_tensors (s : State) (n : Nat) (f : Cluster → Cluster) : (s.modCluster n f).tensors = s.tensors := rfl
@[simp] theorem State.modCluster_pasids (s : State) (n : Nat) (f : Cluster → Cluster) : (s.modCluster n f).pasids = s.pasids := rfl
@[simp] theorem State.modCluster_sram (s : State) (n : Nat) (f : Cluster → Cluster) : (s.modCluster n f).sram = s.sram := rfl
@[simp] theorem State.modCluster_image (s : State) (n : Nat) (f : Cluster → Cluster) : (s.modCluster n f).image = s.image := rfl
@[simp] theorem State.modCluster_streams (s : State) (n : Nat) (f : Cluster → Cluster) : (s.modCluster n f).streams = s.streams := rfl
@[simp] theorem State.modCluster_config (s : State) (n : Nat) (f : Cluster → Cluster) : (s.modCluster n f).config = s.config := rfl
@[simp] theorem State.modCluster_pend (s : State) (n : Nat) (f : Cluster → Cluster) : (s.modCluster n f).pend = s.pend := rfl
@[simp] theorem State.modCluster_l2 (s : State) (n : Nat) (f : Cluster → Cluster) : (s.modCluster n f).l2 = s.l2 := rfl
@[simp] theorem State.modCluster_seals (s : State) (n : Nat) (f : Cluster → Cluster) : (s.modCluster n f).seals = s.seals := rfl
@[simp] theorem State.modCluster_cores (s : State) (n : Nat) (f : Cluster → Cluster) : (s.modCluster n f).cores = s.cores := rfl
@[simp] theorem State.modCluster_teams (s : State) (n : Nat) (f : Cluster → Cluster) : (s.modCluster n f).teams = s.teams := rfl
@[simp] theorem State.modCluster_grids (s : State) (n : Nat) (f : Cluster → Cluster) : (s.modCluster n f).grids = s.grids := rfl
@[simp] theorem State.modCluster_packets (s : State) (n : Nat) (f : Cluster → Cluster) : (s.modCluster n f).packets = s.packets := rfl
@[simp] theorem State.modCluster_records (s : State) (n : Nat) (f : Cluster → Cluster) : (s.modCluster n f).records = s.records := rfl
@[simp] theorem State.modCluster_berths (s : State) (n : Nat) (f : Cluster → Cluster) : (s.modCluster n f).berths = s.berths := rfl
@[simp] theorem State.modCluster_events (s : State) (n : Nat) (f : Cluster → Cluster) : (s.modCluster n f).events = s.events := rfl
@[simp] theorem State.modCluster_tlb (s : State) (n : Nat) (f : Cluster → Cluster) : (s.modCluster n f).tlb = s.tlb := rfl
@[simp] theorem State.modCluster_walks (s : State) (n : Nat) (f : Cluster → Cluster) : (s.modCluster n f).walks = s.walks := rfl
@[simp] theorem State.modCluster_owners (s : State) (n : Nat) (f : Cluster → Cluster) : (s.modCluster n f).owners = s.owners := rfl
@[simp] theorem State.modCluster_watches (s : State) (n : Nat) (f : Cluster → Cluster) : (s.modCluster n f).watches = s.watches := rfl
@[simp] theorem State.modCluster_irqs (s : State) (n : Nat) (f : Cluster → Cluster) : (s.modCluster n f).irqs = s.irqs := rfl
@[simp] theorem State.modCluster_reads (s : State) (n : Nat) (f : Cluster → Cluster) : (s.modCluster n f).reads = s.reads := rfl
@[simp] theorem State.modCluster_channels (s : State) (n : Nat) (f : Cluster → Cluster) : (s.modCluster n f).channels = s.channels := rfl
@[simp] theorem State.modCluster_queues (s : State) (n : Nat) (f : Cluster → Cluster) : (s.modCluster n f).queues = s.queues := rfl
@[simp] theorem State.modCluster_peerAcks (s : State) (n : Nat) (f : Cluster → Cluster) : (s.modCluster n f).peerAcks = s.peerAcks := rfl
@[simp] theorem State.modCluster_tlps (s : State) (n : Nat) (f : Cluster → Cluster) : (s.modCluster n f).tlps = s.tlps := rfl
@[simp] theorem State.modCluster_images (s : State) (n : Nat) (f : Cluster → Cluster) : (s.modCluster n f).images = s.images := rfl
@[simp] theorem State.modCluster_strips (s : State) (n : Nat) (f : Cluster → Cluster) : (s.modCluster n f).strips = s.strips := rfl
@[simp] theorem State.modCluster_stripped (s : State) (n : Nat) (f : Cluster → Cluster) : (s.modCluster n f).stripped = s.stripped := rfl
@[simp] theorem State.modCluster_rewraps (s : State) (n : Nat) (f : Cluster → Cluster) : (s.modCluster n f).rewraps = s.rewraps := rfl
@[simp] theorem State.modCluster_waiting (s : State) (n : Nat) (f : Cluster → Cluster) : (s.modCluster n f).waiting = s.waiting := rfl
@[simp] theorem State.modCluster_deadHost (s : State) (n : Nat) (f : Cluster → Cluster) : (s.modCluster n f).deadHost = s.deadHost := rfl
@[simp] theorem State.modCluster_deadClusters (s : State) (n : Nat) (f : Cluster → Cluster) : (s.modCluster n f).deadClusters = s.deadClusters := rfl
/-! State.modTeam -/
@[simp] theorem State.modTeam_cur (s : State) (n : Nat) (f : Team → Team) : (s.modTeam n f).cur = s.cur := rfl
@[simp] theorem State.modTeam_agents (s : State) (n : Nat) (f : Team → Team) : (s.modTeam n f).agents = s.agents := rfl
@[simp] theorem State.modTeam_clk (s : State) (n : Nat) (f : Team → Team) : (s.modTeam n f).clk = s.clk := rfl
@[simp] theorem State.modTeam_tripped (s : State) (n : Nat) (f : Team → Team) : (s.modTeam n f).tripped = s.tripped := rfl
@[simp] theorem State.modTeam_agenda (s : State) (n : Nat) (f : Team → Team) : (s.modTeam n f).agenda = s.agenda := rfl
@[simp] theorem State.modTeam_mem (s : State) (n : Nat) (f : Team → Team) : (s.modTeam n f).mem = s.mem := rfl
@[simp] theorem State.modTeam_sysregs (s : State) (n : Nat) (f : Team → Team) : (s.modTeam n f).sysregs = s.sysregs := rfl
@[simp] theorem State.modTeam_keys (s : State) (n : Nat) (f : Team → Team) : (s.modTeam n f).keys = s.keys := rfl
@[simp] theorem State.modTeam_tensors (s : State) (n : Nat) (f : Team → Team) : (s.modTeam n f).tensors = s.tensors := rfl
@[simp] theorem State.modTeam_pasids (s : State) (n : Nat) (f : Team → Team) : (s.modTeam n f).pasids = s.pasids := rfl
@[simp] theorem State.modTeam_sram (s : State) (n : Nat) (f : Team → Team) : (s.modTeam n f).sram = s.sram := rfl
@[simp] theorem State.modTeam_image (s : State) (n : Nat) (f : Team → Team) : (s.modTeam n f).image = s.image := rfl
@[simp] theorem State.modTeam_streams (s : State) (n : Nat) (f : Team → Team) : (s.modTeam n f).streams = s.streams := rfl
@[simp] theorem State.modTeam_config (s : State) (n : Nat) (f : Team → Team) : (s.modTeam n f).config = s.config := rfl
@[simp] theorem State.modTeam_pend (s : State) (n : Nat) (f : Team → Team) : (s.modTeam n f).pend = s.pend := rfl
@[simp] theorem State.modTeam_l2 (s : State) (n : Nat) (f : Team → Team) : (s.modTeam n f).l2 = s.l2 := rfl
@[simp] theorem State.modTeam_seals (s : State) (n : Nat) (f : Team → Team) : (s.modTeam n f).seals = s.seals := rfl
@[simp] theorem State.modTeam_cores (s : State) (n : Nat) (f : Team → Team) : (s.modTeam n f).cores = s.cores := rfl
@[simp] theorem State.modTeam_clusters (s : State) (n : Nat) (f : Team → Team) : (s.modTeam n f).clusters = s.clusters := rfl
@[simp] theorem State.modTeam_grids (s : State) (n : Nat) (f : Team → Team) : (s.modTeam n f).grids = s.grids := rfl
@[simp] theorem State.modTeam_packets (s : State) (n : Nat) (f : Team → Team) : (s.modTeam n f).packets = s.packets := rfl
@[simp] theorem State.modTeam_records (s : State) (n : Nat) (f : Team → Team) : (s.modTeam n f).records = s.records := rfl
@[simp] theorem State.modTeam_berths (s : State) (n : Nat) (f : Team → Team) : (s.modTeam n f).berths = s.berths := rfl
@[simp] theorem State.modTeam_events (s : State) (n : Nat) (f : Team → Team) : (s.modTeam n f).events = s.events := rfl
@[simp] theorem State.modTeam_tlb (s : State) (n : Nat) (f : Team → Team) : (s.modTeam n f).tlb = s.tlb := rfl
@[simp] theorem State.modTeam_walks (s : State) (n : Nat) (f : Team → Team) : (s.modTeam n f).walks = s.walks := rfl
@[simp] theorem State.modTeam_owners (s : State) (n : Nat) (f : Team → Team) : (s.modTeam n f).owners = s.owners := rfl
@[simp] theorem State.modTeam_watches (s : State) (n : Nat) (f : Team → Team) : (s.modTeam n f).watches = s.watches := rfl
@[simp] theorem State.modTeam_irqs (s : State) (n : Nat) (f : Team → Team) : (s.modTeam n f).irqs = s.irqs := rfl
@[simp] theorem State.modTeam_reads (s : State) (n : Nat) (f : Team → Team) : (s.modTeam n f).reads = s.reads := rfl
@[simp] theorem State.modTeam_channels (s : State) (n : Nat) (f : Team → Team) : (s.modTeam n f).channels = s.channels := rfl
@[simp] theorem State.modTeam_queues (s : State) (n : Nat) (f : Team → Team) : (s.modTeam n f).queues = s.queues := rfl
@[simp] theorem State.modTeam_peerAcks (s : State) (n : Nat) (f : Team → Team) : (s.modTeam n f).peerAcks = s.peerAcks := rfl
@[simp] theorem State.modTeam_tlps (s : State) (n : Nat) (f : Team → Team) : (s.modTeam n f).tlps = s.tlps := rfl
@[simp] theorem State.modTeam_images (s : State) (n : Nat) (f : Team → Team) : (s.modTeam n f).images = s.images := rfl
@[simp] theorem State.modTeam_strips (s : State) (n : Nat) (f : Team → Team) : (s.modTeam n f).strips = s.strips := rfl
@[simp] theorem State.modTeam_stripped (s : State) (n : Nat) (f : Team → Team) : (s.modTeam n f).stripped = s.stripped := rfl
@[simp] theorem State.modTeam_rewraps (s : State) (n : Nat) (f : Team → Team) : (s.modTeam n f).rewraps = s.rewraps := rfl
@[simp] theorem State.modTeam_waiting (s : State) (n : Nat) (f : Team → Team) : (s.modTeam n f).waiting = s.waiting := rfl
@[simp] theorem State.modTeam_deadHost (s : State) (n : Nat) (f : Team → Team) : (s.modTeam n f).deadHost = s.deadHost := rfl
@[simp] theorem State.modTeam_deadClusters (s : State) (n : Nat) (f : Team → Team) : (s.modTeam n f).deadClusters = s.deadClusters := rfl
/-! State.modGrid -/
@[simp] theorem State.modGrid_cur (s : State) (n : Nat) (f : Grid → Grid) : (s.modGrid n f).cur = s.cur := rfl
@[simp] theorem State.modGrid_agents (s : State) (n : Nat) (f : Grid → Grid) : (s.modGrid n f).agents = s.agents := rfl
@[simp] theorem State.modGrid_clk (s : State) (n : Nat) (f : Grid → Grid) : (s.modGrid n f).clk = s.clk := rfl
@[simp] theorem State.modGrid_tripped (s : State) (n : Nat) (f : Grid → Grid) : (s.modGrid n f).tripped = s.tripped := rfl
@[simp] theorem State.modGrid_agenda (s : State) (n : Nat) (f : Grid → Grid) : (s.modGrid n f).agenda = s.agenda := rfl
@[simp] theorem State.modGrid_mem (s : State) (n : Nat) (f : Grid → Grid) : (s.modGrid n f).mem = s.mem := rfl
@[simp] theorem State.modGrid_sysregs (s : State) (n : Nat) (f : Grid → Grid) : (s.modGrid n f).sysregs = s.sysregs := rfl
@[simp] theorem State.modGrid_keys (s : State) (n : Nat) (f : Grid → Grid) : (s.modGrid n f).keys = s.keys := rfl
@[simp] theorem State.modGrid_tensors (s : State) (n : Nat) (f : Grid → Grid) : (s.modGrid n f).tensors = s.tensors := rfl
@[simp] theorem State.modGrid_pasids (s : State) (n : Nat) (f : Grid → Grid) : (s.modGrid n f).pasids = s.pasids := rfl
@[simp] theorem State.modGrid_sram (s : State) (n : Nat) (f : Grid → Grid) : (s.modGrid n f).sram = s.sram := rfl
@[simp] theorem State.modGrid_image (s : State) (n : Nat) (f : Grid → Grid) : (s.modGrid n f).image = s.image := rfl
@[simp] theorem State.modGrid_streams (s : State) (n : Nat) (f : Grid → Grid) : (s.modGrid n f).streams = s.streams := rfl
@[simp] theorem State.modGrid_config (s : State) (n : Nat) (f : Grid → Grid) : (s.modGrid n f).config = s.config := rfl
@[simp] theorem State.modGrid_pend (s : State) (n : Nat) (f : Grid → Grid) : (s.modGrid n f).pend = s.pend := rfl
@[simp] theorem State.modGrid_l2 (s : State) (n : Nat) (f : Grid → Grid) : (s.modGrid n f).l2 = s.l2 := rfl
@[simp] theorem State.modGrid_seals (s : State) (n : Nat) (f : Grid → Grid) : (s.modGrid n f).seals = s.seals := rfl
@[simp] theorem State.modGrid_cores (s : State) (n : Nat) (f : Grid → Grid) : (s.modGrid n f).cores = s.cores := rfl
@[simp] theorem State.modGrid_clusters (s : State) (n : Nat) (f : Grid → Grid) : (s.modGrid n f).clusters = s.clusters := rfl
@[simp] theorem State.modGrid_teams (s : State) (n : Nat) (f : Grid → Grid) : (s.modGrid n f).teams = s.teams := rfl
@[simp] theorem State.modGrid_packets (s : State) (n : Nat) (f : Grid → Grid) : (s.modGrid n f).packets = s.packets := rfl
@[simp] theorem State.modGrid_records (s : State) (n : Nat) (f : Grid → Grid) : (s.modGrid n f).records = s.records := rfl
@[simp] theorem State.modGrid_berths (s : State) (n : Nat) (f : Grid → Grid) : (s.modGrid n f).berths = s.berths := rfl
@[simp] theorem State.modGrid_events (s : State) (n : Nat) (f : Grid → Grid) : (s.modGrid n f).events = s.events := rfl
@[simp] theorem State.modGrid_tlb (s : State) (n : Nat) (f : Grid → Grid) : (s.modGrid n f).tlb = s.tlb := rfl
@[simp] theorem State.modGrid_walks (s : State) (n : Nat) (f : Grid → Grid) : (s.modGrid n f).walks = s.walks := rfl
@[simp] theorem State.modGrid_owners (s : State) (n : Nat) (f : Grid → Grid) : (s.modGrid n f).owners = s.owners := rfl
@[simp] theorem State.modGrid_watches (s : State) (n : Nat) (f : Grid → Grid) : (s.modGrid n f).watches = s.watches := rfl
@[simp] theorem State.modGrid_irqs (s : State) (n : Nat) (f : Grid → Grid) : (s.modGrid n f).irqs = s.irqs := rfl
@[simp] theorem State.modGrid_reads (s : State) (n : Nat) (f : Grid → Grid) : (s.modGrid n f).reads = s.reads := rfl
@[simp] theorem State.modGrid_channels (s : State) (n : Nat) (f : Grid → Grid) : (s.modGrid n f).channels = s.channels := rfl
@[simp] theorem State.modGrid_queues (s : State) (n : Nat) (f : Grid → Grid) : (s.modGrid n f).queues = s.queues := rfl
@[simp] theorem State.modGrid_peerAcks (s : State) (n : Nat) (f : Grid → Grid) : (s.modGrid n f).peerAcks = s.peerAcks := rfl
@[simp] theorem State.modGrid_tlps (s : State) (n : Nat) (f : Grid → Grid) : (s.modGrid n f).tlps = s.tlps := rfl
@[simp] theorem State.modGrid_images (s : State) (n : Nat) (f : Grid → Grid) : (s.modGrid n f).images = s.images := rfl
@[simp] theorem State.modGrid_strips (s : State) (n : Nat) (f : Grid → Grid) : (s.modGrid n f).strips = s.strips := rfl
@[simp] theorem State.modGrid_stripped (s : State) (n : Nat) (f : Grid → Grid) : (s.modGrid n f).stripped = s.stripped := rfl
@[simp] theorem State.modGrid_rewraps (s : State) (n : Nat) (f : Grid → Grid) : (s.modGrid n f).rewraps = s.rewraps := rfl
@[simp] theorem State.modGrid_waiting (s : State) (n : Nat) (f : Grid → Grid) : (s.modGrid n f).waiting = s.waiting := rfl
@[simp] theorem State.modGrid_deadHost (s : State) (n : Nat) (f : Grid → Grid) : (s.modGrid n f).deadHost = s.deadHost := rfl
@[simp] theorem State.modGrid_deadClusters (s : State) (n : Nat) (f : Grid → Grid) : (s.modGrid n f).deadClusters = s.deadClusters := rfl
/-! State.modPacket -/
@[simp] theorem State.modPacket_cur (s : State) (n : Nat) (f : Packet → Packet) : (s.modPacket n f).cur = s.cur := rfl
@[simp] theorem State.modPacket_agents (s : State) (n : Nat) (f : Packet → Packet) : (s.modPacket n f).agents = s.agents := rfl
@[simp] theorem State.modPacket_clk (s : State) (n : Nat) (f : Packet → Packet) : (s.modPacket n f).clk = s.clk := rfl
@[simp] theorem State.modPacket_tripped (s : State) (n : Nat) (f : Packet → Packet) : (s.modPacket n f).tripped = s.tripped := rfl
@[simp] theorem State.modPacket_agenda (s : State) (n : Nat) (f : Packet → Packet) : (s.modPacket n f).agenda = s.agenda := rfl
@[simp] theorem State.modPacket_mem (s : State) (n : Nat) (f : Packet → Packet) : (s.modPacket n f).mem = s.mem := rfl
@[simp] theorem State.modPacket_sysregs (s : State) (n : Nat) (f : Packet → Packet) : (s.modPacket n f).sysregs = s.sysregs := rfl
@[simp] theorem State.modPacket_keys (s : State) (n : Nat) (f : Packet → Packet) : (s.modPacket n f).keys = s.keys := rfl
@[simp] theorem State.modPacket_tensors (s : State) (n : Nat) (f : Packet → Packet) : (s.modPacket n f).tensors = s.tensors := rfl
@[simp] theorem State.modPacket_pasids (s : State) (n : Nat) (f : Packet → Packet) : (s.modPacket n f).pasids = s.pasids := rfl
@[simp] theorem State.modPacket_sram (s : State) (n : Nat) (f : Packet → Packet) : (s.modPacket n f).sram = s.sram := rfl
@[simp] theorem State.modPacket_image (s : State) (n : Nat) (f : Packet → Packet) : (s.modPacket n f).image = s.image := rfl
@[simp] theorem State.modPacket_streams (s : State) (n : Nat) (f : Packet → Packet) : (s.modPacket n f).streams = s.streams := rfl
@[simp] theorem State.modPacket_config (s : State) (n : Nat) (f : Packet → Packet) : (s.modPacket n f).config = s.config := rfl
@[simp] theorem State.modPacket_pend (s : State) (n : Nat) (f : Packet → Packet) : (s.modPacket n f).pend = s.pend := rfl
@[simp] theorem State.modPacket_l2 (s : State) (n : Nat) (f : Packet → Packet) : (s.modPacket n f).l2 = s.l2 := rfl
@[simp] theorem State.modPacket_seals (s : State) (n : Nat) (f : Packet → Packet) : (s.modPacket n f).seals = s.seals := rfl
@[simp] theorem State.modPacket_cores (s : State) (n : Nat) (f : Packet → Packet) : (s.modPacket n f).cores = s.cores := rfl
@[simp] theorem State.modPacket_clusters (s : State) (n : Nat) (f : Packet → Packet) : (s.modPacket n f).clusters = s.clusters := rfl
@[simp] theorem State.modPacket_teams (s : State) (n : Nat) (f : Packet → Packet) : (s.modPacket n f).teams = s.teams := rfl
@[simp] theorem State.modPacket_grids (s : State) (n : Nat) (f : Packet → Packet) : (s.modPacket n f).grids = s.grids := rfl
@[simp] theorem State.modPacket_records (s : State) (n : Nat) (f : Packet → Packet) : (s.modPacket n f).records = s.records := rfl
@[simp] theorem State.modPacket_berths (s : State) (n : Nat) (f : Packet → Packet) : (s.modPacket n f).berths = s.berths := rfl
@[simp] theorem State.modPacket_events (s : State) (n : Nat) (f : Packet → Packet) : (s.modPacket n f).events = s.events := rfl
@[simp] theorem State.modPacket_tlb (s : State) (n : Nat) (f : Packet → Packet) : (s.modPacket n f).tlb = s.tlb := rfl
@[simp] theorem State.modPacket_walks (s : State) (n : Nat) (f : Packet → Packet) : (s.modPacket n f).walks = s.walks := rfl
@[simp] theorem State.modPacket_owners (s : State) (n : Nat) (f : Packet → Packet) : (s.modPacket n f).owners = s.owners := rfl
@[simp] theorem State.modPacket_watches (s : State) (n : Nat) (f : Packet → Packet) : (s.modPacket n f).watches = s.watches := rfl
@[simp] theorem State.modPacket_irqs (s : State) (n : Nat) (f : Packet → Packet) : (s.modPacket n f).irqs = s.irqs := rfl
@[simp] theorem State.modPacket_reads (s : State) (n : Nat) (f : Packet → Packet) : (s.modPacket n f).reads = s.reads := rfl
@[simp] theorem State.modPacket_channels (s : State) (n : Nat) (f : Packet → Packet) : (s.modPacket n f).channels = s.channels := rfl
@[simp] theorem State.modPacket_queues (s : State) (n : Nat) (f : Packet → Packet) : (s.modPacket n f).queues = s.queues := rfl
@[simp] theorem State.modPacket_peerAcks (s : State) (n : Nat) (f : Packet → Packet) : (s.modPacket n f).peerAcks = s.peerAcks := rfl
@[simp] theorem State.modPacket_tlps (s : State) (n : Nat) (f : Packet → Packet) : (s.modPacket n f).tlps = s.tlps := rfl
@[simp] theorem State.modPacket_images (s : State) (n : Nat) (f : Packet → Packet) : (s.modPacket n f).images = s.images := rfl
@[simp] theorem State.modPacket_strips (s : State) (n : Nat) (f : Packet → Packet) : (s.modPacket n f).strips = s.strips := rfl
@[simp] theorem State.modPacket_stripped (s : State) (n : Nat) (f : Packet → Packet) : (s.modPacket n f).stripped = s.stripped := rfl
@[simp] theorem State.modPacket_rewraps (s : State) (n : Nat) (f : Packet → Packet) : (s.modPacket n f).rewraps = s.rewraps := rfl
@[simp] theorem State.modPacket_waiting (s : State) (n : Nat) (f : Packet → Packet) : (s.modPacket n f).waiting = s.waiting := rfl
@[simp] theorem State.modPacket_deadHost (s : State) (n : Nat) (f : Packet → Packet) : (s.modPacket n f).deadHost = s.deadHost := rfl
@[simp] theorem State.modPacket_deadClusters (s : State) (n : Nat) (f : Packet → Packet) : (s.modPacket n f).deadClusters = s.deadClusters := rfl
/-! State.modRecord -/
@[simp] theorem State.modRecord_cur (s : State) (n : Nat) (f : Record → Record) : (s.modRecord n f).cur = s.cur := rfl
@[simp] theorem State.modRecord_agents (s : State) (n : Nat) (f : Record → Record) : (s.modRecord n f).agents = s.agents := rfl
@[simp] theorem State.modRecord_clk (s : State) (n : Nat) (f : Record → Record) : (s.modRecord n f).clk = s.clk := rfl
@[simp] theorem State.modRecord_tripped (s : State) (n : Nat) (f : Record → Record) : (s.modRecord n f).tripped = s.tripped := rfl
@[simp] theorem State.modRecord_agenda (s : State) (n : Nat) (f : Record → Record) : (s.modRecord n f).agenda = s.agenda := rfl
@[simp] theorem State.modRecord_mem (s : State) (n : Nat) (f : Record → Record) : (s.modRecord n f).mem = s.mem := rfl
@[simp] theorem State.modRecord_sysregs (s : State) (n : Nat) (f : Record → Record) : (s.modRecord n f).sysregs = s.sysregs := rfl
@[simp] theorem State.modRecord_keys (s : State) (n : Nat) (f : Record → Record) : (s.modRecord n f).keys = s.keys := rfl
@[simp] theorem State.modRecord_tensors (s : State) (n : Nat) (f : Record → Record) : (s.modRecord n f).tensors = s.tensors := rfl
@[simp] theorem State.modRecord_pasids (s : State) (n : Nat) (f : Record → Record) : (s.modRecord n f).pasids = s.pasids := rfl
@[simp] theorem State.modRecord_sram (s : State) (n : Nat) (f : Record → Record) : (s.modRecord n f).sram = s.sram := rfl
@[simp] theorem State.modRecord_image (s : State) (n : Nat) (f : Record → Record) : (s.modRecord n f).image = s.image := rfl
@[simp] theorem State.modRecord_streams (s : State) (n : Nat) (f : Record → Record) : (s.modRecord n f).streams = s.streams := rfl
@[simp] theorem State.modRecord_config (s : State) (n : Nat) (f : Record → Record) : (s.modRecord n f).config = s.config := rfl
@[simp] theorem State.modRecord_pend (s : State) (n : Nat) (f : Record → Record) : (s.modRecord n f).pend = s.pend := rfl
@[simp] theorem State.modRecord_l2 (s : State) (n : Nat) (f : Record → Record) : (s.modRecord n f).l2 = s.l2 := rfl
@[simp] theorem State.modRecord_seals (s : State) (n : Nat) (f : Record → Record) : (s.modRecord n f).seals = s.seals := rfl
@[simp] theorem State.modRecord_cores (s : State) (n : Nat) (f : Record → Record) : (s.modRecord n f).cores = s.cores := rfl
@[simp] theorem State.modRecord_clusters (s : State) (n : Nat) (f : Record → Record) : (s.modRecord n f).clusters = s.clusters := rfl
@[simp] theorem State.modRecord_teams (s : State) (n : Nat) (f : Record → Record) : (s.modRecord n f).teams = s.teams := rfl
@[simp] theorem State.modRecord_grids (s : State) (n : Nat) (f : Record → Record) : (s.modRecord n f).grids = s.grids := rfl
@[simp] theorem State.modRecord_packets (s : State) (n : Nat) (f : Record → Record) : (s.modRecord n f).packets = s.packets := rfl
@[simp] theorem State.modRecord_berths (s : State) (n : Nat) (f : Record → Record) : (s.modRecord n f).berths = s.berths := rfl
@[simp] theorem State.modRecord_events (s : State) (n : Nat) (f : Record → Record) : (s.modRecord n f).events = s.events := rfl
@[simp] theorem State.modRecord_tlb (s : State) (n : Nat) (f : Record → Record) : (s.modRecord n f).tlb = s.tlb := rfl
@[simp] theorem State.modRecord_walks (s : State) (n : Nat) (f : Record → Record) : (s.modRecord n f).walks = s.walks := rfl
@[simp] theorem State.modRecord_owners (s : State) (n : Nat) (f : Record → Record) : (s.modRecord n f).owners = s.owners := rfl
@[simp] theorem State.modRecord_watches (s : State) (n : Nat) (f : Record → Record) : (s.modRecord n f).watches = s.watches := rfl
@[simp] theorem State.modRecord_irqs (s : State) (n : Nat) (f : Record → Record) : (s.modRecord n f).irqs = s.irqs := rfl
@[simp] theorem State.modRecord_reads (s : State) (n : Nat) (f : Record → Record) : (s.modRecord n f).reads = s.reads := rfl
@[simp] theorem State.modRecord_channels (s : State) (n : Nat) (f : Record → Record) : (s.modRecord n f).channels = s.channels := rfl
@[simp] theorem State.modRecord_queues (s : State) (n : Nat) (f : Record → Record) : (s.modRecord n f).queues = s.queues := rfl
@[simp] theorem State.modRecord_peerAcks (s : State) (n : Nat) (f : Record → Record) : (s.modRecord n f).peerAcks = s.peerAcks := rfl
@[simp] theorem State.modRecord_tlps (s : State) (n : Nat) (f : Record → Record) : (s.modRecord n f).tlps = s.tlps := rfl
@[simp] theorem State.modRecord_images (s : State) (n : Nat) (f : Record → Record) : (s.modRecord n f).images = s.images := rfl
@[simp] theorem State.modRecord_strips (s : State) (n : Nat) (f : Record → Record) : (s.modRecord n f).strips = s.strips := rfl
@[simp] theorem State.modRecord_stripped (s : State) (n : Nat) (f : Record → Record) : (s.modRecord n f).stripped = s.stripped := rfl
@[simp] theorem State.modRecord_rewraps (s : State) (n : Nat) (f : Record → Record) : (s.modRecord n f).rewraps = s.rewraps := rfl
@[simp] theorem State.modRecord_waiting (s : State) (n : Nat) (f : Record → Record) : (s.modRecord n f).waiting = s.waiting := rfl
@[simp] theorem State.modRecord_deadHost (s : State) (n : Nat) (f : Record → Record) : (s.modRecord n f).deadHost = s.deadHost := rfl
@[simp] theorem State.modRecord_deadClusters (s : State) (n : Nat) (f : Record → Record) : (s.modRecord n f).deadClusters = s.deadClusters := rfl
/-! State.setSysreg -/
@[simp] theorem State.setSysreg_cur (s : State) (n : Nat) (v : Word) : (s.setSysreg n v).cur = s.cur := rfl
@[simp] theorem State.setSysreg_agents (s : State) (n : Nat) (v : Word) : (s.setSysreg n v).agents = s.agents := rfl
@[simp] theorem State.setSysreg_clk (s : State) (n : Nat) (v : Word) : (s.setSysreg n v).clk = s.clk := rfl
@[simp] theorem State.setSysreg_tripped (s : State) (n : Nat) (v : Word) : (s.setSysreg n v).tripped = s.tripped := rfl
@[simp] theorem State.setSysreg_agenda (s : State) (n : Nat) (v : Word) : (s.setSysreg n v).agenda = s.agenda := rfl
@[simp] theorem State.setSysreg_mem (s : State) (n : Nat) (v : Word) : (s.setSysreg n v).mem = s.mem := rfl
@[simp] theorem State.setSysreg_keys (s : State) (n : Nat) (v : Word) : (s.setSysreg n v).keys = s.keys := rfl
@[simp] theorem State.setSysreg_tensors (s : State) (n : Nat) (v : Word) : (s.setSysreg n v).tensors = s.tensors := rfl
@[simp] theorem State.setSysreg_pasids (s : State) (n : Nat) (v : Word) : (s.setSysreg n v).pasids = s.pasids := rfl
@[simp] theorem State.setSysreg_sram (s : State) (n : Nat) (v : Word) : (s.setSysreg n v).sram = s.sram := rfl
@[simp] theorem State.setSysreg_image (s : State) (n : Nat) (v : Word) : (s.setSysreg n v).image = s.image := rfl
@[simp] theorem State.setSysreg_streams (s : State) (n : Nat) (v : Word) : (s.setSysreg n v).streams = s.streams := rfl
@[simp] theorem State.setSysreg_config (s : State) (n : Nat) (v : Word) : (s.setSysreg n v).config = s.config := rfl
@[simp] theorem State.setSysreg_pend (s : State) (n : Nat) (v : Word) : (s.setSysreg n v).pend = s.pend := rfl
@[simp] theorem State.setSysreg_l2 (s : State) (n : Nat) (v : Word) : (s.setSysreg n v).l2 = s.l2 := rfl
@[simp] theorem State.setSysreg_seals (s : State) (n : Nat) (v : Word) : (s.setSysreg n v).seals = s.seals := rfl
@[simp] theorem State.setSysreg_cores (s : State) (n : Nat) (v : Word) : (s.setSysreg n v).cores = s.cores := rfl
@[simp] theorem State.setSysreg_clusters (s : State) (n : Nat) (v : Word) : (s.setSysreg n v).clusters = s.clusters := rfl
@[simp] theorem State.setSysreg_teams (s : State) (n : Nat) (v : Word) : (s.setSysreg n v).teams = s.teams := rfl
@[simp] theorem State.setSysreg_grids (s : State) (n : Nat) (v : Word) : (s.setSysreg n v).grids = s.grids := rfl
@[simp] theorem State.setSysreg_packets (s : State) (n : Nat) (v : Word) : (s.setSysreg n v).packets = s.packets := rfl
@[simp] theorem State.setSysreg_records (s : State) (n : Nat) (v : Word) : (s.setSysreg n v).records = s.records := rfl
@[simp] theorem State.setSysreg_berths (s : State) (n : Nat) (v : Word) : (s.setSysreg n v).berths = s.berths := rfl
@[simp] theorem State.setSysreg_events (s : State) (n : Nat) (v : Word) : (s.setSysreg n v).events = s.events := rfl
@[simp] theorem State.setSysreg_tlb (s : State) (n : Nat) (v : Word) : (s.setSysreg n v).tlb = s.tlb := rfl
@[simp] theorem State.setSysreg_walks (s : State) (n : Nat) (v : Word) : (s.setSysreg n v).walks = s.walks := rfl
@[simp] theorem State.setSysreg_owners (s : State) (n : Nat) (v : Word) : (s.setSysreg n v).owners = s.owners := rfl
@[simp] theorem State.setSysreg_watches (s : State) (n : Nat) (v : Word) : (s.setSysreg n v).watches = s.watches := rfl
@[simp] theorem State.setSysreg_irqs (s : State) (n : Nat) (v : Word) : (s.setSysreg n v).irqs = s.irqs := rfl
@[simp] theorem State.setSysreg_reads (s : State) (n : Nat) (v : Word) : (s.setSysreg n v).reads = s.reads := rfl
@[simp] theorem State.setSysreg_channels (s : State) (n : Nat) (v : Word) : (s.setSysreg n v).channels = s.channels := rfl
@[simp] theorem State.setSysreg_queues (s : State) (n : Nat) (v : Word) : (s.setSysreg n v).queues = s.queues := rfl
@[simp] theorem State.setSysreg_peerAcks (s : State) (n : Nat) (v : Word) : (s.setSysreg n v).peerAcks = s.peerAcks := rfl
@[simp] theorem State.setSysreg_tlps (s : State) (n : Nat) (v : Word) : (s.setSysreg n v).tlps = s.tlps := rfl
@[simp] theorem State.setSysreg_images (s : State) (n : Nat) (v : Word) : (s.setSysreg n v).images = s.images := rfl
@[simp] theorem State.setSysreg_strips (s : State) (n : Nat) (v : Word) : (s.setSysreg n v).strips = s.strips := rfl
@[simp] theorem State.setSysreg_stripped (s : State) (n : Nat) (v : Word) : (s.setSysreg n v).stripped = s.stripped := rfl
@[simp] theorem State.setSysreg_rewraps (s : State) (n : Nat) (v : Word) : (s.setSysreg n v).rewraps = s.rewraps := rfl
@[simp] theorem State.setSysreg_waiting (s : State) (n : Nat) (v : Word) : (s.setSysreg n v).waiting = s.waiting := rfl
@[simp] theorem State.setSysreg_deadHost (s : State) (n : Nat) (v : Word) : (s.setSysreg n v).deadHost = s.deadHost := rfl
@[simp] theorem State.setSysreg_deadClusters (s : State) (n : Nat) (v : Word) : (s.setSysreg n v).deadClusters = s.deadClusters := rfl
/-! State.note -/
@[simp] theorem State.note_cur (s : State) (c : BitVec 8) (n : Nat) (v : Word) : (s.note c n v).cur = s.cur := rfl
@[simp] theorem State.note_agents (s : State) (c : BitVec 8) (n : Nat) (v : Word) : (s.note c n v).agents = s.agents := rfl
@[simp] theorem State.note_clk (s : State) (c : BitVec 8) (n : Nat) (v : Word) : (s.note c n v).clk = s.clk := rfl
@[simp] theorem State.note_tripped (s : State) (c : BitVec 8) (n : Nat) (v : Word) : (s.note c n v).tripped = s.tripped := rfl
@[simp] theorem State.note_agenda (s : State) (c : BitVec 8) (n : Nat) (v : Word) : (s.note c n v).agenda = s.agenda := rfl
@[simp] theorem State.note_mem (s : State) (c : BitVec 8) (n : Nat) (v : Word) : (s.note c n v).mem = s.mem := rfl
@[simp] theorem State.note_sysregs (s : State) (c : BitVec 8) (n : Nat) (v : Word) : (s.note c n v).sysregs = s.sysregs := rfl
@[simp] theorem State.note_keys (s : State) (c : BitVec 8) (n : Nat) (v : Word) : (s.note c n v).keys = s.keys := rfl
@[simp] theorem State.note_tensors (s : State) (c : BitVec 8) (n : Nat) (v : Word) : (s.note c n v).tensors = s.tensors := rfl
@[simp] theorem State.note_pasids (s : State) (c : BitVec 8) (n : Nat) (v : Word) : (s.note c n v).pasids = s.pasids := rfl
@[simp] theorem State.note_sram (s : State) (c : BitVec 8) (n : Nat) (v : Word) : (s.note c n v).sram = s.sram := rfl
@[simp] theorem State.note_image (s : State) (c : BitVec 8) (n : Nat) (v : Word) : (s.note c n v).image = s.image := rfl
@[simp] theorem State.note_streams (s : State) (c : BitVec 8) (n : Nat) (v : Word) : (s.note c n v).streams = s.streams := rfl
@[simp] theorem State.note_config (s : State) (c : BitVec 8) (n : Nat) (v : Word) : (s.note c n v).config = s.config := rfl
@[simp] theorem State.note_pend (s : State) (c : BitVec 8) (n : Nat) (v : Word) : (s.note c n v).pend = s.pend := rfl
@[simp] theorem State.note_l2 (s : State) (c : BitVec 8) (n : Nat) (v : Word) : (s.note c n v).l2 = s.l2 := rfl
@[simp] theorem State.note_seals (s : State) (c : BitVec 8) (n : Nat) (v : Word) : (s.note c n v).seals = s.seals := rfl
@[simp] theorem State.note_cores (s : State) (c : BitVec 8) (n : Nat) (v : Word) : (s.note c n v).cores = s.cores := rfl
@[simp] theorem State.note_clusters (s : State) (c : BitVec 8) (n : Nat) (v : Word) : (s.note c n v).clusters = s.clusters := rfl
@[simp] theorem State.note_teams (s : State) (c : BitVec 8) (n : Nat) (v : Word) : (s.note c n v).teams = s.teams := rfl
@[simp] theorem State.note_grids (s : State) (c : BitVec 8) (n : Nat) (v : Word) : (s.note c n v).grids = s.grids := rfl
@[simp] theorem State.note_packets (s : State) (c : BitVec 8) (n : Nat) (v : Word) : (s.note c n v).packets = s.packets := rfl
@[simp] theorem State.note_records (s : State) (c : BitVec 8) (n : Nat) (v : Word) : (s.note c n v).records = s.records := rfl
@[simp] theorem State.note_berths (s : State) (c : BitVec 8) (n : Nat) (v : Word) : (s.note c n v).berths = s.berths := rfl
@[simp] theorem State.note_tlb (s : State) (c : BitVec 8) (n : Nat) (v : Word) : (s.note c n v).tlb = s.tlb := rfl
@[simp] theorem State.note_walks (s : State) (c : BitVec 8) (n : Nat) (v : Word) : (s.note c n v).walks = s.walks := rfl
@[simp] theorem State.note_owners (s : State) (c : BitVec 8) (n : Nat) (v : Word) : (s.note c n v).owners = s.owners := rfl
@[simp] theorem State.note_watches (s : State) (c : BitVec 8) (n : Nat) (v : Word) : (s.note c n v).watches = s.watches := rfl
@[simp] theorem State.note_irqs (s : State) (c : BitVec 8) (n : Nat) (v : Word) : (s.note c n v).irqs = s.irqs := rfl
@[simp] theorem State.note_reads (s : State) (c : BitVec 8) (n : Nat) (v : Word) : (s.note c n v).reads = s.reads := rfl
@[simp] theorem State.note_channels (s : State) (c : BitVec 8) (n : Nat) (v : Word) : (s.note c n v).channels = s.channels := rfl
@[simp] theorem State.note_queues (s : State) (c : BitVec 8) (n : Nat) (v : Word) : (s.note c n v).queues = s.queues := rfl
@[simp] theorem State.note_peerAcks (s : State) (c : BitVec 8) (n : Nat) (v : Word) : (s.note c n v).peerAcks = s.peerAcks := rfl
@[simp] theorem State.note_tlps (s : State) (c : BitVec 8) (n : Nat) (v : Word) : (s.note c n v).tlps = s.tlps := rfl
@[simp] theorem State.note_images (s : State) (c : BitVec 8) (n : Nat) (v : Word) : (s.note c n v).images = s.images := rfl
@[simp] theorem State.note_strips (s : State) (c : BitVec 8) (n : Nat) (v : Word) : (s.note c n v).strips = s.strips := rfl
@[simp] theorem State.note_stripped (s : State) (c : BitVec 8) (n : Nat) (v : Word) : (s.note c n v).stripped = s.stripped := rfl
@[simp] theorem State.note_rewraps (s : State) (c : BitVec 8) (n : Nat) (v : Word) : (s.note c n v).rewraps = s.rewraps := rfl
@[simp] theorem State.note_waiting (s : State) (c : BitVec 8) (n : Nat) (v : Word) : (s.note c n v).waiting = s.waiting := rfl
@[simp] theorem State.note_deadHost (s : State) (c : BitVec 8) (n : Nat) (v : Word) : (s.note c n v).deadHost = s.deadHost := rfl
@[simp] theorem State.note_deadClusters (s : State) (c : BitVec 8) (n : Nat) (v : Word) : (s.note c n v).deadClusters = s.deadClusters := rfl
/-! What an update leaves at the place it names -/
@[simp] theorem State.note_events (s : State) (c : BitVec 8) (n : Nat) (v : Word) : (s.note c n v).events = ⟨c, n, v, s.logHash⟩ :: s.events := rfl
@[simp] theorem State.takeFree_state (s : State) : s.takeFree.2 = { s with frees := s.frees + 1 } := rfl
@[simp] theorem State.takeFree_value (s : State) : s.takeFree.1 = s.frees := rfl

/-- The agent whose turn it is, found by its number. -/
@[simp] theorem State.agent_cur (s : State) : s.agent s.cur.id = some s.cur := by simp [State.agent]

/-- A change of the agent whose turn it is changes cur alone. -/
theorem State.modAgent_cur (s : State) (f : Agent → Agent) : s.modAgent s.cur.id f = { s with cur := f s.cur } := by
  simp [State.modAgent]

/-- A change of any agent leaves memory and the parts of firmware as they were. -/
@[simp] theorem State.modAgent_mem (s : State) (g : Nat) (f : Agent → Agent) : (s.modAgent g f).mem = s.mem := by
  unfold State.modAgent; split <;> rfl
@[simp] theorem State.modAgent_sysregs (s : State) (g : Nat) (f : Agent → Agent) : (s.modAgent g f).sysregs = s.sysregs := by
  unfold State.modAgent; split <;> rfl
@[simp] theorem State.modAgent_keys (s : State) (g : Nat) (f : Agent → Agent) : (s.modAgent g f).keys = s.keys := by
  unfold State.modAgent; split <;> rfl
@[simp] theorem State.modAgent_pend (s : State) (g : Nat) (f : Agent → Agent) : (s.modAgent g f).pend = s.pend := by
  unfold State.modAgent; split <;> rfl
@[simp] theorem State.modBerth_mem (s : State) (b : BitVec 4) (f : Berth → Berth) : (s.modBerth b f).mem = s.mem := by
  unfold State.modBerth; split <;> rfl
@[simp] theorem State.modBerth_cur (s : State) (b : BitVec 4) (f : Berth → Berth) : (s.modBerth b f).cur = s.cur := by
  unfold State.modBerth; split <;> rfl
@[simp] theorem State.modChannel_mem (s : State) (c : Nat) (f : Channel → Channel) : (s.modChannel c f).mem = s.mem := by
  unfold State.modChannel; split <;> rfl
@[simp] theorem State.modChannel_cur (s : State) (c : Nat) (f : Channel → Channel) : (s.modChannel c f).cur = s.cur := by
  unfold State.modChannel; split <;> rfl

/-- A record changed, found by its number, where f keeps numbers. -/
theorem changeFirst_find {α : Type} (p : α → Bool) (f : α → α) (hf : ∀ x, p x = true → p (f x) = true) (xs : List α) :
    (changeFirst p f xs).find? p = (xs.find? p).map f := by
  induction xs with
  | nil => rfl
  | cons x xs ih =>
    by_cases h : p x = true
    · simp [changeFirst, h, hf x h]
    · simp [changeFirst, h, ih]

end Sys2Proof.Machine
end

