-- ==== Sys2Proof/Laws/Unit.lean ====
section
/-!
SUPPORT. Laws of a unit and of a step: what each can do, said once.
-/

namespace Sys2Proof.Machine

/-- A unit that passes R77, reads its operands and acts, ends. -/
theorem unitWith_done {w : IWord} {priv : State → Bool} {body : U → Act (Option Word)} {s s1 s2 : State} {u : U} {j : Option Word}
    (hf : unitFault s.cur w (priv s) = none) (hi : issue w s = .ok (u, s1)) (hb : body u s1 = .ok (j, s2)) :
    unitWith w priv body s = .next (finish u j s s2) := by
  unfold unitWith
  simp only [hf]
  simp [bind, StateT.bind, Except.bind, hi, hb, pure, StateT.pure, Except.pure]

theorem unit_done {w : IWord} {body : U → Act Unit} {s s1 s2 : State} {u : U}
    (hf : unitFault s.cur w false = none) (hi : issue w s = .ok (u, s1)) (hb : body u s1 = .ok ((), s2)) :
    unit w body s = .next (finish u none s s2) := by
  unfold unit
  exact unitWith_done hf hi (by simp [bind, StateT.bind, Except.bind, hb, pure, StateT.pure, Except.pure])

theorem unitJump_done {w : IWord} {body : U → Act (Option Word)} {s s1 s2 : State} {u : U} {j : Option Word}
    (hf : unitFault s.cur w false = none) (hi : issue w s = .ok (u, s1)) (hb : body u s1 = .ok (j, s2)) :
    unitJump w body s = .next (finish u j s s2) :=
  unitWith_done hf hi hb

/-- A unit whose effect stops is undone: the stop acts on the state before it. -/
theorem unitWith_stopped {w : IWord} {priv : State → Bool} {body : U → Act (Option Word)} {s s1 : State} {u : U} {x : Stop}
    (hf : unitFault s.cur w (priv s) = none) (hi : issue w s = .ok (u, s1)) (hb : body u s1 = .error x) :
    unitWith w priv body s = .next (onStop x s) := by
  unfold unitWith
  simp only [hf]
  simp [bind, StateT.bind, Except.bind, hi, hb]

/-- A unit that does not pass R77 traps. -/
theorem unitWith_fault {w : IWord} {priv : State → Bool} {body : U → Act (Option Word)} {s : State} {c : BitVec 8} {v : Word}
    (hf : unitFault s.cur w (priv s) = some (c, v)) : unitWith w priv body s = .next (s.takeTrap c v) := by
  unfold unitWith
  simp only [hf]

/-- Everything a unit can do: the trap of R77, its end, or its stop. -/
theorem unitWith_cases (w : IWord) (priv : State → Bool) (body : U → Act (Option Word)) (s : State) :
    (∃ c v, unitFault s.cur w (priv s) = some (c, v) ∧ unitWith w priv body s = .next (s.takeTrap c v)) ∨
    (unitFault s.cur w (priv s) = none ∧ ((∃ x, issue w s = .error x ∧ unitWith w priv body s = .next (onStop x s)) ∨
      ∃ u s1, issue w s = .ok (u, s1) ∧
        ((∃ j s2, body u s1 = .ok (j, s2) ∧ unitWith w priv body s = .next (finish u j s s2)) ∨
          ∃ x, body u s1 = .error x ∧ unitWith w priv body s = .next (onStop x s)))) := by
  cases hf : unitFault s.cur w (priv s) with
  | some r => exact .inl ⟨r.1, r.2, rfl, unitWith_fault hf⟩
  | none =>
    refine .inr ⟨rfl, ?_⟩
    cases hi : issue w s with
    | error x =>
      refine .inl ⟨x, rfl, ?_⟩
      unfold unitWith
      simp only [hf]
      simp [bind, StateT.bind, Except.bind, hi]
    | ok r =>
      obtain ⟨u, s1⟩ := r
      refine .inr ⟨u, s1, rfl, ?_⟩
      cases hb : body u s1 with
      | error x => exact .inr ⟨x, rfl, unitWith_stopped hf hi hb⟩
      | ok r => exact .inl ⟨r.1, r.2, rfl, unitWith_done hf hi hb⟩

/-- A unit always answers a next state. -/
theorem unitWith_next (w : IWord) (priv : State → Bool) (body : U → Act (Option Word)) (s : State) :
    ∃ t, unitWith w priv body s = .next t := by
  unfold unitWith
  split
  · exact ⟨_, rfl⟩
  · split <;> exact ⟨_, rfl⟩

/-- A prefix word always answers a next state. -/
theorem addPrefix_next (w : IWord) (s : State) : ∃ t, addPrefix w s = .next t := by
  unfold addPrefix
  dsimp only
  split
  · exact ⟨_, rfl⟩
  · split <;> exact ⟨_, rfl⟩

/-- A trap of a gang with a handler. -/
theorem takeTrap_gang_pc (s : State) (c : BitVec 8) (v : Word) (hp : s.cur.prof = .full) (ht : s.cur.trapc = true) :
    s.takeTrap c v = s.systemFault s.cur.id 0x16 s.cur.tval (c.setWidth 64) := by
  unfold State.takeTrap
  simp [hp, ht]

end Sys2Proof.Machine
end

