-- ==== Sys2Proof/Tests/Slice0.lean ====
section
/-!
SUPPORT. Tests: ill-formed terms that WellFormed refuses, words written out from the manual's encodings, results that
the manual states, and for each statement a state and operands that meet its hypotheses.
-/

namespace Sys2Proof.Tests

open Sys2Proof Sys2Proof.Machine Sys2Proof.Claims

set_option maxRecDepth 60000

/-! ### Ill-formed terms -/

/-- R25. -/
theorem test_illFormed_configBlock_overPower : wellFormed (.verifyConfigBlock true ⟨2401, []⟩) = false := by decide
/-- R389. -/
theorem test_illFormed_configBlock_berthTwice : wellFormed (.verifyConfigBlock true ⟨0, [⟨1, 1, 0, 0, 0, 0, 0, 0, []⟩, ⟨1, 2, 0, 0, 0, 0, 0, 0, []⟩]⟩) = false := by decide
/-- R25. -/
theorem test_illFormed_sensorSample_short : wellFormed (.sensorSample ⟨[], [], 0, 0, 0⟩) = false := by decide
/-- R24. -/
theorem test_illFormed_fwdoor_core18 : wellFormed (.fwdoorWrite 18) = false := by decide
/-- R130. -/
theorem test_illFormed_hostWrite_empty : wellFormed (.hostPostedWrite 0 false 0 []) = false := by decide
/-- R130. -/
theorem test_illFormed_hostRead_empty : wellFormed (.hostRead 0 0 0) = false := by decide
/-- R249. -/
theorem test_illFormed_peerAtomic_op11 : wellFormed (.peerAccess 0 0 (.atomic 11 false 0 0)) = false := by decide
/-- R190. -/
theorem test_illFormed_ttw1_core18 : wellFormed (.ttw1Write 18 0) = false := by decide
/-- R429. -/
theorem test_illFormed_streamSend_empty : wellFormed (.streamRecordSend 0 1 0 0) = false := by decide
/-- R426. -/
theorem test_illFormed_challenge_hash : wellFormed (.challenge 0 []) = false := by decide
/-- R427. -/
theorem test_illFormed_measurements_hash : wellFormed (.getMeasurements 0 true []) = false := by decide
/-- R426. -/
theorem test_illFormed_keyExchange_hash : wellFormed (.keyExchange 0 [] []) = false := by decide
/-- R169. -/
theorem test_illFormed_bra_alwaysWithCond : wellFormed (.bra 3 0 1 0) = false := by decide
/-- R170. -/
theorem test_illFormed_call_alwaysWithCc : wellFormed (.call 3 1 0 0) = false := by decide
/-- R58. -/
theorem test_illFormed_mfs_number25 : wellFormed (.mfs 1 25) = false := by decide
/-- R58. -/
theorem test_illFormed_mts_number25 : wellFormed (.mts 25 1) = false := by decide
/-- R158. -/
theorem test_illFormed_cwb_allWithSlots : wellFormed (.cwb 1 1 0) = false := by decide
/-- R203. -/
theorem test_illFormed_icmp_nv : wellFormed (.icmp 0 0 1 2 15) = false := by decide
/-- R205. -/
theorem test_illFormed_shfi_wide : wellFormed (.shfi 1 2 0 1 32) = false := by decide
/-- R208. -/
theorem test_illFormed_unpk_select4 : wellFormed (.unpkI8 1 2 4) = false := by decide
/-- R208. -/
theorem test_illFormed_unpk16_select4 : wellFormed (.unpkI16 1 2 4) = false := by decide
/-- R208. -/
theorem test_illFormed_unpk32_select4 : wellFormed (.unpkI32 1 2 4) = false := by decide
/-- R212. -/
theorem test_illFormed_frnd_mode : wellFormed (.frnd 0 1 2 0 1) = false := by decide
/-- R214. -/
theorem test_illFormed_fcmp_nv : wellFormed (.fcmp 0 0 1 2 15) = false := by decide
/-- R215. -/
theorem test_illFormed_cvt_sameType : wellFormed (.cvt 1 2 1 1 0) = false := by decide
/-- R223. -/
theorem test_illFormed_qunpk4_select4 : wellFormed (.qunpkQ4 1 2 4) = false := by decide
/-- R223. -/
theorem test_illFormed_qunpk8_select2 : wellFormed (.qunpkQ8 1 2 2) = false := by decide
/-- R224. -/
theorem test_illFormed_scaleof_width3 : wellFormed (.scaleof 1 2 3) = false := by decide
/-- R227. -/
theorem test_illFormed_rev_width4 : wellFormed (.rev 1 2 4) = false := by decide
/-- R233. -/
theorem test_illFormed_exp2_type3 : wellFormed (.exp2 3 1 2 0) = false := by decide
/-- R233. -/
theorem test_illFormed_log2_type3 : wellFormed (.log2 3 1 2 0) = false := by decide
/-- R233. -/
theorem test_illFormed_rcp_type3 : wellFormed (.rcp 3 1 2 0) = false := by decide
/-- R233. -/
theorem test_illFormed_rsq_type3 : wellFormed (.rsq 3 1 2 0) = false := by decide
/-- R233. -/
theorem test_illFormed_sqrt_type3 : wellFormed (.sqrt 3 1 2 0) = false := by decide
/-- R233. -/
theorem test_illFormed_sin_type3 : wellFormed (.sin 3 1 2 0) = false := by decide
/-- R233. -/
theorem test_illFormed_cos_type3 : wellFormed (.cos 3 1 2 0) = false := by decide
/-- R233. -/
theorem test_illFormed_tanh_type3 : wellFormed (.tanh 3 1 2 0) = false := by decide
/-- R233. -/
theorem test_illFormed_sigm_type3 : wellFormed (.sigm 3 1 2 0) = false := by decide
/-- R233. -/
theorem test_illFormed_gelu_type3 : wellFormed (.gelu 3 1 2 0) = false := by decide
/-- R233. -/
theorem test_illFormed_silu_type3 : wellFormed (.silu 3 1 2 0) = false := by decide
/-- R233. -/
theorem test_illFormed_erf_type3 : wellFormed (.erf 3 1 2 0) = false := by decide
/-- R275. -/
theorem test_illFormed_ladc_b4 : wellFormed (.ladc 1 2 4) = false := by decide
/-- R275. -/
theorem test_illFormed_lsbc_b4 : wellFormed (.lsbc 1 2 4) = false := by decide
/-- R281. -/
theorem test_illFormed_ltof32_b3 : wellFormed (.ltof32 1 2 3) = false := by decide
/-- R281. -/
theorem test_illFormed_ltof64_b3 : wellFormed (.ltof64 1 2 3) = false := by decide
/-- R282. -/
theorem test_illFormed_ltoxa_b2 : wellFormed (.ltoxa 1 2 2) = false := by decide
/-- R341. -/
theorem test_illFormed_mxwait_none : wellFormed (.mxwait 1 0) = false := by decide
/-- R69. -/
theorem test_illFormed_encodingFault_row : wellFormed (.encodingFault 0x22041030) = false := by decide
/-- R72. -/
theorem test_illFormed_extEmulate_row : wellFormed (.extEmulate 0x22041030) = false := by decide

/-! ### Words written out from the encodings (R51, R69): major, then the fields from the top down -/

/-- R177. -/
theorem test_decode_sys : decodeTableWord 32 0b0000000_0000000_0000000_0000000_0001 = some (.yield) := by decide
/-- R169. -/
theorem test_decode_bra : decodeTableWord 32 0b0000001_01_10_0101_00000000000000011 = some (.bra 1 2 5 3) := by decide
/-- R171. -/
theorem test_decode_jr : decodeTableWord 32 0b0000011_1101000_0000101_0000000_0001 = some (.callr 104 5) := by decide
/-- R172. -/
theorem test_decode_mask : decodeTableWord 32 0b0000100_1100001_0000010_0000111_0000 = some (.maskc 97 2 7) := by decide
/-- R174. -/
theorem test_decode_spr : decodeTableWord 32 0b0000101_0000110_1100010_0000000_0001 = some (.mts 6 98) := by decide
/-- R198. -/
theorem test_decode_ialu : decodeTableWord 32 0b0010001_0000001_0000010_0000011_0000 = some (.add 1 1 2 3) := by decide
/-- R201. -/
theorem test_decode_imul : decodeTableWord 32 0b0010100_0000001_0000010_0000011_1101 = some (.idivI32 1 2 3) := by decide
/-- R204. -/
theorem test_decode_addi : decodeTableWord 32 0b0010111_1100001_1100001_11111111111 = some (.addi 97 97 0x7FF) := by decide
/-- R205. -/
theorem test_decode_shfi : decodeTableWord 32 0b0011001_0000001_0000010_10_0_01_000011 = some (.shfi 1 2 2 1 3) := by decide
/-- R206. -/
theorem test_decode_bits : decodeTableWord 32 0b0011101_0000001_0000010_0000011_0101 = some (.bfe 1 2 3) := by decide
/-- R207. -/
theorem test_decode_lea : decodeTableWord 32 0b0011110_0000001_0000010_0000011_0000 = some (.lea 1 2 3) := by decide
/-- R209. -/
theorem test_decode_falu : decodeTableWord 32 0b0100001_0001000_0001001_0001010_0011 = some (.fma 1 8 9 10) := by decide
/-- R218. -/
theorem test_decode_dot : decodeTableWord 32 0b0100110_0000001_0000010_0000011_0101 = some (.dot8I8 1 2 3) := by decide
/-- R220. -/
theorem test_decode_resid : decodeTableWord 32 0b0100111_0000001_0000010_0000011_0000 = some (.rxadd 1 2 3) := by decide
/-- R227. -/
theorem test_decode_shfl : decodeTableWord 32 0b0101010_0000001_0000010_0000011_0000 = some (.shfl 1 2 3) := by decide
/-- R229. -/
theorem test_decode_gang : decodeTableWord 32 0b0101011_1100100_0001001_0000000_0100 = some (.redaddF32 100 9) := by decide
/-- R233. -/
theorem test_decode_sfu : decodeTableWord 32 0b0101110_0000011_0000100_0000000_0010 = some (.exp2 2 3 4 2) := by decide
/-- R245. -/
theorem test_decode_load : decodeTableWord 32 0b0110011_0001010_0000010_0000000_0010 = some (.ldg 3 10 2 0 2) := by decide
/-- R245. -/
theorem test_decode_store : decodeTableWord 32 0b0111000_0000001_0000010_1111111_0000 = some (.stgI64 1 2 127) := by decide
/-- R249. -/
theorem test_decode_atom : decodeTableWord 32 0b0111100_0000001_0000010_0000011_0000 = some (.atomAdd 0 1 2 3) := by decide
/-- R251. -/
theorem test_decode_memop : decodeTableWord 32 0b0111111_0000000_1100010_1100011_0001 = some (.discard 98 99) := by decide
/-- R276. -/
theorem test_decode_long : decodeTableWord 32 0b1000001_0000001_0000001_0000010_0000 = some (.ladd 1 1 2) := by decide
/-- R301. -/
theorem test_decode_cpy : decodeTableWord 32 0b1000100_1100001_1100010_1100011_0000 = some (.cpy 97 98 99) := by decide
/-- R324. -/
theorem test_decode_tfetch : decodeTableWord 32 0b1001010_1101000_1100111_0000000_0000 = some (.tfetch 104 103) := by decide
/-- R290. -/
theorem test_decode_lath : decodeTableWord 32 0b1001100_0000001_0000000_1100010_0000 = some (.barb 1 98) := by decide
/-- R60. -/
theorem test_decode_guard : decodeTableWord 32 0b1111111_000_10_0101_011_0000000000000 = some (.guard 2 5 3) := by decide
/-- R62. -/
theorem test_decode_rep : decodeTableWord 32 0b1111111_010_000100_0001_0001_0001_0000 = some (.rep 4 1 1 1) := by decide
/-- R414. -/
theorem test_decode_seal : decodeTableWord 32 0b1001110_0000000_1100001_1100010_0000 = some (.keyset 97 98) := by decide
/-- R190. -/
theorem test_decode_mfsys : decodeTableWord 32 0b1001111_1100001_1100010_0000000_0000 = some (.mfsys 97 98) := by decide

/-! ### Results that the manual states -/

/-- A gang of withFetchWord at its first unit, s2 = 7 and s3 = 5 (R37). -/
def gang : State :=
  let s := State.reset.withFetchWord 32 0x22041030
  { s with cur := (s.cur.setScalar 2 7 false).setScalar 3 5 false }

/-- A tile sequencer, a launch engine and the harbourmaster, each with the turn. -/
def tileAgent : State := State.reset.withFetchWord 32 0x90000000
def launchAgent : State := State.reset.withFetchWord 32 0x9A000000
def firmwareAgent : State := State.reset.withFetchWord 32 0x9C000000

/-- The gang with the first page in its TLBs. -/
def mapped : State := match walkPage gang 0 .none 0 0 0 with
  | .ok p => gang.cur.tlbLevels.foldl (fun s l => s.fillTlb l 0 .none 0 p) gang
  | .error _ => gang

/-- A property of the state after an instruction. -/
def after (i : Instr) (s : State) (p : State → Bool) : Bool := match exec i s with
  | .next t => p t
  | _ => false

/-- 7 + 5 in s1 (R198). -/
theorem test_add : after (.add 0 97 98 99) gang (fun t => t.cur.scalar 1 == 12) = true := by decide
/-- ABSD of −128 and 127 in i8 is 0xFF (R198). -/
theorem test_absd : after (.absd 3 97 98 99)
    { gang with cur := (gang.cur.setScalar 2 0x80 false).setScalar 3 0x7F false } (fun t => t.cur.scalar 1 == 0xFF) = true := by decide
/-- A shift by the width gives 0, and a rotation by it the operand (R199). -/
theorem test_shl_width : after (.shl 0 97 98 99)
    { gang with cur := gang.cur.setScalar 3 64 false } (fun t => t.cur.scalar 1 == 0) = true := by decide
theorem test_rol_width : after (.rol 0 97 98 99)
    { gang with cur := gang.cur.setScalar 3 64 false } (fun t => t.cur.scalar 1 == 7) = true := by decide
/-- A zero divisor traps with 0x19 and writes nothing; without TRAPVEC the pilot hears 0x15 (R180, R202). -/
theorem test_div_zero : after (.divI64 97 98 96) gang
    (fun t => t.cur.scalar 1 == 0 && t.cur.run == .parked .service 0 && t.records.any fun r => r.kind == 5 && r.cause == 0x15) = true := by decide
/-- IDIV of −2^31 by −1 gives −2^31 (R202). -/
theorem test_idiv_min : after (.idivI32 97 98 99)
    { gang with cur := (gang.cur.setScalar 2 0x180000000 false).setScalar 3 0x1FFFFFFFF false }
    (fun t => t.cur.scalar 1 == 0x180000000) = true := by decide
/-- 1.0 + 1.0 is 2.0 in f64 (R209). -/
theorem test_fadd : after (.fadd 0 97 98 99)
    { gang with cur := (gang.cur.setScalar 2 0x3FF0000000000000 false).setScalar 3 0x3FF0000000000000 false }
    (fun t => t.cur.scalar 1 == 0x4000000000000000) = true := by decide
/-- A branch forward by three words (R51, R169). -/
theorem test_bra : after (.bra 3 0 0 3) gang (fun t => t.cur.pc == gang.cur.pc + 12) = true := by decide
/-- LEA of 7 and 5 is 47 (R207). -/
theorem test_lea : after (.lea 97 98 99) gang (fun t => t.cur.scalar 1 == 47) = true := by decide
/-- EXIT moves the executing lanes from EM to XM (R42). -/
theorem test_exit : after .exit gang (fun t => t.cur.em == 0 && t.cur.xm == 0xFFFFFFFF) = true := by decide
/-- The step runs the word placed: ADD.i32 v1, v2, v3 ends at the next word (R52). -/
theorem test_step : (match step (State.reset.withFetchWord 32 0x22041030) with
    | .next t => t.cur.pc == 0x1004
    | _ => false) = true := by decide

/-! ### Witnesses: states and operands that meet the hypotheses of the statements -/

/-- The instruction's unit issues in s, and its table gives it an effect, a cause, a trap or a wait there. -/
def meets {α : Type} (i : Instr) (e : Option (U → State → Option α)) (s : State) : Bool := match encode i, e with
  | some w, some e => (unitFault s.cur w false).isNone && match issue w s with
    | .ok (u, s1) => (e u s1).isSome
    | .error _ => false
  | _, _ => false

/-- The hypotheses of Completes, Traps, TrapsFree and Holds hold of i in s. -/
theorem meets_witness {α : Type} (i : Instr) (table : Instr → Option (U → State → Option α)) (s : State)
    (h : meets i (table i) s = true) : ∃ e u s1 x, table i = some e ∧ Issues i s u s1 ∧ e u s1 = some x := by
  unfold meets at h
  cases he : encode i with
  | none => simp [he] at h
  | some w =>
    cases ht : table i with
    | none => simp [he, ht] at h
    | some e =>
      simp only [he, ht, Bool.and_eq_true, Option.isNone_iff_eq_none] at h
      obtain ⟨hf, hi⟩ := h
      cases hs : issue w s with
      | error x => simp [hs] at hi
      | ok r =>
        obtain ⟨u, s1⟩ := r
        simp only [hs] at hi
        obtain ⟨x, hx⟩ := Option.isSome_iff_exists.mp hi
        exact ⟨e, u, s1, x, rfl, ⟨w, he, hf, hs⟩, hx⟩

/-- The unit of i issues in s. -/
theorem issues_witness (i : Instr) (s : State) (p : U → State → Bool)
    (h : (match encode i with
      | some w => (unitFault s.cur w false).isNone && match issue w s with
        | .ok (u, s1) => p u s1
        | .error _ => false
      | none => false) = true) :
    ∃ u s1, Issues i s u s1 ∧ p u s1 = true := by
  cases he : encode i with
  | none => simp [he] at h
  | some w =>
    simp only [he, Bool.and_eq_true, Option.isNone_iff_eq_none] at h
    obtain ⟨hf, hi⟩ := h
    cases hs : issue w s with
    | error x => simp [hs] at hi
    | ok r => exact ⟨r.1, r.2, ⟨w, he, hf, hs⟩, by simpa [hs] using hi⟩

/-- Hypotheses of DecodeEncode, EncodeDecode, UndecodedTraps and PrefixesJoin. -/
theorem witness_DecodeEncode : wellFormed (.add 1 1 2 3) = true ∧ encode (.add 1 1 2 3) = some 0x22041030 := by decide
theorem witness_EncodeDecode : decode 0x22041030 = .ok (.add 1 1 2 3) := rfl
theorem witness_UndecodedTraps : decode 0x1A000000 = .error .opcode ∧ majorOf 0x1A000000 ≠ 0x7F := ⟨rfl, by decide⟩
theorem witness_UndecodedTraps_prefix : majorOf 0xFFFFFFFF = 0x7F ∧ 5 ≤ ptype 0xFFFFFFFF ∧ gang.cur.pfx.length < 6 ∧
    encode .halt = some 7 ∧ majorOf 7 ≠ 0x7F ∧ [(0xFFFFFFFF : IWord)].find? (5 ≤ ptype ·) = some 0xFFFFFFFF := by decide
theorem witness_PrefixesJoin : encode (.flags 1 0) = some 0xFED00000 ∧ prefixForm (.flags 1 0) = true ∧ gang.cur.pfx.length < 6 := by decide
theorem witness_PrefixesJoin_seventh : 6 ≤ (List.replicate 6 (0xFED00000 : IWord)).length := by decide

/-- Hypotheses of StepRunsWord. -/
theorem witness_StepRunsWord : gang.tripped = false ∧ gang.agenda = [] ∧ 0 < gang.quota ∧ gang.canRun gang.cur = true ∧
    (atTurn gang).cur.tooLong = false ∧ (∃ s1, (atTurn gang).fetch = (.word 0x22041030, s1)) ∧
    decode 0x22041030 = .ok (.add 1 1 2 3) := by
  refine ⟨by decide, by decide, by decide, by decide, by decide, ⟨(atTurn gang).fetch.2, ?_⟩, rfl⟩
  exact Prod.ext (by decide : (atTurn gang).fetch.1 = .word 0x22041030) rfl

/-- Hypotheses of StepKeepsMemory and OnlyTripStops. -/
theorem witness_StepKeepsMemory : gang.Canonical ∧ ∃ t, step gang = .next t := by
  refine ⟨by unfold State.Canonical; decide, ?_⟩
  have h : (match step gang with
    | .next _ => true
    | _ => false) = true := by decide
  cases hs : step gang with
  | next t => exact ⟨t, rfl⟩
  | fault f => simp [hs] at h
  | refused r => simp [hs] at h
theorem witness_OnlyTripStops : ({ gang with tripped := true } : State).tripped = true ∧ gang.tripped = false := by decide

/-- Hypotheses of GangKeepsFirmwareState, IntegerFrame and IssueReads: a gang's ADD. -/
theorem witness_GangKeepsFirmwareState : (∃ w, encode (.add 0 97 98 99) = some w) ∧
    gang.cur.prof = .full ∧ after (.add 0 97 98 99) gang (fun _ => true) = true :=
  ⟨⟨_, rfl⟩, by decide, by decide⟩
theorem witness_IntegerFrame : computes (.add 0 97 98 99) = true ∧ after (.add 0 97 98 99) gang (fun _ => true) = true ∧
    (∃ u s1, Issues (.add 0 97 98 99) gang u s1 ∧ (u.flags == none) = true) ∧ gang.cur.looks = [] :=
  ⟨by decide, by decide, issues_witness _ _ (fun u _ => u.flags == none) (by decide), by decide⟩
theorem witness_IssueReads : ∃ u s1, Issues (.add 0 97 98 99) gang u s1 ∧
    (u.form.a.isRead && u.form.b.isRead && (prefixOf gang.cur.pfx 2).isNone) = true :=
  issues_witness _ _ (fun u _ => u.form.a.isRead && u.form.b.isRead && (prefixOf gang.cur.pfx 2).isNone) (by decide)
theorem witness_IssueReads_d : ∃ u s1, Issues (.madI64 97 98 99) gang u s1 ∧ u.form.d.isRead = true :=
  issues_witness _ _ (fun u _ => u.form.d.isRead) (by decide)

/-- Hypotheses of EncodingFaultFirst and FaultOrder: HALT on a gang raises 0x04. -/
theorem witness_EncodingFaultFirst : encode .halt = some 7 ∧ majorOf 7 = 0 ∧ unitFault gang.cur 7 false = some (0x04, 7) ∧
    faultRank 0x04 = 3 := by decide
theorem witness_FaultOrder_banks : (unitFault gang.cur 0x21841030 false).map (·.1) = some 0x0B ∧ faultRank 0x0B = 7 := by decide
theorem witness_FaultOrder_specials : (unitFault gang.cur 0x0B90C800 false).map (·.1) = some 0x0C ∧ faultRank 0x0C = 8 := by decide
theorem witness_FaultOrder_last : unitFault { gang.cur with pfx := [0xFE841000] } 0x217C1030 false = some (0x09, 0xFE841000) ∧
    faultRank 0x09 = 9 := by decide

/-- Hypotheses of UnitEnds: an iteration of REP that is not the last, a unit that ends, and a guard span. -/
theorem witness_UnitEnds : ∃ u s1, Issues (.add 0 97 98 99) gang u s1 ∧ (u.iter == 0 && u.count == 1 && s1.cur.looks.isEmpty && !s1.cur.step) = true :=
  issues_witness _ _ (fun u s1 => u.iter == 0 && u.count == 1 && s1.cur.looks.isEmpty && !s1.cur.step) (by decide)
theorem witness_UnitEnds_rep : ∃ u s1, Issues (.add 0 97 98 99) { gang with cur := { gang.cur with pfx := [0xFE840000] } } u s1 ∧
    decide (u.iter + 1 < u.count) = true :=
  issues_witness _ _ (fun u _ => decide (u.iter + 1 < u.count)) (by decide)
theorem witness_UnitEnds_guard : (⟨true, 14, 0, 2⟩ : Guard).live = true ∧ 1 < (⟨true, 14, 0, 2⟩ : Guard).rem ∧
    (⟨true, 14, 0, 1⟩ : Guard).rem ≤ 1 := by decide

/-- Hypotheses of TrapOfGang: a handler, EMUENT, a double trap, and no handler. -/
theorem witness_TrapOfGang : gang.cur.prof = .full ∧ gang.cur.trapc = false ∧ (0x19 : BitVec 8) ≠ 3 ∧
    ({ gang with cur := { gang.cur with trapvec := 0x2000 } } : State).cur.trapvec ≠ 0 ∧
    ({ gang with cur := { gang.cur with trapc := true } } : State).cur.trapc = true ∧ gang.cur.trapvec = 0 := by decide
theorem witness_TrapOfGang_emulated :
    ((({ gang with grids := gang.grids.map fun g => { g with emuent := 0x3000 } } : State).gridOf gang.cur.grid).any
      fun g => g.emuent != 0) = true := by decide

theorem witness_TrapOfGang_notEmulated : ((gang.gridOf gang.cur.grid).any fun g => g.emuent == 0) = true := by decide

/-- Hypotheses of TrapOfFirmware and TrapOfSequencerAndPrologue: one agent of each kind. -/
theorem witness_TrapOfFirmware : firmwareAgent.cur.prof = .firmware ∧ firmwareAgent.cur.trapMode = false ∧ firmwareAgent.cur.id = 16 ∧
    (Agent.init 3 .firmware).id < 16 ∧ (Agent.init 17 .firmware).id = 17 ∧ (firmwareAgent.agent 17).isSome = true := by decide
theorem witness_TrapOfSequencerAndPrologue : tileAgent.cur.prof = .tile ∧ launchAgent.cur.prof = .launch := by decide

/-- Hypotheses of EretReturns: a gang in a trap continuation, with an EPC that is aligned and one that is not. -/
theorem witness_EretReturns :
    let s : State := { gang with cur := { gang.cur with trapc := true, epc := 0x2000 } }
    encode .eret = some 5 ∧ unitFault s.cur 5 false = none ∧ splitAt s.cur 0 = 0 ∧
      splitAt { s.cur with ls := 0x83, em := 1 } 0 ≠ 0 ∧ s.cur.epc.extractLsb' 0 2 = 0 ∧ s.cur.looks = [] ∧ s.cur.step = false ∧
      (0x2002 : Word).extractLsb' 0 2 ≠ 0 := by decide

/-- Hypotheses of StoreAtHome: a store on its way, and the bytes at the edges of its unit. -/
def onItsWay : Pending :=
  { agent := 0, core := 0, va := 0, pa := 0x40, be := 0xFF, val := 0x1122334455667788, poison := false, key := 0, t := 0
    registered := true, berth := 0, cls := 1, grid := 0, ord := 0, op := .store }
theorem witness_StoreAtHome : let s : State := { gang with pend := [onItsWay] }
    s.mem.wf = true ∧ s.pend[0]? = some onItsWay ∧ isHost onItsWay.pa = false ∧
      s.inOrder onItsWay.core (onItsWay.homes.map fun h => (h, onItsWay.ack)) = true ∧
      after (.registrationAck 0) s (fun t => t.mem.byte 0x40 == 0x88 && t.mem.byte 0x47 == 0x11 && t.mem.byte 0x48 == 0) = true := by decide
/-- A store to host memory is in memory once the port has accepted it. -/
theorem witness_StoreAtHome_host : let p : Pending := { onItsWay with pa := 2 ^ 47, registered := false }
    let s : State := { gang with pend := [p] }
    isHost p.pa = true ∧ canRegister s 0 p = true ∧ s.cutOff p.pa = false ∧
      after (.storeRegistration 0 false) s (fun t => t.mem.byte (2 ^ 47) == 0x88 && t.pend.length == 1) = true := by decide
theorem witness_StoreAtHome_acknowledged : let p : Pending := { onItsWay with pa := 2 ^ 47 }
    let s : State := { gang with pend := [p] }
    s.inOrder p.core (p.homes.map fun h => (h, p.ack)) = true ∧ (∀ q ∈ s.pend, q.performed = true → p.ack ≤ q.ack) ∧
      after (.registrationAck 0) s (fun t => t.pend.isEmpty && t.mem.byte (2 ^ 47) == 0) = true := by decide
theorem witness_ReadsKeepMemory : after (.homeRead gang.cur.id 0 0 0) gang (fun _ => true) = true := by decide
theorem witness_ReadAfterWrite : Mem.empty.wf = true ∧ (Mem.empty.write 5 2 0x1234).read 5 2 = 0x1234 := by decide

/-- Hypotheses of QueuePush, SlotWritten and ConditionWritten. -/
theorem witness_QueuePush : ((gang.teamOf gang.cur.team).any fun x => x.scratch.wf) = true ∧ 63 < 64 := by decide
theorem witness_SlotWritten : gang.cur.isWritten 0 = false ∧ (1023 : Nat) < 1024 := by decide
theorem witness_ConditionWritten : (3 : Nat) < 4 ∧ (31 : Nat) < 32 := by decide

/-- Hypotheses of Shifts, Division and LeaAddress: the units issue and their results can be written. -/
theorem witness_Shifts : ∃ u s1, Issues (.sar 1 97 98 99) gang u s1 ∧ (wrote u (lanesOf fun _ => 0) 0 s1).isSome = true :=
  issues_witness _ _ (fun u s1 => (wrote u (lanesOf fun _ => 0) 0 s1).isSome) (by decide)
theorem witness_Shifts_form : (shiftForm (.sar 1 97 98 99)).isSome = true ∧ (shiftForm (.rol 1 97 98 99)).isSome = true := by decide
theorem witness_Division : ∃ u s1, Issues (.idivI32 97 98 99) { gang with cur := gang.cur.setScalar 3 0x100000001 false } u s1 ∧
    (decide (zeroDivisors 32 u = 0) && (wrote u (lanesOf fun _ => 0) 0 s1).isSome) = true :=
  issues_witness _ _ (fun u s1 => decide (zeroDivisors 32 u = 0) && (wrote u (lanesOf fun _ => 0) 0 s1).isSome) (by decide)
theorem witness_Division_zero : ∃ u s1, Issues (.idivI32 97 98 99) gang u s1 ∧
    (has u.act 0 && decide (el 32 (lane u.vb 0) 1 = 0)) = true :=
  issues_witness _ _ (fun u _ => has u.act 0 && decide (el 32 (lane u.vb 0) 1 = 0)) (by decide)
theorem witness_Division_form : (divOp (.idivI32 97 98 99)).isSome = true ∧ signedDivision (.idivI32 97 98 99) = true ∧
    remainder (.iremI32 97 98 99) = true := by decide
theorem witness_LeaAddress : ∃ u s1, Issues (.lea 97 98 99) gang u s1 ∧ (wrote u (lanesOf fun _ => 0) 0 s1).isSome = true :=
  issues_witness _ _ (fun u s1 => (wrote u (lanesOf fun _ => 0) 0 s1).isSome) (by decide)
theorem witness_LeaAddress_reserved : majorOf 0x3C000001 = 0x1E ∧ fieldF 0x3C000001 ≠ 0 := by decide
theorem witness_PrefetchCompletes : ∃ u s1, Issues (.pref 0 98 99) mapped u s1 ∧ decide (prefMissing u s1 = []) = true :=
  issues_witness _ _ (fun u s1 => decide (prefMissing u s1 = [])) (by decide)
theorem witness_PrefetchCompletes_waits : ∃ u s1, Issues (.pref 0 98 99) gang u s1 ∧
    (u.act != 0 && u.pa == 0 && u.pb == 0 && prefMissing u s1 != []) = true :=
  issues_witness _ _ (fun u s1 => u.act != 0 && u.pa == 0 && u.pb == 0 && prefMissing u s1 != []) (by decide)

/-- Hypotheses of Aging: a record that has waited 200 µs below its ceiling, one at level 16, and one too young. -/
def waiting (lvl : BitVec 8) (since : Nat) : Record :=
  { id := 9, kind := 0, lvl := lvl, join := 0, stg := 0, frame := 0, code := 0, wake := 0, berth := 0, grid := gang.cur.grid
    team := 0, agent := 0, queued := true, seq := 0, since := since, due := none, index := 0, gen := 0, joins := 0, tile := 0
    live := true, cause := 0, sub := 0 }
theorem witness_Aging : let s : State := { gang with records := [waiting 14 0], clk := 140000 }
    s.recordOf 9 = some (waiting 14 0) ∧ (waiting 14 0).lvl < 16 ∧ (waiting 14 0).lvl < ceiling s (waiting 14 0) ∧
      (waiting 14 0).since + 140000 ≤ s.clk ∧ (s.berth 0).state = 1 ∧
      s.watches = [] ∧ after (.aging 9) s (fun t => (t.recordOf 9).any fun r => r.lvl == 15 && r.since == 140000) = true := by decide
theorem witness_Aging_not : let s : State := { gang with records := [waiting 16 0], clk := 139999 }
    16 ≤ (waiting 16 0).lvl ∧ s.clk < (waiting 14 0).since + 140000 ∧ ceiling s (waiting 15 0) ≤ (waiting 15 0).lvl := by decide

/-- Hypotheses of the statements about traps. -/
def trapping : State := { gang with cur := { gang.cur with fpc := 0x1F0000 } }
theorem witness_TrapInstructions : meets (.trap 5) (trapTable (.trap 5)) gang = true := by decide
theorem witness_LaneTraps_div : meets (.divI64 97 98 96) (divTraps (.divI64 97 98 96)) gang = true := by decide
theorem witness_LaneTraps_field : meets (.bfe 97 98 99) (fieldTraps (.bfe 97 98 99))
    { gang with cur := gang.cur.setScalar 3 0x7F00 false } = true := by decide
theorem witness_LaneTraps_fp : meets (.fdiv 0 97 96 96) (fpTraps (.fdiv 0 97 96 96)) trapping = true := by decide
/-- LOG2 of zero waits at its unit, and the port of its cluster has answered. -/
def nextOf (i : Instr) (s : State) : State := match exec i s with
  | .next t => t
  | _ => s
noncomputable def checked : State := nextOf (.sfuAccept 0 false false) (nextOf (.log2 2 1 2 0) trapping)
theorem witness_LaneTraps_later : meets (.log2 2 1 2 0) (laterTraps (.log2 2 1 2 0)) checked = true := by decide
theorem witness_OtherTraps_branch : meets (.jmpr 98) (branchTraps (.jmpr 98)) gang = true := by decide
theorem witness_OtherTraps_mask : meets (.masks 98) (maskTraps (.masks 98))
    { gang with cur := { gang.cur with ls := 0x83 } } = true := by decide
theorem witness_OtherTraps_cause : meets .barT (causeTable .barT) { gang with cur := { gang.cur with em := 1 } } = true := by decide
theorem witness_OtherTraps_operand : meets (.wbase 0x7FF) (operandTraps (.wbase 0x7FF)) gang = true := by decide
theorem witness_OtherTraps_strip : meets (.strip 97 98 99) (operandTraps (.strip 97 98 99))
    { firmwareAgent with cur := { firmwareAgent.cur with id := 3 } } = true := by decide
theorem witness_OtherTraps_memory : meets (.atomAdd 1 1 98 3) (memoryTraps (.atomAdd 1 1 98 3)) mapped = true := by decide
theorem witness_OtherTraps_atom : (atomOp (.atomAdd 1 97 98 3)).isSome = true ∧ encode (.atomAdd 1 97 98 3) = some 0x7B871030 ∧
    gang.cur.prof = .full ∧ gang.cur.pfx = [] ∧ 96 ≤ fieldD 0x7B871030 ∧ fieldD 0x7B871030 < 120 ∧ fieldB 0x7B871030 < 96 ∧
    1 < (lanesIn (activeSet gang.cur (majorOf 0x7B871030))).length := by decide
theorem witness_LaneTraps_poison : let s : State := { gang with cur := { gang.cur with spois := 4 } }
    (packedTable (.add 0 97 98 99)).isSome = true ∧ unitFault s.cur 0x21871630 false = none ∧
      encode (.add 0 97 98 99) = some 0x21871630 ∧ s.cur.pfx = [] ∧ fieldD 0x21871630 < 120 ∧ fieldA 0x21871630 < 120 ∧
      fieldB 0x21871630 < 120 ∧ splitAt s.cur (majorOf 0x21871630) = 0 ∧
      activeSet s.cur (majorOf 0x21871630) &&& (readReg s.cur (fieldA 0x21871630)).2 ≠ 0 := by decide
theorem witness_LaneTraps_poison_ready : Ready [97, 98, 99] gang gang := rfl
/-- MOV from port 0 and to it: not bound, bound for pops, and bound for pushes. -/
theorem witness_LaneTraps_port : encode (.mov 0 97 120) = some 0x2187C00F ∧ encode (.mov 0 120 97) = some 0x21E3080F ∧
    unitFault gang.cur 0x2187C00F false = none ∧ unitFault gang.cur 0x21E3080F false = none ∧ splitAt gang.cur 0x10 = 0 ∧
    activeSet gang.cur 0x10 ≠ 0 ∧ (gang.cur.kbyte 0).getLsbD 7 = false ∧
    let a : Agent := { gang.cur with kbind := 0x80C0 }
    (a.kbyte 1).getLsbD 7 = true ∧ (a.kbyte 1).getLsbD 6 = false ∧ (a.kbyte 0).getLsbD 6 = true ∧
      (gang.portTeam a (a.kcore.extractLsb' 0 2).toNat).isSome = true := by decide
theorem witness_OtherTraps_firmware : meets (.mfsys 97 98) (firmwareTraps (.mfsys 97 98))
    { firmwareAgent with cur := firmwareAgent.cur.setScalar 2 0xFFFFFFFF false } = true := by decide

/-- Hypotheses of Holds, BarrierEnds and Killed: PREF of a page without a translation, and a team whose only gang has
arrived, or has not. -/
theorem witness_FirmwareForms_holds : meets (.pref 0 98 99) (holdTable (.pref 0 98 99)) gang = true ∧ gang.cur.run = .active ∧
    (gang.agent gang.cur.id).isSome = true := by decide
theorem witness_BarrierEnds : ((gang.teamOf gang.cur.team).any fun x => !x.arrived.any gang.overdue
    && gang.teamOf (gang.barHome x false).id == some (gang.barHome x false) && (gang.arrivedAt x false).isEmpty) = true ∧
    let s := gang.modTeam gang.cur.team fun y => { y with arrived := [gang.cur.id] }
    ((s.teamOf gang.cur.team).any fun x => !(s.arrivedAt x false).isEmpty
      && decide (((s.barTeams x false).map fun y => (s.countedGangs y).length).sum ≤ (s.arrivedAt x false).length)) = true := by decide

/-- Each table of events has an event. -/
theorem witness_Events : (bootTable .powerGood).isSome ∧ (keeperTable .heartbeatTimeout).isSome ∧ (hostTable (.linkDown 0)).isSome ∧
    (berthTable (.quiesce 0)).isSome ∧ (sealTable (.mskeyWrite 0 0)).isSome ∧ (spdmTable (.getVersion 0)).isSome ∧
    (tdispTable (.stopInterfaceRequest 0)).isSome ∧ (homeTable (.registrationAck 0)).isSome ∧ (lineTable (.bankGate 0 0)).isSome ∧
    (walkTable (.walkerGrant 0)).isSome ∧ (slotTable (.aging 0)).isSome ∧ (endTable (.gangRetire 0)).isSome ∧
    (packetTable (.heapStart 0)).isSome ∧ (engineTable (.mmaStart 0 0)).isSome := by decide

/-! ### The completion statements: for each table an instruction whose unit issues and completes -/

/-- The gang bound in groups of eight lanes. -/
def bound : State := { gang with cur := { gang.cur with ls := 0x83 } }

theorem witness_PackedIntegers_add : meets (.add 1 1 2 3) (packedTable (.add 1 1 2 3)) gang = true := by decide
theorem witness_LaneForms_divI64 : meets (.divI64 97 98 99) (divTable (.divI64 97 98 99)) gang = true := by decide
theorem witness_LaneForms_lea : meets (.lea 1 98 99) (laneTable (.lea 1 98 99)) gang = true := by decide
theorem witness_LaneForms_bfe : meets (.bfe 1 98 2) (fieldTable (.bfe 1 98 2)) gang = true := by decide
theorem witness_CopiesAndMasks_mov : meets (.mov 0 1 98) (copyTable (.mov 0 1 98)) gang = true := by decide
theorem witness_CopiesAndMasks_icmp : meets (.icmp 1 1 98 99 11) (ccTable (.icmp 1 1 98 99 11)) gang = true := by decide
theorem witness_CopiesAndMasks_maskn : meets (.maskn 97 98) (maskTable (.maskn 97 98)) gang = true := by decide
theorem witness_FloatingPoint_fadd : meets (.fadd 1 1 2 3) (fpTable (.fadd 1 1 2 3)) gang = true := by decide
theorem witness_DotsAndResidues_dot8I8 : meets (.dot8I8 1 2 3) (dotTable (.dot8I8 1 2 3)) gang = true := by decide
theorem witness_DotsAndResidues_rxadd : meets (.rxadd 1 2 3) (residueTable (.rxadd 1 2 3)) gang = true := by decide
theorem witness_AcrossLanes_shfl : meets (.shfl 1 2 99) (shuffleTable (.shfl 1 2 99)) gang = true := by decide
theorem witness_AcrossLanes_redaddI64 : meets (.redaddI64 97 2) (foldTable (.redaddI64 97 2)) gang = true := by decide
theorem witness_LaterAndChain_exp2 : meets (.exp2 0 1 2 2) (laterTable (.exp2 0 1 2 2)) gang = true := by decide
theorem witness_LaterAndChain_bind : meets (.bind 8) (chainTable (.bind 8)) gang = true := by decide
theorem witness_LaterAndChain_ladd : meets (.ladd 1 2 3) (chainTable (.ladd 1 2 3)) bound = true := by decide
theorem witness_SystemForms_nop : meets (.nop) (systemTable (.nop)) gang = true := by decide
theorem witness_SystemForms_mfs : meets (.mfs 97 13) (specialTable (.mfs 97 13)) gang = true := by decide
theorem witness_Branches_bra : meets (.bra 3 0 0 5) (branchTable (.bra 3 0 0 5)) gang = true := by decide
theorem witness_WindowsBarriersPorts_wbase : meets (.wbase 0) (windowTable (.wbase 0)) gang = true := by decide
theorem witness_WindowsBarriersPorts_barT : meets (.barT) (barrierTable (.barT)) gang = true := by decide
theorem witness_WindowsBarriersPorts_qbind : meets (.qbind 120 98) (portTable (.qbind 120 98)) gang = true := by decide
theorem witness_WorkForms_staged : meets (.staged) (workTable (.staged)) gang = true := by decide
theorem witness_Loads_ldg : meets (.ldg 3 1 2 0 2) (loadTable (.ldg 3 1 2 0 2)) mapped = true := by decide
theorem witness_StoresAndRanges_stgI64 : meets (.stgI64 1 2 0) (storeTable (.stgI64 1 2 0)) mapped = true := by decide
theorem witness_StoresAndRanges_zero : meets (.zero 98 99) (rangeTable (.zero 98 99)) mapped = true := by decide
theorem witness_AtomicsAndFences_atomAdd : meets (.atomAdd 1 1 2 3) (atomTable (.atomAdd 1 1 2 3)) mapped = true := by decide
theorem witness_AtomicsAndFences_fenceAcq : meets (.fenceAcq) (fenceTable (.fenceAcq)) gang = true := by decide
theorem witness_CopyForms_hqry : meets (.hqry 97 98) (copyOpTable (.hqry 97 98)) gang = true := by decide
theorem witness_CopyForms_cbatch : meets (.cbatch 97) (copyOpTable (.cbatch 97)) gang = true := by decide
theorem witness_MatrixForms_mxzero : meets (.mxzero 0) (matrixTable (.mxzero 0)) tileAgent = true := by decide
theorem witness_MatrixForms_mxcfg : meets (.mxcfg 98) (matrixTable (.mxcfg 98)) tileAgent = true := by decide
theorem witness_LathAndPrologue_barb : meets (.barb 0 98) (lathTable (.barb 0 98)) gang = true := by decide
theorem witness_LathAndPrologue_pcancel : meets (.pcancel 98) (prologueTable (.pcancel 98)) launchAgent = true := by decide
theorem witness_FirmwareForms_mfsys : meets (.mfsys 97 98) (firmwareTable (.mfsys 97 98)) firmwareAgent = true := by decide
theorem witness_FirmwareForms_keyset : meets (.keyset 97 98) (firmwareTable (.keyset 97 98)) firmwareAgent = true := by decide

theorem witness_WorkForms_named : ∃ e u s1 x, workTable .staged = some e ∧ Issues .staged gang u s1 ∧ e u s1 = some x :=
  meets_witness .staged workTable gang (by decide)

end Sys2Proof.Tests
end

section
/-!
What memory reads after a write of n bytes (R3): the first byte, the bytes outside, the whole number. A store to one unit
and a mark leave the bytes outside.
-/

namespace Sys2Proof.Machine

@[simp] theorem Mem.write_marks (n : Nat) : ∀ (m : Mem) (a v : Nat), (m.write a n v).marks = m.marks := by
  induction n with
  | zero => intro m a v; rfl
  | succ n ih => intro m a v; exact ih _ _ _

theorem Mem.byte_write_outside (n : Nat) : ∀ (m : Mem) (a v x : Nat), m.wf = true → x < a ∨ a + n ≤ x →
    (m.write a n v).byte x = m.byte x := by
  induction n with
  | zero => intro m a v x _ _; rfl
  | succ n ih =>
    intro m a v x h hx
    calc (m.write a (n + 1) v).byte x
      _ = (m.setByte a (BitVec.ofNat 8 v)).byte x := ih _ _ _ _ (Mem.setByte_wf m a _ h) (by omega)
      _ = m.byte x := by rw [Mem.byte_setByte m a x _ h, if_neg (by omega)]

theorem Mem.byte_write_first (m : Mem) (a n v : Nat) (h : m.wf = true) :
    (m.write a (n + 1) v).byte a = BitVec.ofNat 8 v := by
  calc (m.write a (n + 1) v).byte a
    _ = (m.setByte a (BitVec.ofNat 8 v)).byte a := Mem.byte_write_outside n _ _ _ _ (Mem.setByte_wf m a _ h) (by omega)
    _ = BitVec.ofNat 8 v := by rw [Mem.byte_setByte m a a _ h, if_pos rfl]

theorem Mem.read_write (n : Nat) : ∀ (m : Mem) (a v : Nat), m.wf = true → (m.write a n v).read a n = v % 256 ^ n := by
  induction n with
  | zero => intro m a v _; simp [Mem.read, Nat.mod_one]
  | succ n ih =>
    intro m a v h
    have rest : (m.write a (n + 1) v).read (a + 1) n = v / 256 % 256 ^ n := ih _ _ _ (Mem.setByte_wf m a _ h)
    calc (m.write a (n + 1) v).read a (n + 1)
      _ = (BitVec.ofNat 8 v).toNat + 256 * (v / 256 % 256 ^ n) := by rw [Mem.read, Mem.byte_write_first m a n v h, rest]
      _ = v % 256 + 256 * (v / 256 % 256 ^ n) := by rw [BitVec.toNat_ofNat]
      _ = v % 256 ^ (n + 1) := by rw [Nat.pow_succ', Nat.mod_mul]

@[simp] theorem Mem.byte_mark (m : Mem) (a x : Nat) (p : Bool) : (m.mark a p).byte x = m.byte x := rfl

theorem Mem.byte_store_outside (m : Mem) (u : Nat) (be : BitVec 8) (v : Word) (p : Bool) (x : Nat) (h : m.wf = true)
    (hx : x < u ∨ u + 8 ≤ x) : (m.store u be v p).byte x = m.byte x := by
  have kept := List.foldlRecOn (motive := fun t : Mem => t.wf = true ∧ t.byte x = m.byte x) (List.range 8)
    (fun acc i => if be.getLsbD i then acc.setByte (u + i) (BitVec.ofNat 8 (v.toNat >>> (8 * i))) else acc) ⟨h, rfl⟩
    fun t ht i hi => by
      obtain ⟨hwf, hb⟩ := ht
      have := List.mem_range.mp hi
      split
      · exact ⟨Mem.setByte_wf t _ _ hwf, by rw [Mem.byte_setByte t _ _ _ hwf, if_neg (by omega), hb]⟩
      · exact ⟨hwf, hb⟩
  unfold Mem.store
  dsimp only
  repeat' split
  all_goals exact kept.2

/-- Settles O22, by induction on the number of bytes written. -/
theorem readAfterWrite : Obligations.ReadAfterWrite := by
  unfold Obligations.ReadAfterWrite
  intro m a n v h
  exact ⟨Mem.read_write n m a v h, Mem.write_wf n m a v h, Mem.write_marks n m a v,
    fun x hx => Mem.byte_write_outside n m a v x h hx⟩

end Sys2Proof.Machine
end

section
/-!
What the operations of a home on caches, owners and watches leave as it was (R116 to R118, R359, R391): memory.
-/

namespace Sys2Proof.Machine

/-- What every step of a fold keeps, the fold keeps. -/
theorem foldl_keeps {σ α β : Type} (g : σ → β) (f : σ → α → σ) (hf : ∀ s x, g (f s x) = g s) (xs : List α) (s : σ) :
    g (xs.foldl f s) = g s :=
  List.foldlRecOn (motive := fun t => g t = g s) xs f rfl fun t ht x _ => (hf t x).trans ht

@[simp] theorem State.count_mem (s : State) (r : Req) (pa : Nat) (w : Bool) : (s.count r pa w).mem = s.mem := by
  unfold State.count; split <;> rfl

@[simp] theorem State.revoke_mem (s : State) (wa : Nat) (keep : Option Nat) : (s.revoke wa keep).mem = s.mem := by
  unfold State.revoke
  split
  · rfl
  · split <;> rfl

@[simp] theorem State.revokeLine_mem (s : State) (n : Nat) : (s.revokeLine n).mem = s.mem :=
  foldl_keeps State.mem _ (fun t _ => t.revoke_mem _ _) _ s

@[simp] theorem State.syncMark_mem (s : State) (u : Nat) : (s.syncMark u).mem = s.mem := by
  unfold State.syncMark
  exact foldl_keeps State.mem _ (by intros; rfl) _ s

@[simp] theorem State.syncMark_frees (s : State) (u : Nat) : (s.syncMark u).frees = s.frees := by
  unfold State.syncMark
  exact foldl_keeps State.frees _ (by intros; rfl) _ s

@[simp] theorem State.evictL1_mem (s : State) (core n : Nat) : (s.evictL1 core n).mem = s.mem := by
  unfold State.evictL1
  dsimp only [State.modCore_mem]
  split
  · exact s.count_mem _ _ _
  · rfl

@[simp] theorem State.openL1_mem (s : State) (core n : Nat) (key : BitVec 9) : (s.openL1 core n key).mem = s.mem := by
  unfold State.openL1
  dsimp only
  repeat' split
  all_goals simp

@[simp] theorem State.fillUnit_mem (s : State) (core u : Nat) (key : BitVec 9) (own : List Nat) :
    (s.fillUnit core u key own).mem = s.mem := by
  simp [State.fillUnit]

@[simp] theorem State.writeBackLine_mem (s : State) (n : Nat) : (s.writeBackLine n).mem = s.mem := by
  unfold State.writeBackLine
  split
  · split <;> rfl
  · rfl

@[simp] theorem State.evictLine_mem (s : State) (n : Nat) : (s.evictLine n).mem = s.mem := by
  unfold State.evictLine State.dropLine
  split <;> simp

theorem State.takeWay_mem (s : State) (b : BitVec 4) (n : Nat) : (s.takeWay b n).2.mem = s.mem := by
  unfold State.takeWay
  dsimp only
  split
  · rfl
  · split
    · exact s.evictLine_mem _
    · rfl

@[simp] theorem State.placeLine_mem (s : State) (r : Req) (n : Nat) : (s.placeLine r n).mem = s.mem := by
  have h := s.takeWay_mem r.b n
  unfold State.placeLine
  split
  next hw => rw [hw] at h; exact h
  next hw => rw [hw] at h; exact h

@[simp] theorem State.enqueue_mem (s : State) (r : Nat) : (s.enqueue r).mem = s.mem := by
  unfold State.enqueue; split <;> simp

@[simp] theorem State.swapWake_mem (s : State) (t : Nat) : (s.swapWake t).mem = s.mem := by
  unfold State.swapWake
  dsimp only
  repeat' split
  all_goals simp

@[simp] theorem State.ready_mem (s : State) (g : Nat) : (s.ready g).mem = s.mem := by
  unfold State.ready
  dsimp only
  repeat' split
  all_goals simp

@[simp] theorem State.endWatches_mem (s : State) (wa : Nat) : (s.endWatches wa).mem = s.mem :=
  foldl_keeps State.mem _ State.ready_mem _ _

end Sys2Proof.Machine
end

section
/-!
A write to a line whose tag fails spoils the line (R412), and with it bytes that the write does not name: the case that
refutes O20.
-/

namespace Sys2Proof.Machine

/-! ### A write to a line whose tag fails -/

/-- One step of State.spoilLine: unit i of line n replaced by a free value, with its mark. -/
def State.spoilUnit (n : Nat) (s : State) (i : Nat) : State :=
  ({ s with
    frees := s.frees + 1
    mem := (s.mem.write (64 * n + 8 * i) 8 (Config.freeWord s.frees).toNat).mark (64 * n + 8 * i) true } : State).syncMark
      (64 * n + 8 * i)

theorem State.spoilLine_eq (s : State) (n : Nat) : s.spoilLine n = (List.range 8).foldl (State.spoilUnit n) s := rfl

theorem State.spoilUnit_wf (s : State) (n i : Nat) (h : s.mem.wf = true) : (s.spoilUnit n i).mem.wf = true := by
  simpa [State.spoilUnit] using Mem.mark_wf _ _ true (Mem.write_wf 8 _ _ _ h)

@[simp] theorem State.spoilUnit_frees (s : State) (n i : Nat) : (s.spoilUnit n i).frees = s.frees + 1 := by
  simp [State.spoilUnit]

theorem State.spoilUnit_byte_first (s : State) (n i : Nat) (h : s.mem.wf = true) :
    (s.spoilUnit n i).mem.byte (64 * n + 8 * i) = (Config.freeWord s.frees).setWidth 8 := by
  simpa [State.spoilUnit, BitVec.ofNat_toNat] using Mem.byte_write_first s.mem (64 * n + 8 * i) 7 (Config.freeWord s.frees).toNat h

theorem State.spoilUnit_byte_outside (s : State) (n i x : Nat) (h : s.mem.wf = true)
    (hx : x < 64 * n + 8 * i ∨ 64 * n + 8 * i + 8 ≤ x) : (s.spoilUnit n i).mem.byte x = s.mem.byte x := by
  simpa [State.spoilUnit] using Mem.byte_write_outside 8 s.mem (64 * n + 8 * i) _ x h hx

/-- After k units the first byte of each of them is that of the free value taken for it. -/
theorem State.spoilUnits_spec (s : State) (n : Nat) (h : s.mem.wf = true) (k : Nat) :
    let t := (List.range k).foldl (State.spoilUnit n) s
    t.mem.wf = true ∧ t.frees = s.frees + k ∧
      ∀ i < k, t.mem.byte (64 * n + 8 * i) = (Config.freeWord (s.frees + i)).setWidth 8 := by
  induction k with
  | zero => exact ⟨h, rfl, fun i hi => absurd hi (Nat.not_lt_zero i)⟩
  | succ k ih =>
    obtain ⟨hwf, hfrees, hbyte⟩ := ih
    simp only [List.range_succ, List.foldl_append, List.foldl_cons, List.foldl_nil]
    refine ⟨State.spoilUnit_wf _ n k hwf, by rw [State.spoilUnit_frees, hfrees, Nat.add_assoc], fun i hi => ?_⟩
    obtain hlt | rfl := Nat.lt_succ_iff_lt_or_eq.mp hi
    · rw [State.spoilUnit_byte_outside _ n k _ hwf (by omega), hbyte i hlt]
    · rw [State.spoilUnit_byte_first _ n i hwf, hfrees]

/-- The end of State.dirtyLine: a line that is not held is placed; held it is changed by f, else it is sealed at once. -/
def State.holdDirty (s : State) (r : Req) (n : Nat) (f : L2Line → L2Line) : State :=
  let s := if (s.l2.find? (·.line == n)).isSome then s else s.placeLine r n
  match s.l2.find? (·.line == n) with
  | none => { s with seals := put n (s.sealNow n r.key r.t) s.seals }
  | some l => if l.dirty then s else { s with l2 := changeFirst (·.line == n) f s.l2 }

@[simp] theorem State.holdDirty_mem (s : State) (r : Req) (n : Nat) (f : L2Line → L2Line) :
    (s.holdDirty r n f).mem = s.mem := by
  unfold State.holdDirty
  extract_lets placed
  have hp : placed.mem = s.mem := by
    unfold placed
    split <;> simp
  split
  · exact hp
  · split <;> exact hp

/-- A write to a line whose tag fails spoils it first. -/
theorem State.dirtyLine_of_tagFails {s s' : State} {r : Req} {pa : Nat} (hh : isHbm pa = true)
    (ho : s.openLine r pa = (s', true)) : ∃ f, s.dirtyLine r pa = (s'.spoilLine (pa / 64)).holdDirty r (pa / 64) f := by
  unfold State.dirtyLine
  simp only [ho, hh, Bool.not_true, Bool.false_eq_true, if_false, if_true]
  generalize s'.spoilLine (pa / 64) = spoilt
  exact ⟨_, rfl⟩

theorem State.unitPut_mem (s : State) (r : Req) (u : Nat) (be : BitVec 8) (v : Word) (p : Bool) (owner : Option Nat) :
    (s.unitPut r u be v p owner).mem = (s.dirtyLine r u).mem.store u be v (p && !isHost u) := by
  unfold State.unitPut
  dsimp only
  rw [foldl_keeps State.mem _ (fun t wa => ?_)]
  · simp
  · rw [State.endWatches_mem]
    split
    · split <;> simp
    · simp

/-- A write to a line whose tag fails: the first byte of each other unit of the line is that of a free value (R412). -/
theorem State.homePut_byte_of_tagFails {s s' : State} {r : Req} {u i : Nat} (be : BitVec 8) (v : Word) (p : Bool)
    (owner : Option Nat) (hh : isHbm u = true) (ho : (s.count r u true).openLine r u = (s', true)) (hwf : s'.mem.wf = true)
    (hi : i < 8) (hout : 64 * (u / 64) + 8 * i < u ∨ u + 8 ≤ 64 * (u / 64) + 8 * i) :
    (s.homePut r u be v p owner).mem.byte (64 * (u / 64) + 8 * i) = (Config.freeWord (s'.frees + i)).setWidth 8 := by
  obtain ⟨hspoiled, -, hbyte⟩ := s'.spoilUnits_spec (u / 64) hwf 8
  obtain ⟨f, hf⟩ := State.dirtyLine_of_tagFails hh ho
  rw [State.homePut, State.unitPut_mem, hf, State.holdDirty_mem, State.spoilLine_eq,
    Mem.byte_store_outside _ _ _ _ _ _ hspoiled hout, hbyte i hi]

/-! ### A store performed at its home -/

theorem State.perform_mem_of_store {s : State} {p : Pending} (hp : p.op = .store) :
    (s.perform p).mem = (s.homePut p.req p.pa p.be p.val p.poison p.owner).mem := by
  unfold State.perform
  simp only [hp]
  split <;> simp

theorem exec_registrationAck_performs {s : State} {k : Nat} {p : Pending} (hp : s.pend[k]? = some p) (hr : p.registered = true)
    (ho : s.inOrder p.core (p.homes.map fun h => (h, p.ack)) = true) (hh : isHost p.pa = false) :
    exec (.registrationAck k) s = .next (({ s with pend := dropAt k s.pend } : State).perform p) := by
  change execRegistrationAck k s = _
  simp [execRegistrationAck, hp, hr, ho, hh, Pending.performed]

theorem registrationAck_mem_of_store {s t : State} {k : Nat} {p : Pending} (hp : s.pend[k]? = some p) (hop : p.op = .store)
    (hr : p.registered = true) (ho : s.inOrder p.core (p.homes.map fun h => (h, p.ack)) = true) (hh : isHost p.pa = false)
    (ht : exec (.registrationAck k) s = .next t) :
    t.mem = (({ s with pend := dropAt k s.pend } : State).homePut p.req p.pa p.be p.val p.poison p.owner).mem := by
  rw [exec_registrationAck_performs hp hr ho hh] at ht
  injection ht with ht
  rw [← ht, State.perform_mem_of_store hop]

/-- A store of 8 bytes to the first unit of line 1, through tensor slot 0; its home has taken it. -/
def storeToLine1 : Pending :=
  { op := .store, agent := 16, core := 256, va := 0x40, pa := 0x40, be := 0xFF, val := 0, poison := false, key := 0, t := 0
    registered := true, berth := 0, cls := 3, grid := 0, ord := 0 }

/-- The store on its way to line 1, which was sealed through tensor slot 1 with x in byte 0x48: its tag fails under
tensor slot 0 (R411, R412). -/
def storeToSealedLine (x : Byte) : State :=
  { State.reset with
    mem := Mem.empty.setByte 0x48 x
    seals := [(1, .under none 1 0 0)]
    pend := [storeToLine1] }

/-- Its tag fails: the seal of line 1 is not the one that tensor slot 0 gives, and without keys nothing is read. -/
theorem storeToSealedLine_tagFails (x : Byte) :
    let s : State := { storeToSealedLine x with pend := dropAt 0 (storeToSealedLine x).pend }
    ∃ s', (s.count storeToLine1.req 0x40 true).openLine storeToLine1.req 0x40 = (s', true) ∧
      s'.mem = (storeToSealedLine x).mem ∧ s'.frees = 0 :=
  ⟨_, rfl, rfl, rfl⟩

theorem storeToSealedLine_inOrder (x : Byte) : (storeToSealedLine x).inOrder storeToLine1.core
    (storeToLine1.homes.map fun h => (h, storeToLine1.ack)) = true := rfl

theorem storeToSealedLine_wf (x : Byte) : (storeToSealedLine x).mem.wf = true := Mem.setByte_wf _ _ _ Mem.empty_wf

/-- Once the store is acknowledged, byte 0x48 no longer depends on what it held. -/
theorem storeToSealedLine_byte {x : Byte} {t : State} (ht : exec (.registrationAck 0) (storeToSealedLine x) = .next t) :
    t.mem.byte 0x48 = (Config.freeWord 1).setWidth 8 := by
  obtain ⟨s', ho, hmem, hfrees⟩ := storeToSealedLine_tagFails x
  have hwf : s'.mem.wf = true := hmem ▸ storeToSealedLine_wf x
  rw [registrationAck_mem_of_store rfl rfl rfl (storeToSealedLine_inOrder x) rfl ht]
  have spoilt := State.homePut_byte_of_tagFails storeToLine1.be storeToLine1.val storeToLine1.poison storeToLine1.owner rfl ho hwf
    (show 1 < 8 by decide) (by decide)
  rw [hfrees] at spoilt
  exact spoilt

/-- Refutes O20: the clause of an acknowledged store to HBM leaves out lines whose tag fails. Such a line is spoilt when it is
written (R412), so a byte of another unit of it becomes that of a free value, whatever it held before: it cannot be as before
both where it held 0 and where it held 1. -/
theorem not_storeAtHome : ¬ Obligations.StoreAtHome := by
  unfold Obligations.StoreAtHome
  intro h
  have kept : ∀ x : Byte, (Config.freeWord 1).setWidth 8 = x := by
    intro x
    obtain ⟨-, -, acked⟩ := h (storeToSealedLine x) 0 storeToLine1 (storeToSealedLine_wf x) rfl
    obtain ⟨t, ht, performs⟩ := (acked rfl rfl).1 rfl rfl
    calc (Config.freeWord 1).setWidth 8
      _ = t.mem.byte 0x48 := (storeToSealedLine_byte ht).symm
      _ = (storeToSealedLine x).mem.byte 0x48 := (performs 0x48).trans (if_neg (by decide))
      _ = x := by rw [storeToSealedLine, Mem.byte_setByte _ _ _ _ Mem.empty_wf, if_pos rfl]
  exact absurd ((kept 0).symm.trans (kept 1)) (by decide)

end Sys2Proof.Machine
end
